-- ==== Sys2Proof/Word.lean ====
section
/-! DEFINITION. The two word sizes of the part's packets: bytes, and the sixteen-bit words of pixels, counters and CRCs
(spec 11). Every other quantity of the spec is a number with a range and stands as Nat or Int. -/

namespace Sys2Proof

/-- One byte of a packet. -/
abbrev Byte := BitVec 8

/-- One sixteen-bit field of a packet, sent high byte first (R191). -/
abbrev Half := BitVec 16

end Sys2Proof
end

