-- ==== Sys2Proof/Syntax.lean ====
section
/-! DEFINITION. The events the part takes: one constructor of Instr per row of spec/opcode_table.json, in the table's order.
The rows give no operand fields; a constructor carries what its event brings with it (the bytes of a packet, the level of a
pin, the outcome of a bus transaction). A request's operands come with REQUEST_ARRIVAL; the row of a request kind is the step
in which the Management Port takes such a request from the Request Queue and carries it out (R175). -/

namespace Sys2Proof

/-- A timing line, L0 to L5 (spec 02). -/
abbrev LineNo := Fin 6

/-- A channel of the thermistor converter (R40). -/
inductive Channel
  | th0
  | th1
  deriving DecidableEq, Repr

/-- The direction a device address is sent with (R147). -/
inductive BusDirection
  | write
  | read
  deriving DecidableEq, Repr

/-- How a transaction on the sensor bus ends, as R148 lists it, but for TIMEOUT, which is BUS_CLOCK_TIMEOUT, and BLOCKED and
BUS_STUCK, which the bridge finds by itself (R150, R151). -/
inductive BusEnd
  /-- Every byte was acknowledged. A READ has taken these bytes, in bus order, and a WRITE none. -/
  | done (data : List Byte)
  /-- The device did not acknowledge its address in this direction; a WRITE sends it in the write direction alone. -/
  | nackAddress (direction : BusDirection)
  /-- The device refused the byte of this index, numbered as R147 numbers them. -/
  | nackData (index : Nat)
  deriving DecidableEq, Repr

inductive Instr
  /-- Power is applied; the pin levels are those first sampled, L0 in bit 0 (R27). -/
  | powerOn (pins : BitVec 6)
  | resetN
  /-- A whole request packet: its tag, kind and length field, the payload bytes that arrived before its end, its CRC (R173). -/
  | requestArrival (tag kind length : Byte) (payload : List Byte) (crc : Half)
  | requestUnknownKind
  | tableOpen
  | tableAppend
  | tableClose
  | tableRead
  | paramSet
  | paramGet
  | takeStart
  | takePause
  | takeResume
  | takeStop
  | takeFinish
  | takeAbort
  | takeClear
  | renderPreview
  | renderRepeat
  | logRead
  | statusRead
  | bridgeWrite
  | bridgeRead
  | bridgeRecover
  /-- The pulse train and the stop have been sent; the data line is found high or not (R152). -/
  | bridgeRecoverDone (lineHigh : Bool)
  | lineLevel
  | lineRead
  | partReset
  | waitingReplyQueued
  | relayReplyQueued
  | trailQueueDrain
  | holdOut
  | goOut
  | controlSymbolUnknown
  | linkInLockGained
  | linkInLockLost
  /-- The sensor frame counter (R45). -/
  | frameStart (counter : Half)
  /-- The row index, the pixel words that the pixel count field has the receiver read, and the CRC received behind them; none where
  the packet ends before them (R45, R46; log 39). -/
  | line (row : Half) (words : List Half) (crc : Option Half)
  /-- The line count, which the part does not judge rows by (R50). -/
  | frameEnd (lines : Half)
  | linkInPacketDiscard
  | linkOutLockLoss
  | linkOutLockRegain
  | linkOutPacketEnd
  | renderRowRead
  | clearingPassComplete
  | shutterSettleExpiry
  | gapTimerExpiry
  | exposureTimerExpiry
  | extensionTimerExpiry
  | readoutTimerExpiry
  | ingestEntry
  | settleEnd
  | minPulseExpiry (line : LineNo)
  | inputPinChange (line : LineNo) (high : Bool)
  | debounceExpiry (line : LineNo)
  /-- A channel's ten-bit code (R40). -/
  | adcConversion (channel : Channel) (code : BitVec 10)
  | heaterPwmPeriod
  | pwmActiveEnd
  | pollClaim
  | busTransactionEnd (outcome : BusEnd)
  | busClockTimeout
  deriving DecidableEq, Repr

end Sys2Proof
end

