-- ==== Sys2Proof/Decode.lean ====
section
/-! DEFINITION. No row of spec/opcode_table.json has bits: the rows are events of the part, not words a decoder reads. -/

namespace Sys2Proof

/-- The command a word of the opcode table spells: none, for every word, since the table gives no row any bits. A REQUEST's
own byte layout is read by REQUEST_ARRIVAL and by the taking of the request (R173, R176, spec 11). -/
def decodeTableWord (_nbits _w : Nat) : Option Instr := none

end Sys2Proof
end

