-- ==== Sys2Proof/Config.lean ====
section
/-! DEFINITION. What the spec fixes for every part (the capacities of its collections) and what it leaves open (the free
values, constants with no body, so that no proof can rest on what they are). -/

namespace Sys2Proof

/-- What the bridge finds when it looks at the sensor bus data line at the start of a transaction (R151). -/
inductive DataLine
  /-- High: the transaction proceeds. -/
  | high
  /-- Low, and high after the nine pulses and the stop: the transaction proceeds. -/
  | freed
  /-- Low, and still low after the recovery: BUS_STUCK. -/
  | stuck
  deriving DecidableEq, Repr, Inhabited

/-- FREE VALUE. The data line as the k-th look of the bridge finds it: the devices on the bus decide it (R151; log 7). -/
opaque Config.dataLine : Nat → DataLine

/-- FREE VALUE. How many records, counted in row-major order, a stopped CLEARING pass had written, where that is at most the
records of the take's geometry (R88 says it stops at the record it has reached, and no rule says which; log 8). -/
opaque Config.clearedRecords : Nat → Nat

/-- FREE VALUE. How many actions on the bus a transaction or a pulse train had done when a device held the clock low, or when
PART_RESET stopped it, where that is fewer than all of them (R148 says at any point and R146 in mid-transfer; log 36). -/
opaque Config.cutActions : Nat → Nat

/-- FREE VALUE. Which of the packets that one event makes available on an idle lane starts, by its place among them, where that is
taken modulo how many there are (R165 says that either may be taken first; log 40). -/
opaque Config.idleLaneChoice : Nat → Nat

/-- FREE VALUE. The two-byte trails field of a record whose count of trails does not fit in two bytes (log 9). -/
opaque Config.trailsBeyondField : Nat → Half

/-- FREE VALUE. The two-byte lines-sent field of a RAW FRAME_END whose count of lines does not fit in two bytes (R61; log 38). -/
opaque Config.linesBeyondField : Nat → Half

/-- Line FIFO entries (R58). -/
def Config.fifoCapacity : Nat := 48
/-- Outgoing Packet Queue entries (R166). -/
def Config.outQueueCapacity : Nat := 16
/-- Request Queue places (R173). -/
def Config.requestCapacity : Nat := 8
/-- The occupancy at which HOLD_REQ is handed over (R174). -/
def Config.holdReqMark : Nat := 6
/-- The occupancy at which GO_REQ is handed over (R174). -/
def Config.goReqMark : Nat := 2
/-- Relay Queue places (R154). -/
def Config.relayCapacity : Nat := 4
/-- Open trails (R121). -/
def Config.openTrailCapacity : Nat := 16
/-- Entries of one veto list (R124). -/
def Config.vetoCapacity : Nat := 16
/-- Trail Queue records (R125). -/
def Config.trailQueueCapacity : Nat := 32
/-- The raw-run count at which a queued packet goes first (R164). -/
def Config.rawRunLimit : Nat := 32
/-- The largest payload of a request, in bytes (R173). -/
def Config.maxPayload : Nat := 60

end Sys2Proof
end

