-- ==== Sys2Proof/Machine/State.lean ====
section
/-! DEFINITION. Everything the spec gives the part, as plain data, block by block, and the state after power-on and RESET_N.
INVENTORY.md names the rule of each field. Reset values the spec does not state are zeros named in log 12. -/

namespace Sys2Proof.Machine

/-- No event stops the part: every rule of the spec ends in a state from which it goes on, so nothing raises a fault. -/
inductive Fault
  deriving DecidableEq, Repr

inductive Refusal
  /-- Raised by an arm of exec whose command has no meaning yet. Safe: the machine says nothing about it. -/
  | notModelled (mnemonic : String)
  deriving DecidableEq, Repr

/-! ### Sequencer (spec 01) -/

inductive TakeState
  | noTake | clearing | running | paused | complete | finishing | finished | aborted
  deriving DecidableEq, Repr

/-- NONE in every take state but RUNNING (R1). -/
inductive Phase
  | none | stepStart | wait | expose | hold | readout | settle
  deriving DecidableEq, Repr

inductive Kind
  | dark | light
  deriving DecidableEq, Repr

structure Sequencer where
  takeState : TakeState
  planeValid : Bool
  phase : Phase
  /-- The plan position (R2). -/
  step : Nat
  count : Nat
  notStarted : Bool
  pausePending : Bool
  stopPending : Bool
  finishPending : Bool
  abortPending : Bool
  /-- The close in hand was caused by TAKE_ABORT in EXPOSE, HOLD or READOUT (R24). -/
  closeAbandoned : Bool
  /-- A FINAL request waits for an IDLE Render Unit (R133). -/
  finalHeld : Bool
  autoCount : Nat
  shutter : Bool
  stepLevel : Bool
  /-- Each timer is the time at which it ends, or none while it is stopped. -/
  settleTimer : Option Nat
  gapTimer : Option Nat
  exposureTimer : Option Nat
  extensionTimer : Option Nat
  readoutTimer : Option Nat
  /-- The model's own number of the exposure last begun, by which its poll is known (R159; log 29). -/
  exposureNumber : Nat
  exposeStart : Nat
  holdStart : Nat
  /-- LINE_TIME of the exposure last released (R39). -/
  lineTime : Nat
  /-- Script indices not yet handed to the Sensor Bridge (R157). -/
  scriptLeft : List Nat
  /-- When this exposure's poll is to be claimed (R159). -/
  pollAt : Option Nat
  /-- This exposure's poll has ended DONE (R161). -/
  pollDone : Bool
  deriving DecidableEq, Repr

/-! ### Subframe Log (R23, R24) -/

inductive SubframeOutcome
  | integrated | partialFrame | missing | abandoned
  deriving DecidableEq, Repr

inductive ExposureSource
  | feedback | lineTime
  deriving DecidableEq, Repr

inductive TempState
  | fresh | stale | absent
  deriving DecidableEq, Repr

structure SubframeRecord where
  index : Nat
  kind : Kind
  step : Nat
  outcome : Option SubframeOutcome
  frameCounter : Option Half
  commandedUs : Nat
  heldUs : Nat
  exposedUs : Option Nat
  exposureSource : Option ExposureSource
  tempState : Option TempState
  temperature : Option Int
  scale : Option Nat
  admitted : Nat
  rejected : Nat
  saturated : Nat
  excluded : Nat
  lost : Nat
  outliers : Nat
  clamped : Nat
  extraLines : Nat
  trails : Nat
  unattributed : Nat
  vetoFull : Bool
  trailQueueFull : Bool
  scaleSaturated : Bool
  feedbackMissing : Bool
  deriving DecidableEq, Repr

/-- The closed records in index order, and the one open record, which is the last of the log while it stands. -/
structure SubframeLog where
  closed : List SubframeRecord
  openRecord : Option SubframeRecord
  deriving DecidableEq, Repr

/-! ### Tables (spec 10.3, 11.4) -/

inductive TableState
  | empty | loading | ready
  deriving DecidableEq, Repr

structure Table (α : Type) where
  state : TableState
  entries : List α
  deriving DecidableEq, Repr

inductive TableName
  | plan | defects | horizon | regions | darkModel | lines | heaterCurve | adcCurve0 | adcCurve1 | bridgeAllow | bridgeScript
  deriving DecidableEq, Repr

inductive Cadence
  | internal | external
  deriving DecidableEq, Repr

structure PlanStep where
  kind : Kind
  count : Nat
  exposure : Nat
  gap : Nat
  cadence : Cadence
  forward : Bool
  stepLevel : Bool
  scriptFirst : Nat
  scriptCount : Nat
  deriving DecidableEq, Repr

inductive DefectMethod
  | substitute | exclude
  deriving DecidableEq, Repr

structure Defect where
  row : Nat
  column : Nat
  method : DefectMethod
  deriving DecidableEq, Repr

structure Vertex where
  column : Nat
  row : Nat
  deriving DecidableEq, Repr

inductive Region
  | sky | ground
  deriving DecidableEq, Repr

inductive Mode
  | meanReject | peak | peakFade | exclude
  deriving DecidableEq, Repr

structure Policy where
  mode : Mode
  kappa : Nat
  warmup : Nat
  sigmaFloor : Nat
  fade : Nat
  trailDetect : Bool
  veto : Bool
  deriving DecidableEq, Repr

/-- The policy made of every default of the table of 5.4 (R91). -/
def Policy.default : Policy :=
  { mode := .meanReject, kappa := 48, warmup := 5, sigmaFloor := 2, fade := 230, trailDetect := true, veto := true }

structure RegionEntry where
  region : Region
  policy : Policy
  deriving DecidableEq, Repr

/-- A point of a curve: (code, Tq), (Tq, duty) or (Tq, factor). -/
structure CurvePoint where
  x : Int
  y : Int
  deriving DecidableEq, Repr

inductive LineSource
  | user | expose | ready | shutter | stepLevel | heater | readout
  deriving DecidableEq, Repr

inductive LineFunction
  | none | expFeedback | triggerIn | pauseIn | stopIn
  deriving DecidableEq, Repr

inductive LineUse
  | input (function : LineFunction) (debounce : Nat)
  | output (source : LineSource) (minPulse : Nat)
  deriving DecidableEq, Repr

/-- A LINES entry. The flags byte is kept as it was appended: bit 0 is invert, bit 1 notify (11.4). -/
structure LineEntry where
  line : Nat
  flags : Byte
  use : LineUse
  deriving DecidableEq, Repr

/-- A register address with its width, 16 bits when wide and 8 otherwise (08 8.1). -/
structure RegAddr where
  wide : Bool
  addr : Nat
  deriving DecidableEq, Repr

structure ScriptEntry where
  device : Nat
  reg : RegAddr
  data : List Byte
  deriving DecidableEq, Repr

structure Tables where
  plan : Table PlanStep
  defects : Table Defect
  horizon : Table Vertex
  regions : Table RegionEntry
  darkModel : Table CurvePoint
  lines : Table LineEntry
  heaterCurve : Table CurvePoint
  adcCurve0 : Table CurvePoint
  adcCurve1 : Table CurvePoint
  bridgeAllow : Table Nat
  bridgeScript : Table ScriptEntry
  deriving DecidableEq, Repr

/-! ### Parameters and recorded settings (spec 10.4, R183) -/

inductive TempSource
  | sensorRegister | adcTh1
  deriving DecidableEq, Repr

structure Params where
  width : Nat
  height : Nat
  blackLevel : Nat
  satLevel : Nat
  gapCols : Nat
  segMin : Nat
  gapRows : Nat
  margin : Nat
  minExtent : Nat
  pedestal : Nat
  readoutTimeout : Nat
  maxExtension : Nat
  forwardDropLevel : Nat
  strayForward : Bool
  autoPreview : Nat
  shutterSettle : Nat
  tempSource : TempSource
  pollDevice : Nat
  pollRegister : RegAddr
  pollGain : Int
  pollOffset : Int
  pollLead : Nat
  bridgeSpeed : Nat
  heaterEnable : Bool
  /-- The enable of report kind k in bit k - 1 (11.3). -/
  reportMask : Byte
  deriving DecidableEq, Repr

/-- The parameters of the table of 10.4, in its order; they are numbered from 1, report_mask being 25 (R191). -/
inductive Param
  | width | height | blackLevel | satLevel | gapCols | segMin | gapRows | margin | minExtent | pedestal | readoutTimeout
  | maxExtension | forwardDropLevel | strayForward | autoPreview | shutterSettle | tempSource | pollDevice | pollRegister
  | pollGain | pollOffset | pollLead | bridgeSpeed | heaterEnable | reportMask
  deriving DecidableEq, Repr

/-- What the port records at the acceptance of TAKE_START (R183). -/
structure TakeSettings where
  width : Nat
  height : Nat
  vertices : List Vertex
  sky : Policy
  ground : Policy
  margin : Nat
  deriving DecidableEq, Repr

/-! ### Timing Line Unit and Temperature Unit (spec 02) -/

structure LineState where
  /-- The level the outside puts on the pin; the part drives the pin instead while the line is an OUTPUT. -/
  outside : Bool
  user : Bool
  /-- The logical level an OUTPUT line drives. -/
  driven : Bool
  minTimer : Option Nat
  /-- The accepted level of the pin of an INPUT line. -/
  accepted : Bool
  debounceTimer : Option Nat
  deriving DecidableEq, Repr

structure LineBank where
  l0 : LineState
  l1 : LineState
  l2 : LineState
  l3 : LineState
  l4 : LineState
  l5 : LineState
  deriving DecidableEq, Repr

structure MeasurementTimer where
  armed : Bool
  startCapture : Option Nat
  endCapture : Option Nat
  deriving DecidableEq, Repr

structure TemperatureUnit where
  /-- The channel the converter takes next: TH0 and then TH1 in every period (R40). -/
  due : Channel
  code0 : Option (BitVec 10)
  code1 : Option (BitVec 10)
  th0 : Option Int
  th1 : Option Int
  deriving DecidableEq, Repr

structure Heater where
  duty : Nat
  /-- The PWM is in the active part of its period. -/
  pwmActive : Bool
  periodStart : Nat
  /-- How long this period is active, from the duty at its start (R44). -/
  activeUs : Nat
  deriving DecidableEq, Repr

/-! ### Link Receiver and Line FIFO (spec 03) -/

inductive FrameState
  | none | subframe | stray
  deriving DecidableEq, Repr

structure Readout where
  kind : Kind
  forward : Bool
  /-- The readout has seen a frame of its own (R48). -/
  seenFrame : Bool
  deriving DecidableEq, Repr

inductive RowState
  | unseen | queued | lost | ingested
  deriving DecidableEq, Repr

/-- Whether the frame arriving on Link In is forwarded: not asked for, as the forwarded frame of this number, or abandoned
(R61 to R63, R171). -/
inductive Forwarding
  | no
  | frame (number : Nat)
  | abandoned
  deriving DecidableEq, Repr

/-- A sparse array in canonical form: keys strictly rising, no entry equal to what an unlisted key reads as. -/
abbrev Memory (α : Type) := List (Nat × α)

structure LinkReceiver where
  locked : Bool
  frame : FrameState
  lastRow : Option Nat
  readout : Option Readout
  /-- The row-visited map; an unlisted row is UNSEEN (R54). -/
  rowMap : Memory RowState
  strayCount : Nat
  forwarding : Forwarding
  deriving DecidableEq, Repr

inductive LineClass
  | subframe | stray
  deriving DecidableEq, Repr

inductive ForwardState
  | notRequested | pending | sent | abandoned
  deriving DecidableEq, Repr

structure FifoEntry where
  /-- The model's own number of the entry. -/
  number : Nat
  row : Nat
  /-- Absent for a lost-row marker, whose status is LOST_ROW; present for a GOOD entry (R53). -/
  pixels : Option (List Nat)
  cls : LineClass
  ingestDone : Bool
  forward : ForwardState
  /-- The forwarded frame the entry was pushed for. -/
  frame : Option Nat
  deriving DecidableEq, Repr

structure ForwardedFrame where
  number : Nat
  frameId : Nat
  width : Nat
  height : Nat
  startBegun : Bool
  linesSent : Nat
  /-- Still takes new lines. -/
  isOpen : Bool
  /-- Abandoned by the drop level (R62). -/
  truncated : Bool
  deriving DecidableEq, Repr

structure LineFifo where
  entries : List FifoEntry
  frames : List ForwardedFrame
  nextEntry : Nat
  nextFrame : Nat
  deriving DecidableEq, Repr

/-! ### Calibration Unit, plane and Trail Detector (spec 04 to 06) -/

structure Calibration where
  cursor : Nat
  darkCount : Nat
  darkExposure : Nat
  darkTempTotal : Int
  darkTempCount : Nat
  scale : Option Nat
  deriving DecidableEq, Repr

structure Pixel where
  n : Nat
  sat : Nat
  m16 : Int
  m2 : Nat
  darkN : Nat
  darkSum : Int
  peak : Option Int
  /-- pending with its pending_sf: present together or absent together (R85). -/
  pending : Option (Int × Nat)
  deriving DecidableEq, Repr

/-- What the CLEARING pass writes (R87). -/
def Pixel.cleared : Pixel :=
  { n := 0, sat := 0, m16 := 0, m2 := 0, darkN := 0, darkSum := 0, peak := none, pending := none }

inductive Holder
  | none | clearing | ingest | render
  deriving DecidableEq, Repr

inductive WaitingClaim
  | none | ingest | render
  deriving DecidableEq, Repr

structure Arbiter where
  holder : Holder
  waiting : WaitingClaim
  deriving DecidableEq, Repr

structure OpenTrail where
  firstRow : Nat
  lastRow : Nat
  minCol : Nat
  maxCol : Nat
  spanLeft : Nat
  spanRight : Nat
  flagged : Nat
  sky : Bool
  ground : Bool
  deriving DecidableEq, Repr

structure TrailBox where
  firstRow : Nat
  lastRow : Nat
  minCol : Nat
  maxCol : Nat
  deriving DecidableEq, Repr

structure VetoList where
  index : Option Nat
  boxes : List TrailBox
  deriving DecidableEq, Repr

structure TrailRecord where
  subframe : Nat
  number : Nat
  box : TrailBox
  flagged : Nat
  sky : Bool
  ground : Bool
  vetoing : Bool
  deriving DecidableEq, Repr

structure TrailDetector where
  openTrails : List OpenTrail
  counter : Nat
  current : VetoList
  previous : VetoList
  queue : List TrailRecord
  deriving DecidableEq, Repr

/-! ### Render Unit (spec 07) -/

inductive RenderState
  | idle | pending | active
  deriving DecidableEq, Repr

inductive RenderKind
  | preview | final
  deriving DecidableEq, Repr

inductive AbandonReason
  | extensionLimit | abort | linkDown | partReset
  deriving DecidableEq, Repr

structure RenderUnit where
  state : RenderState
  kind : RenderKind
  frameId : Nat
  nextId : Nat
  pedestal : Nat
  lights : Nat
  row : Nat
  holes : Nat
  fullScale : Nat
  /-- The LINE of the row cursor has been handed over and not yet sent in full. -/
  rowHanded : Bool
  startBegun : Bool
  linesSent : Nat
  deriving DecidableEq, Repr

/-! ### Sensor Bridge (spec 08) -/

inductive BridgeState
  | idle | busy | fault
  deriving DecidableEq, Repr

inductive BusAccess
  | write (data : List Byte)
  | read (count : Nat)
  deriving DecidableEq, Repr

/-- Whose transaction it is. A POLL carries the number of the exposure it serves and the gain and offset it was presented with
(R159, R160). A SCRIPT carries its step and index, and whether its step still waits for it (R157). -/
inductive Claimant
  | poll (exposure : Nat) (gain offset : Int)
  | script (step index : Nat) (live : Bool)
  | relay
  deriving DecidableEq, Repr

structure Transaction where
  claimant : Claimant
  device : Nat
  reg : RegAddr
  access : BusAccess
  deriving DecidableEq, Repr

/-- What the bridge does on the sensor bus, in the words of R147, R148 and R151. -/
inductive BusAction
  | start
  | address (device : Nat) (direction : BusDirection)
  /-- A byte the bridge sends. -/
  | send (byte : Byte)
  /-- A byte the bridge takes from the device, acknowledged or not. -/
  | take (acknowledged : Bool)
  | stop
  /-- A clock pulse of a recovery (R151). -/
  | pulse
  /-- Both lines are let go, with no stop condition (R148). -/
  | release
  deriving DecidableEq, Repr

/-- Something the bridge has put on the bus, from its start to its end, with the speed in kHz it went at. -/
structure BusRun where
  speed : Nat
  actions : List BusAction
  deriving DecidableEq, Repr

structure InFlight where
  transaction : Transaction
  /-- The bus speed in kHz it began with (R147). -/
  speed : Nat
  /-- What the bridge does on the bus for it, in order, as long as the device acknowledges; how far it got stands in
  SensorBridge.bus once it has ended. -/
  actions : List BusAction
  deriving DecidableEq, Repr

/-- The outcomes of R148. -/
inductive BusOutcome
  | done | nackAddress | nackData (index : Nat) | timeout | busStuck | blocked
  deriving DecidableEq, Repr

inductive RelayState
  | waiting
  | onBus
  | replyWaiting (outcome : BusOutcome) (data : List Byte)
  deriving DecidableEq, Repr

structure Relay where
  tag : Byte
  device : Nat
  reg : RegAddr
  access : BusAccess
  state : RelayState
  deriving DecidableEq, Repr

structure SensorBridge where
  state : BridgeState
  inFlight : Option InFlight
  waitingPoll : Option Transaction
  waitingScript : Option Transaction
  relays : List Relay
  lastGood : Option Int
  /-- The BRIDGE_RECOVER pulse train that runs, by its speed in kHz (R152). -/
  train : Option Nat
  /-- How many pulse trains follow it, each of a BRIDGE_RECOVER taken while an earlier one's train still ran (R152; log 31). -/
  trainsWaiting : Nat
  /-- The model's record of what the bridge has put on the bus, newest first: recoveries, and transactions and pulse trains as far as
  they went, with their end (R146, R148, R151, R152; log 29). -/
  bus : List BusRun
  deriving DecidableEq, Repr

/-! ### Output Scheduler (spec 09) -/

/-- The statuses of R191, in its order. -/
inductive Status
  | ok | okClamped | accepted | busy | badState | unknownKind | badLength | badArg | tableNotOpen | tableOrder | tableRange
  | tableFull | tableConflict | planInvalid | profileGeometry | invalidPlane | done | nackAddress | nackData | timeout
  | busStuck | blocked
  deriving DecidableEq, Repr

/-- The report kinds of the table of 10.6, in its order. -/
inductive ReportKind
  | subframeClosed | trail | takeState | renderDone | renderAbandoned | lineChange | scriptResult | bridgeFault
  deriving DecidableEq, Repr

inductive QueuedPacket
  | reply (tag kind : Byte) (status : Status) (payload : List Byte)
  | report (kind : ReportKind) (lostBefore : Bool) (payload : List Byte)
  deriving DecidableEq, Repr

inductive RenderPacket
  | frameStart (kind : RenderKind) (frameId width height : Nat)
  | line (kind : RenderKind) (row : Nat) (values : List Nat)
  | frameEnd (kind : RenderKind) (lines : Nat) (abandoned : Bool)
  deriving DecidableEq, Repr

/-- A packet of Link Out with its source. frame and entry are the model's numbers of a forwarded frame and a FIFO entry; live
says that a render packet still belongs to the render in hand. -/
inductive LanePacket
  | rawStart (frame frameId width height : Nat)
  | rawLine (frame entry row : Nat) (pixels : List Nat)
  | rawEnd (lines : Nat) (truncated : Bool)
  | queued (packet : QueuedPacket)
  | render (packet : RenderPacket) (live : Bool)
  deriving DecidableEq, Repr

inductive FlowSymbol
  | holdReq | goReq
  deriving DecidableEq, Repr

/-- What leaves on Link Out: a whole packet, a packet cut by the loss of lock, a flow symbol. -/
inductive LaneItem
  | sent (packet : LanePacket)
  | cut (packet : LanePacket)
  | symbol (flow : FlowSymbol)
  deriving DecidableEq, Repr

structure OutputScheduler where
  locked : Bool
  held : Bool
  inProgress : Option LanePacket
  rawRun : Nat
  queue : List QueuedPacket
  renderQueue : List RenderPacket
  flowWaiting : Option FlowSymbol
  /-- The model's record of what has left, newest first. -/
  sent : List LaneItem
  /-- How often the free value of R165 has been used: the model's own count (log 40). -/
  choices : Nat
  deriving DecidableEq, Repr

/-! ### Management Port (spec 10) -/

structure Request where
  tag : Byte
  kind : Byte
  payload : List Byte
  deriving DecidableEq, Repr

/-- What the reply-waiting mark stands for (R175): a BRIDGE_RECOVER whose pulse train runs, or its reply waiting for room. -/
inductive ReplyWaiting
  | train (tag kind : Byte)
  | due (reply : QueuedPacket)
  deriving DecidableEq, Repr

structure ManagementPort where
  requests : List Request
  holdReqSent : Bool
  waiting : Option ReplyWaiting
  lostReports : Bool
  deriving DecidableEq, Repr

/-! ### The whole part -/

structure State where
  seq : Sequencer
  log : SubframeLog
  lines : LineBank
  meas : MeasurementTimer
  temps : TemperatureUnit
  heater : Heater
  link : LinkReceiver
  fifo : LineFifo
  cal : Calibration
  plane : Memory Pixel
  arb : Arbiter
  trails : TrailDetector
  render : RenderUnit
  bridge : SensorBridge
  out : OutputScheduler
  port : ManagementPort
  tables : Tables
  params : Params
  settings : TakeSettings
  /-- The 1 µs time base. -/
  now : Nat
  /-- How many free values have been used. -/
  freeSeq : Nat
  /-- The commands that wait, first in first out. -/
  pending : List Instr
  deriving DecidableEq, Repr

/-! ### Reset values -/

/-- R1, R2, R17: NO_TAKE, every flag clear, every timer stopped. -/
def Sequencer.reset : Sequencer :=
  { takeState := .noTake, planeValid := false, phase := .none, step := 0, count := 0, notStarted := false,
    pausePending := false, stopPending := false, finishPending := false, abortPending := false, closeAbandoned := false,
    finalHeld := false, autoCount := 0, shutter := false, stepLevel := false, settleTimer := none, gapTimer := none,
    exposureTimer := none, extensionTimer := none, readoutTimer := none, exposureNumber := 0, exposeStart := 0, holdStart := 0, lineTime := 0,
    scriptLeft := [], pollAt := none, pollDone := false }

def SubframeLog.empty : SubframeLog := { closed := [], openRecord := none }

/-- R178: a table at power-on. -/
def Table.reset {α : Type} : Table α := { state := .empty, entries := [] }

def Tables.reset : Tables :=
  { plan := Table.reset, defects := Table.reset, horizon := Table.reset, regions := Table.reset, darkModel := Table.reset,
    lines := Table.reset, heaterCurve := Table.reset, adcCurve0 := Table.reset, adcCurve1 := Table.reset,
    bridgeAllow := Table.reset, bridgeScript := Table.reset }

/-- The defaults of the parameter table of 10.4 and of R158. -/
def Params.reset : Params :=
  { width := 6000, height := 4000, blackLevel := 256, satLevel := 16383, gapCols := 3, segMin := 4, gapRows := 2, margin := 4,
    minExtent := 64, pedestal := 256, readoutTimeout := 1000, maxExtension := 10000000, forwardDropLevel := 40,
    strayForward := false, autoPreview := 0, shutterSettle := 500, tempSource := .adcTh1, pollDevice := 0,
    pollRegister := { wide := false, addr := 0 }, pollGain := 256, pollOffset := 0, pollLead := 50, bridgeSpeed := 400,
    heaterEnable := false, reportMask := 0xFF#8 }

/-- R183: default width and height, an empty profile, default policies. -/
def TakeSettings.reset : TakeSettings :=
  { width := 6000, height := 4000, vertices := [], sky := Policy.default, ground := Policy.default, margin := 4 }

/-- R27: an unlisted INPUT, undriven, its accepted level the first level sampled. -/
def LineState.reset (outside : Bool) : LineState :=
  { outside := outside, user := false, driven := false, minTimer := none, accepted := outside, debounceTimer := none }

def LineBank.reset (pins : BitVec 6) : LineBank :=
  { l0 := LineState.reset (pins.getLsbD 0), l1 := LineState.reset (pins.getLsbD 1), l2 := LineState.reset (pins.getLsbD 2),
    l3 := LineState.reset (pins.getLsbD 3), l4 := LineState.reset (pins.getLsbD 4), l5 := LineState.reset (pins.getLsbD 5) }

def MeasurementTimer.reset : MeasurementTimer := { armed := false, startCapture := none, endCapture := none }

/-- R40: no conversion yet, and a period begins with TH0. -/
def TemperatureUnit.reset : TemperatureUnit := { due := .th0, code0 := none, code1 := none, th0 := none, th1 := none }

/-- R43: duty 0. -/
def Heater.reset : Heater := { duty := 0, pwmActive := false, periodStart := 0, activeUs := 0 }

/-- R64. -/
def LinkReceiver.reset : LinkReceiver :=
  { locked := false, frame := .none, lastRow := none, readout := none, rowMap := [], strayCount := 0, forwarding := .no }

def LineFifo.reset : LineFifo := { entries := [], frames := [], nextEntry := 0, nextFrame := 0 }

/-- R66. -/
def Calibration.reset : Calibration :=
  { cursor := 0, darkCount := 0, darkExposure := 0, darkTempTotal := 0, darkTempCount := 0, scale := none }

/-- R104. -/
def Arbiter.reset : Arbiter := { holder := .none, waiting := .none }

def VetoList.absent : VetoList := { index := none, boxes := [] }

/-- R112. -/
def TrailDetector.reset : TrailDetector :=
  { openTrails := [], counter := 1, current := VetoList.absent, previous := VetoList.absent, queue := [] }

/-- R130. -/
def RenderUnit.reset : RenderUnit :=
  { state := .idle, kind := .preview, frameId := 0, nextId := 0, pedestal := 0, lights := 0, row := 0, holes := 0,
    fullScale := 0, rowHanded := false, startBegun := false, linesSent := 0 }

/-- R146. -/
def SensorBridge.reset : SensorBridge :=
  { state := .idle, inFlight := none, waitingPoll := none, waitingScript := none, relays := [], lastGood := none,
    train := none, trainsWaiting := 0, bus := [] }

/-- R162. -/
def OutputScheduler.reset : OutputScheduler :=
  { locked := false, held := false, inProgress := none, rawRun := 0, queue := [], renderQueue := [], flowWaiting := none,
    sent := [], choices := 0 }

/-- The power-on column of the table of 10.7. -/
def ManagementPort.reset : ManagementPort := { requests := [], holdReqSent := false, waiting := none, lostReports := false }

/-- The part after power-on or RESET_N with these levels at its pins. -/
def State.powerOn (pins : BitVec 6) : State :=
  { seq := Sequencer.reset, log := SubframeLog.empty, lines := LineBank.reset pins, meas := MeasurementTimer.reset,
    temps := TemperatureUnit.reset, heater := Heater.reset, link := LinkReceiver.reset, fifo := LineFifo.reset,
    cal := Calibration.reset, plane := [], arb := Arbiter.reset, trails := TrailDetector.reset, render := RenderUnit.reset,
    bridge := SensorBridge.reset, out := OutputScheduler.reset, port := ManagementPort.reset, tables := Tables.reset,
    params := Params.reset, settings := TakeSettings.reset, now := 0, freeSeq := 0, pending := [] }

/-- The machine right after reset, every pin sampled low (log 11). -/
def State.reset : State := State.powerOn 0#6

end Sys2Proof.Machine
end

