-- ==== Sys2Proof/Machine/Operands.lean ====
section
/-! DEFINITION. Every byte layout of spec 11: the CRC, the codes of named values, the payloads of requests as they are read
and of replies and reports as they are sent, table entries both ways, and the packets of Link Out as bytes. -/

namespace Sys2Proof.Machine

/-! ### Fields (R191) -/

def byteOf (n : Nat) : Byte := BitVec.ofNat 8 n

/-- A two-byte field, high byte first. -/
def bytes2 (n : Nat) : List Byte := [byteOf (n / 256), byteOf n]

/-- A four-byte field, high byte first. -/
def bytes4 (n : Nat) : List Byte := [byteOf (n / 16777216), byteOf (n / 65536), byteOf (n / 256), byteOf n]

/-- A signed field of two bytes, two's complement. -/
def signed2 (x : Int) : List Byte := bytes2 (BitVec.ofInt 16 x).toNat

/-- A signed field of four bytes, two's complement. -/
def signed4 (x : Int) : List Byte := bytes4 (BitVec.ofInt 32 x).toNat

def boolCode (b : Bool) : Nat := if b then 1 else 0

/-- The byte at an offset of a payload; offsets beyond its end are never read, since lengths are judged first (R176). -/
def read1 (p : List Byte) (i : Nat) : Nat := (p.getD i 0#8).toNat

def read2 (p : List Byte) (i : Nat) : Nat := read1 p i * 256 + read1 p (i + 1)

def read4 (p : List Byte) (i : Nat) : Nat := read2 p i * 65536 + read2 p (i + 2)

def readSigned2 (p : List Byte) (i : Nat) : Int := (BitVec.ofNat 16 (read2 p i)).toInt

def readSigned4 (p : List Byte) (i : Nat) : Int := (BitVec.ofNat 32 (read4 p i)).toInt

/-- An on/off, yes/no or 0/1 field: any other value is none of the field's (R191). -/
def readFlag (p : List Byte) (i : Nat) : Option Bool :=
  match read1 p i with
  | 0 => some false
  | 1 => some true
  | _ => none

/-! ### The CRC (R192) -/

/-- One bit of the register, generator x^16 + x^12 + x^5 + 1. -/
def crcShift (reg : Half) : Half :=
  if reg.msb then (reg <<< 1) ^^^ 0x1021#16 else reg <<< 1

/-- One byte, most significant bit first. -/
def crcByte (reg : Half) (b : Byte) : Half :=
  crcShift (crcShift (crcShift (crcShift (crcShift (crcShift (crcShift (crcShift
    (reg ^^^ (b.setWidth 16 <<< 8)))))))))

/-- The CRC-16 of a packet's bytes, from 0xFFFF, not reflected and not inverted. -/
def crc16 (bytes : List Byte) : Half := bytes.foldl crcByte 0xFFFF#16

def halfBytes (h : Half) : List Byte := bytes2 h.toNat

/-- A packet's bytes followed by their CRC, high byte first. -/
def withCrc (bytes : List Byte) : List Byte := bytes ++ halfBytes (crc16 bytes)

/-- The bytes of a Link In LINE before its CRC. -/
def lineBytes (row : Half) (words : List Half) : List Byte :=
  0x02#8 :: halfBytes row ++ bytes2 words.length ++ words.flatMap halfBytes

/-- The bytes of a Link In FRAME_START and FRAME_END (11.2). -/
def frameStartBytes (counter : Half) : List Byte := 0x01#8 :: halfBytes counter
def frameEndBytes (lines : Half) : List Byte := 0x03#8 :: halfBytes lines

/-- The bytes of a REQUEST before its CRC. -/
def requestBytes (tag kind length : Byte) (payload : List Byte) : List Byte :=
  0x21#8 :: tag :: kind :: length :: payload

/-- The sample of a pixel word: its low 14 bits (R45). -/
def sampleOf (word : Half) : Nat := word.toNat % 16384

/-! ### Codes of named values: their place in the owning table, from 0 unless said otherwise (R191) -/

def TakeState.code : TakeState → Nat
  | .noTake => 0 | .clearing => 1 | .running => 2 | .paused => 3 | .complete => 4 | .finishing => 5 | .finished => 6
  | .aborted => 7

/-- NONE 0, then STEP_START to SETTLE as 1..6 (11.3). -/
def Phase.code : Phase → Nat
  | .none => 0 | .stepStart => 1 | .wait => 2 | .expose => 3 | .hold => 4 | .readout => 5 | .settle => 6

def Kind.code : Kind → Nat
  | .dark => 0 | .light => 1

def SubframeOutcome.code : SubframeOutcome → Nat
  | .integrated => 0 | .partialFrame => 1 | .missing => 2 | .abandoned => 3

def ExposureSource.code : ExposureSource → Nat
  | .feedback => 0 | .lineTime => 1

def TempState.code : TempState → Nat
  | .fresh => 0 | .stale => 1 | .absent => 2

def TableState.code : TableState → Nat
  | .empty => 0 | .loading => 1 | .ready => 2

def TableName.code : TableName → Nat
  | .plan => 0 | .defects => 1 | .horizon => 2 | .regions => 3 | .darkModel => 4 | .lines => 5 | .heaterCurve => 6
  | .adcCurve0 => 7 | .adcCurve1 => 8 | .bridgeAllow => 9 | .bridgeScript => 10

def TableName.ofCode : Nat → Option TableName
  | 0 => some .plan | 1 => some .defects | 2 => some .horizon | 3 => some .regions | 4 => some .darkModel | 5 => some .lines
  | 6 => some .heaterCurve | 7 => some .adcCurve0 | 8 => some .adcCurve1 | 9 => some .bridgeAllow | 10 => some .bridgeScript
  | _ => none

/-- Parameters are numbered from 1 in the order of the table of 10.4. -/
def Param.ofCode : Nat → Option Param
  | 1 => some .width | 2 => some .height | 3 => some .blackLevel | 4 => some .satLevel | 5 => some .gapCols
  | 6 => some .segMin | 7 => some .gapRows | 8 => some .margin | 9 => some .minExtent | 10 => some .pedestal
  | 11 => some .readoutTimeout | 12 => some .maxExtension | 13 => some .forwardDropLevel | 14 => some .strayForward
  | 15 => some .autoPreview | 16 => some .shutterSettle | 17 => some .tempSource | 18 => some .pollDevice
  | 19 => some .pollRegister | 20 => some .pollGain | 21 => some .pollOffset | 22 => some .pollLead
  | 23 => some .bridgeSpeed | 24 => some .heaterEnable | 25 => some .reportMask
  | _ => none

def Cadence.code : Cadence → Nat
  | .internal => 0 | .external => 1

def DefectMethod.code : DefectMethod → Nat
  | .substitute => 0 | .exclude => 1

def Region.code : Region → Nat
  | .sky => 0 | .ground => 1

def Mode.code : Mode → Nat
  | .meanReject => 0 | .peak => 1 | .peakFade => 2 | .exclude => 3

def LineSource.code : LineSource → Nat
  | .user => 0 | .expose => 1 | .ready => 2 | .shutter => 3 | .stepLevel => 4 | .heater => 5 | .readout => 6

def LineFunction.code : LineFunction → Nat
  | .none => 0 | .expFeedback => 1 | .triggerIn => 2 | .pauseIn => 3 | .stopIn => 4

def RenderKind.code : RenderKind → Nat
  | .preview => 0 | .final => 1

/-- The stream byte of a render's packets: RAW is 0, PREVIEW 1, FINAL 2 (11.2). -/
def RenderKind.stream : RenderKind → Nat
  | .preview => 1 | .final => 2

def AbandonReason.code : AbandonReason → Nat
  | .extensionLimit => 0 | .abort => 1 | .linkDown => 2 | .partReset => 3

def BridgeState.code : BridgeState → Nat
  | .idle => 0 | .busy => 1 | .fault => 2

def Claimant.code : Claimant → Nat
  | .poll .. => 0 | .script .. => 1 | .relay => 2

def BusOutcome.code : BusOutcome → Nat
  | .done => 0 | .nackAddress => 1 | .nackData _ => 2 | .timeout => 3 | .busStuck => 4 | .blocked => 5

/-- NO_ENTRY is coded after BLOCKED (11.3). -/
def noEntryCode : Nat := 6

/-- The byte index an outcome carries: only NACK_DATA has one, and an absent field is sent as 0 (R191). -/
def BusOutcome.byteIndex : BusOutcome → Nat
  | .nackData i => i
  | _ => 0

/-- A relay's reply has the outcome as its status (R155). -/
def BusOutcome.status : BusOutcome → Status
  | .done => .done | .nackAddress => .nackAddress | .nackData _ => .nackData | .timeout => .timeout | .busStuck => .busStuck
  | .blocked => .blocked

def Status.code : Status → Nat
  | .ok => 0 | .okClamped => 1 | .accepted => 2 | .busy => 3 | .badState => 4 | .unknownKind => 5 | .badLength => 6
  | .badArg => 7 | .tableNotOpen => 8 | .tableOrder => 9 | .tableRange => 10 | .tableFull => 11 | .tableConflict => 12
  | .planInvalid => 13 | .profileGeometry => 14 | .invalidPlane => 15 | .done => 16 | .nackAddress => 17 | .nackData => 18
  | .timeout => 19 | .busStuck => 20 | .blocked => 21

/-- Report kinds are numbered from 1. -/
def ReportKind.code : ReportKind → Nat
  | .subframeClosed => 1 | .trail => 2 | .takeState => 3 | .renderDone => 4 | .renderAbandoned => 5 | .lineChange => 6
  | .scriptResult => 7 | .bridgeFault => 8

/-- Request kinds 1 to 23 are the kinds of R191; every other is unknown. -/
def kindKnown (kind : Byte) : Bool := decide (1 ≤ kind.toNat ∧ kind.toNat ≤ 23)

/-- An absent temperature is sent as -32768. -/
def tempBytes : Option Int → List Byte
  | some t => signed2 t
  | none => signed2 (-32768)

/-! ### Records (11.3) -/

/-- The two-byte trails field; a count beyond the field is an open value (log 9). -/
def trailsField (n : Nat) : List Byte :=
  if n ≤ 65535 then bytes2 n else halfBytes (Config.trailsBeyondField n)

def packBits (b0 b1 b2 b3 : Bool) : Byte := byteOf (boolCode b0 + 2 * boolCode b1 + 4 * boolCode b2 + 8 * boolCode b3)

/-- The 63 bytes of a subframe record. -/
def SubframeRecord.bytes (r : SubframeRecord) : List Byte :=
  bytes2 r.index ++ [byteOf r.kind.code, byteOf r.step, byteOf ((r.outcome.map SubframeOutcome.code).getD 0),
    packBits r.frameCounter.isSome r.scale.isSome false false]
  ++ bytes2 ((r.frameCounter.map BitVec.toNat).getD 0)
  ++ bytes4 r.commandedUs ++ bytes4 r.heldUs ++ bytes4 (r.exposedUs.getD 0)
  ++ [byteOf ((r.exposureSource.map ExposureSource.code).getD 0), byteOf ((r.tempState.map TempState.code).getD 0)]
  ++ tempBytes r.temperature ++ bytes2 (r.scale.getD 0)
  ++ bytes4 r.admitted ++ bytes4 r.rejected ++ bytes4 r.saturated ++ bytes4 r.excluded ++ bytes4 r.lost
  ++ bytes4 r.outliers ++ bytes4 r.clamped ++ bytes4 r.extraLines
  ++ trailsField r.trails ++ bytes2 r.unattributed
  ++ [packBits r.vetoFull r.trailQueueFull r.scaleSaturated r.feedbackMissing]

/-- The 17 bytes of a trail record. -/
def TrailRecord.bytes (t : TrailRecord) : List Byte :=
  bytes2 t.subframe ++ [byteOf t.number, packBits t.sky t.ground false false, byteOf (boolCode t.vetoing)]
  ++ bytes2 t.box.firstRow ++ bytes2 t.box.lastRow ++ bytes2 t.box.minCol ++ bytes2 t.box.maxCol ++ bytes4 t.flagged

/-! ### Table entries as bytes (11.4) -/

def PlanStep.bytes (e : PlanStep) : List Byte :=
  byteOf e.kind.code :: bytes2 e.count ++ bytes4 e.exposure ++ bytes4 e.gap
  ++ [byteOf e.cadence.code, byteOf (boolCode e.forward), byteOf (boolCode e.stepLevel), byteOf e.scriptFirst,
      byteOf e.scriptCount]

def Defect.bytes (e : Defect) : List Byte := bytes2 e.row ++ bytes2 e.column ++ [byteOf e.method.code]

def Vertex.bytes (e : Vertex) : List Byte := bytes2 e.column ++ bytes2 e.row

def RegionEntry.bytes (e : RegionEntry) : List Byte :=
  [byteOf e.region.code, byteOf e.policy.mode.code, byteOf e.policy.kappa, byteOf e.policy.warmup, byteOf e.policy.sigmaFloor,
    byteOf e.policy.fade, byteOf (boolCode e.policy.trailDetect), byteOf (boolCode e.policy.veto)]

/-- A Dark Model or Heater Curve point, signed Tq first, or an ADC curve point, whose Tq is second. -/
def CurvePoint.bytes (e : CurvePoint) : List Byte := signed2 e.x ++ signed2 e.y

def LineEntry.bytes (e : LineEntry) : List Byte :=
  match e.use with
  | .input function debounce => [byteOf e.line, byteOf 0, e.flags, byteOf function.code] ++ bytes2 debounce
  | .output source minPulse => [byteOf e.line, byteOf 1, e.flags, byteOf source.code] ++ bytes2 minPulse

def RegAddr.widthCode (r : RegAddr) : Nat := if r.wide then 16 else 8

def ScriptEntry.bytes (e : ScriptEntry) : List Byte :=
  [byteOf e.device, byteOf e.reg.widthCode] ++ bytes2 e.reg.addr ++ [byteOf e.data.length] ++ e.data

/-! ### Table entries read from bytes: none where a value byte is none of its field's values (R191) -/

def kindOfCode : Nat → Option Kind
  | 0 => some .dark | 1 => some .light | _ => none

def cadenceOfCode : Nat → Option Cadence
  | 0 => some .internal | 1 => some .external | _ => none

def methodOfCode : Nat → Option DefectMethod
  | 0 => some .substitute | 1 => some .exclude | _ => none

def regionOfCode : Nat → Option Region
  | 0 => some .sky | 1 => some .ground | _ => none

def modeOfCode : Nat → Option Mode
  | 0 => some .meanReject | 1 => some .peak | 2 => some .peakFade | 3 => some .exclude | _ => none

def sourceOfCode : Nat → Option LineSource
  | 0 => some .user | 1 => some .expose | 2 => some .ready | 3 => some .shutter | 4 => some .stepLevel | 5 => some .heater
  | 6 => some .readout | _ => none

def functionOfCode : Nat → Option LineFunction
  | 0 => some .none | 1 => some .expFeedback | 2 => some .triggerIn | 3 => some .pauseIn | 4 => some .stopIn | _ => none

/-- The width byte of a register address: 8 or 16. -/
def wideOfCode : Nat → Option Bool
  | 8 => some false | 16 => some true | _ => none

def readPlanStep (p : List Byte) : Option PlanStep := do
  let kind ← kindOfCode (read1 p 0)
  let cadence ← cadenceOfCode (read1 p 11)
  let forward ← readFlag p 12
  let stepLevel ← readFlag p 13
  pure { kind := kind, count := read2 p 1, exposure := read4 p 3, gap := read4 p 7, cadence := cadence, forward := forward,
         stepLevel := stepLevel, scriptFirst := read1 p 14, scriptCount := read1 p 15 }

def readDefect (p : List Byte) : Option Defect := do
  let method ← methodOfCode (read1 p 4)
  pure { row := read2 p 0, column := read2 p 2, method := method }

def readVertex (p : List Byte) : Option Vertex := some { column := read2 p 0, row := read2 p 2 }

def readRegionEntry (p : List Byte) : Option RegionEntry := do
  let region ← regionOfCode (read1 p 0)
  let mode ← modeOfCode (read1 p 1)
  let trailDetect ← readFlag p 6
  let veto ← readFlag p 7
  pure { region := region,
         policy := { mode := mode, kappa := read1 p 2, warmup := read1 p 3, sigmaFloor := read1 p 4, fade := read1 p 5,
                     trailDetect := trailDetect, veto := veto } }

/-- (Tq signed, factor or duty unsigned). -/
def readTqPoint (p : List Byte) : Option CurvePoint := some { x := readSigned2 p 0, y := (read2 p 2 : Nat) }

/-- (code unsigned, Tq signed). -/
def readCodePoint (p : List Byte) : Option CurvePoint := some { x := (read2 p 0 : Nat), y := readSigned2 p 2 }

/-- An entry is read by its direction: INPUT 0 takes a function and debounce, OUTPUT 1 a source and min_pulse. -/
def readLineEntry (p : List Byte) : Option LineEntry := do
  let use ← match read1 p 1 with
    | 0 => (functionOfCode (read1 p 3)).map fun f => LineUse.input f (read2 p 4)
    | 1 => (sourceOfCode (read1 p 3)).map fun src => LineUse.output src (read2 p 4)
    | _ => none
  pure { line := read1 p 0, flags := p.getD 2 0#8, use := use }

def readAllow (p : List Byte) : Option Nat := some (read1 p 0)

def readScriptEntry (p : List Byte) : Option ScriptEntry := do
  let wide ← wideOfCode (read1 p 1)
  pure { device := read1 p 0, reg := { wide := wide, addr := read2 p 2 }, data := p.drop 5 }

/-- The fixed size of a table's entries; BRIDGE_SCRIPT entries vary and are measured one by one. -/
def TableName.entrySize : TableName → Nat
  | .plan => 16 | .defects => 5 | .horizon => 4 | .regions => 8 | .darkModel => 4 | .lines => 6 | .heaterCurve => 4
  | .adcCurve0 => 4 | .adcCurve1 => 4 | .bridgeAllow => 1 | .bridgeScript => 5

/-- count entries of a fixed size, when the bytes hold exactly that. -/
def splitFixed (size : Nat) : Nat → List Byte → Option (List (List Byte))
  | 0, bytes => if bytes.isEmpty then some [] else none
  | count + 1, bytes =>
    if bytes.length < size then none
    else (splitFixed size count (bytes.drop size)).map (bytes.take size :: ·)

/-- count BRIDGE_SCRIPT entries, each five bytes and its data bytes, when the bytes hold exactly that. -/
def splitScript : Nat → List Byte → Option (List (List Byte))
  | 0, bytes => if bytes.isEmpty then some [] else none
  | count + 1, bytes =>
    let size := 5 + read1 bytes 4
    if bytes.length < 5 ∨ bytes.length < size then none
    else (splitScript count (bytes.drop size)).map (bytes.take size :: ·)

/-- The entries of a TABLE_APPEND payload, or none when its length disagrees with the count and the sizes (R180). -/
def splitEntries (table : TableName) (count : Nat) (bytes : List Byte) : Option (List (List Byte)) :=
  match table with
  | .bridgeScript => splitScript count bytes
  | _ => splitFixed table.entrySize count bytes

/-! ### Packets of Link Out as bytes (11.2) -/

def QueuedPacket.bytes : QueuedPacket → List Byte
  | .reply tag kind status payload =>
    withCrc ([0x14#8, tag, kind, byteOf status.code] ++ bytes2 payload.length ++ payload)
  | .report kind lostBefore payload =>
    withCrc ([0x15#8, byteOf kind.code, byteOf (boolCode lostBefore)] ++ bytes2 payload.length ++ payload)

/-- A LINE of a stream: its pixels, the pixel count and the CRC. -/
def outLineBytes (stream row : Nat) (pixels : List Nat) : List Byte :=
  withCrc ([0x12#8, byteOf stream] ++ bytes2 row ++ bytes2 pixels.length ++ pixels.flatMap bytes2)

def outStartBytes (stream frameId width height : Nat) : List Byte :=
  [0x11#8, byteOf stream] ++ bytes2 frameId ++ bytes2 width ++ bytes2 height

/-- The two-byte lines-sent field; only a stray frame can send more lines than it holds, and what it then carries is an open
value (R61; log 38). -/
def linesField (n : Nat) : List Byte :=
  if n ≤ 65535 then bytes2 n else halfBytes (Config.linesBeyondField n)

/-- A FRAME_END: lines sent, bit 0 TRUNCATED, bit 1 ABANDONED. -/
def outEndBytes (stream lines : Nat) (truncated abandoned : Bool) : List Byte :=
  [0x13#8, byteOf stream] ++ linesField lines ++ [packBits truncated abandoned false false]

def RenderPacket.bytes : RenderPacket → List Byte
  | .frameStart kind frameId width height => outStartBytes kind.stream frameId width height
  | .line kind row values => outLineBytes kind.stream row values
  | .frameEnd kind lines abandoned => outEndBytes kind.stream lines false abandoned

def LanePacket.bytes : LanePacket → List Byte
  | .rawStart _ frameId width height => outStartBytes 0 frameId width height
  | .rawLine _ _ row pixels => outLineBytes 0 row pixels
  | .rawEnd lines truncated => outEndBytes 0 lines truncated false
  | .queued packet => packet.bytes
  | .render packet _ => packet.bytes

end Sys2Proof.Machine
end

