-- ==== Sys2Proof/Machine/Ops.lean ====
section
/-! DEFINITION. The operations every block shares: rounding and interpolation, the sparse arrays, the clock and its timers,
the open subframe record, tables as their users see them, and the queuing of replies, reports and flow symbols. -/

namespace Sys2Proof.Machine

/-- The outcome of one command. -/
abbrev Out := Host.Outcome State Fault Refusal

/-! ### Numbers (00 Conventions) -/

/-- a / b to the nearest integer, ties away from zero, for b > 0. -/
def roundDiv (a b : Int) : Int :=
  if 0 ≤ a then (2 * a + b) / (2 * b) else -((2 * (-a) + b) / (2 * b))

/-- A value below lo is replaced by lo and one above hi by hi. -/
def clampInt (lo hi x : Int) : Int := max lo (min hi x)

/-- Interpolation between the points after the first, which the argument is known to be beyond. -/
def interpolateFrom (x : Int) : CurvePoint → List CurvePoint → Int
  | p, [] => p.y
  | p, q :: rest =>
    if x < q.x then p.y + roundDiv ((q.y - p.y) * (x - p.x)) (q.x - p.x) else interpolateFrom x q rest

/-- The curve of R41, R43, R79 and R90: the end values are held, and between two points the step is rounded. No points: no
value. -/
def interpolate (points : List CurvePoint) (x : Int) : Option Int :=
  match points with
  | [] => none
  | p :: rest => some (if x ≤ p.x then p.y else interpolateFrom x p rest)

/-! ### Sparse arrays -/

/-- What stands at a key; default where the key is not listed. -/
def Memory.read {α : Type} (default : α) : Memory α → Nat → α
  | [], _ => default
  | (k, v) :: rest, a => if k = a then v else Memory.read default rest a

/-- Put a value at a key, keeping the keys rising and default unlisted. -/
def Memory.write {α : Type} [DecidableEq α] (default : α) : Memory α → Nat → α → Memory α
  | [], a, v => if v = default then [] else [(a, v)]
  | (k, w) :: rest, a, v =>
    if a < k then (if v = default then (k, w) :: rest else (a, v) :: (k, w) :: rest)
    else if a = k then (if v = default then rest else (a, v) :: rest)
    else (k, w) :: Memory.write default rest a v

/-- Apply f to every listed value, dropping what becomes default; f leaves default as it is wherever it is used. -/
def Memory.update {α : Type} [DecidableEq α] (default : α) (f : Nat → α → α) (m : Memory α) : Memory α :=
  m.filterMap fun e => if f e.1 e.2 = default then none else some (e.1, f e.1 e.2)

/-- Every entry whose key p does not hold of reads as default again. -/
def Memory.restrict {α : Type} (p : Nat → Bool) (m : Memory α) : Memory α := m.filter fun e => p e.1

/-- The canonical form: keys strictly rising, no entry equal to default. -/
def Memory.wf {α : Type} [DecidableEq α] (default : α) : Memory α → Bool
  | [] => true
  | [(_, v)] => decide (v ≠ default)
  | (k, v) :: (l, w) :: rest => decide (v ≠ default) && decide (k < l) && Memory.wf default ((l, w) :: rest)

/-- The record of a number of the plane; an unlisted record is cleared (log 10). -/
def readPixel (s : State) (a : Nat) : Pixel := Memory.read Pixel.cleared s.plane a

/-- The state of a row of the row-visited map (R54). -/
def rowState (s : State) (row : Nat) : RowState := Memory.read .unseen s.link.rowMap row

def setRow (row : Nat) (r : RowState) (s : State) : State :=
  { s with link.rowMap := Memory.write .unseen s.link.rowMap row r }

/-! ### The clock (log 2, log 3) -/

/-- The time is at least t from here on. -/
def advanceTo (t : Nat) (s : State) : State := { s with now := max s.now t }

/-- The end of a timer started now; a timer of 0 has already expired (R8, R11). -/
def timerFor (s : State) (us : Nat) : Option Nat := if us = 0 then none else some (s.now + us)

/-! ### Tables and the current step -/

/-- A LOADING table acts as empty for every user (R178). -/
def Table.seen {α : Type} (t : Table α) : List α :=
  match t.state with
  | .loading => []
  | _ => t.entries

/-- The step at the plan position (R7). -/
def currentStep (s : State) : Option PlanStep := s.tables.plan.seen[s.seq.step]?

/-- TABLE_OPEN, TABLE_APPEND, TABLE_CLOSE and PARAM_SET of what is take-fixed are taken in these states (R179, R184). -/
def TakeState.unfixed : TakeState → Bool
  | .noTake => true | .aborted => true | .finished => true | _ => false

/-! ### The Subframe Log -/

/-- The records of the log: the closed ones and then the open one (R23). -/
def SubframeLog.records (l : SubframeLog) : List SubframeRecord := l.closed ++ l.openRecord.toList

/-- The index of the record opened last, or 0 when the log is empty (R2). -/
def subframeIndex (s : State) : Nat :=
  match s.log.openRecord with
  | some r => r.index
  | none => s.log.closed.length

/-- Change the open record, where there is one. -/
def onRecord (f : SubframeRecord → SubframeRecord) (s : State) : State :=
  { s with log.openRecord := s.log.openRecord.map f }

/-- The kind of the subframe in hand is light. -/
def openIsLight (s : State) : Bool :=
  match s.log.openRecord with
  | some r => decide (r.kind = .light)
  | none => false

/-- The light subframes closed (R135). -/
def lightsClosed (s : State) : Nat := s.log.closed.countP fun r => decide (r.kind = .light)

/-! ### Outgoing Packet Queue (R166, R171, R188, R189) -/

def outQueueHasRoom (s : State) : Bool := decide (s.out.queue.length < Config.outQueueCapacity)

def reportEnabled (s : State) (kind : ReportKind) : Bool := s.params.reportMask.getLsbD (kind.code - 1)

/-- Form a report: it joins the queue with LOST_BEFORE when the lost-reports flag is set, which it clears; at a full queue or
while Link Out is unlocked it is discarded and sets the flag. -/
def formReport (kind : ReportKind) (payload : List Byte) (s : State) : State :=
  if s.out.locked && outQueueHasRoom s then
    { s with out.queue := s.out.queue ++ [.report kind s.port.lostReports payload], port.lostReports := false }
  else { s with port.lostReports := true }

/-- A report whose kind report_mask disables is not formed (R188). -/
def queueReport (kind : ReportKind) (payload : List Byte) (s : State) : State :=
  if reportEnabled s kind then formReport kind payload s else s

/-- Queue a reply packet. While Link Out is unlocked it is discarded (R171). Every caller has made sure of a free entry
(R175), so none is discarded for want of room. -/
def joinReply (packet : QueuedPacket) (s : State) : State :=
  if s.out.locked && outQueueHasRoom s then { s with out.queue := s.out.queue ++ [packet] } else s

def queueReply (tag kind : Byte) (status : Status) (payload : List Byte) (s : State) : State :=
  joinReply (.reply tag kind status payload) s

/-- The reply to a request (R176). -/
def answer (r : Request) (status : Status) (payload : List Byte) (s : State) : State :=
  queueReply r.tag r.kind status payload s

/-- R168: a flow symbol is sent at once when no packet is in progress, and otherwise waits, replacing one that waits; while
Link Out is unlocked it is discarded. -/
def handFlow (f : FlowSymbol) (s : State) : State :=
  if s.out.locked then
    match s.out.inProgress with
    | none => { s with out.sent := .symbol f :: s.out.sent }
    | some _ => { s with out.flowWaiting := some f }
  else s

/-! ### Take state -/

/-- The payload of a TAKE_STATE report: take state, phase, step, subframe index (11.3). -/
def takeStatePayload (s : State) : List Byte :=
  [byteOf s.seq.takeState.code, byteOf s.seq.phase.code, byteOf s.seq.step] ++ bytes2 (subframeIndex s)

def reportTakeState (s : State) : State := queueReport .takeState (takeStatePayload s) s

/-- SHUTTER and STEP_LEVEL keep their levels in RUNNING and PAUSED and are inactive in every other take state (R16). -/
def TakeState.keepsLevels : TakeState → Bool
  | .running => true | .paused => true | _ => false

end Sys2Proof.Machine
end

