-- ==== Sys2Proof/Machine/Flags.lean ====
section
/-! DEFINITION. The signals of the Sequencer and the heater as functions of the state (R16, R44), the setup of each timing
line (R26), the levels of the pins (R28, R31) and the update of the driven lines that ends every event (R29). -/

namespace Sys2Proof.Machine

/-! ### Signals -/

/-- EXPOSE: phase EXPOSE or HOLD (R16). -/
def signalExpose (s : State) : Bool := decide (s.seq.phase = .expose) || decide (s.seq.phase = .hold)

/-- READOUT: phase READOUT (R16). -/
def signalReadout (s : State) : Bool := decide (s.seq.phase = .readout)

/-- The Sequencer waits for a trigger: RUNNING in WAIT of an EXTERNAL step (R8). -/
def awaitsTrigger (s : State) : Bool :=
  match s.seq.takeState, s.seq.phase, currentStep s with
  | .running, .wait, some st => decide (st.cadence = .external)
  | _, _, _ => false

/-- READY: NO_TAKE, PAUSED or COMPLETE, and WAIT of an EXTERNAL step (R16). -/
def signalReady (s : State) : Bool :=
  match s.seq.takeState with
  | .noTake => true
  | .paused => true
  | .complete => true
  | _ => awaitsTrigger s

/-- HEATER: the PWM is in its active part, heater_enable is on and READOUT is inactive (R44). -/
def signalHeater (s : State) : Bool := s.heater.pwmActive && s.params.heaterEnable && !signalReadout s

/-! ### Line setup -/

structure LineSetup where
  use : LineUse
  invert : Bool
  notify : Bool
  deriving DecidableEq, Repr

/-- A line that LINES does not list, and every line while it is LOADING or EMPTY (R26). -/
def LineSetup.unlisted : LineSetup := { use := .input .none 0, invert := false, notify := false }

/-- The setup of a line, from the table as its user sees it (R26). -/
def lineSetup (s : State) (l : LineNo) : LineSetup :=
  match s.tables.lines.seen.find? fun e => decide (e.line = l.val) with
  | some e => { use := e.use, invert := e.flags.getLsbD 0, notify := e.flags.getLsbD 1 }
  | none => LineSetup.unlisted

/-- The table lists the line. -/
def lineListed (s : State) (l : LineNo) : Bool := s.tables.lines.seen.any fun e => decide (e.line = l.val)

/-- LINES holds an EXP_FEEDBACK line (R38). -/
def hasFunction (f : LineFunction) (entries : List LineEntry) : Bool :=
  entries.any fun e => match e.use with
    | .input g _ => decide (g = f)
    | .output _ _ => false

/-! ### The bank of lines -/

def LineBank.get (b : LineBank) : LineNo → LineState
  | 0 => b.l0 | 1 => b.l1 | 2 => b.l2 | 3 => b.l3 | 4 => b.l4 | 5 => b.l5

def LineBank.set (b : LineBank) (l : LineNo) (x : LineState) : LineBank :=
  match l with
  | 0 => { b with l0 := x } | 1 => { b with l1 := x } | 2 => { b with l2 := x } | 3 => { b with l3 := x }
  | 4 => { b with l4 := x } | 5 => { b with l5 := x }

def LineBank.map (f : LineNo → LineState → LineState) (b : LineBank) : LineBank :=
  { l0 := f 0 b.l0, l1 := f 1 b.l1, l2 := f 2 b.l2, l3 := f 3 b.l3, l4 := f 4 b.l4, l5 := f 5 b.l5 }

def LineBank.toList (b : LineBank) : List (LineNo × LineState) :=
  [(0, b.l0), (1, b.l1), (2, b.l2), (3, b.l3), (4, b.l4), (5, b.l5)]

/-! ### Levels -/

/-- The logical level of a source (R28); USER is the line's own level (R30). -/
def sourceLevel (s : State) (x : LineState) : LineSource → Bool
  | .user => x.user
  | .expose => signalExpose s
  | .ready => signalReady s
  | .shutter => s.seq.shutter
  | .stepLevel => s.seq.stepLevel
  | .heater => signalHeater s
  | .readout => signalReadout s

/-- The pin level for a logical level, and the other way: active is high, or low with invert on. -/
def throughInvert (invert level : Bool) : Bool := xor level invert

/-- The pin of a line: driven while OUTPUT, and otherwise as the outside holds it (R28, R31). -/
def pinLevel (s : State) (l : LineNo) : Bool :=
  match (lineSetup s l).use with
  | .output _ _ => throughInvert (lineSetup s l).invert (s.lines.get l).driven
  | .input _ _ => (s.lines.get l).outside

/-- The logical level of a line as LINE_READ gives it: driven for an OUTPUT, accepted for an INPUT (R34). -/
def logicalLevel (s : State) (l : LineNo) : Bool :=
  match (lineSetup s l).use with
  | .output _ _ => (s.lines.get l).driven
  | .input _ _ => throughInvert (lineSetup s l).invert (s.lines.get l).accepted

/-- The six pin levels as one byte, L0 in bit 0 (11.3). -/
def pinByte (s : State) : Byte :=
  byteOf (boolCode (pinLevel s 0) + 2 * boolCode (pinLevel s 1) + 4 * boolCode (pinLevel s 2) + 8 * boolCode (pinLevel s 3)
    + 16 * boolCode (pinLevel s 4) + 32 * boolCode (pinLevel s 5))

/-! ### Driving the lines -/

/-- One OUTPUT line follows its source unless its minimum-pulse timer runs; a change starts the timer (R29). -/
def driveLine (s : State) (l : LineNo) (x : LineState) : LineState :=
  match (lineSetup s l).use with
  | .output source minPulse =>
    if x.minTimer = none ∧ sourceLevel s x source ≠ x.driven then
      { x with driven := sourceLevel s x source, minTimer := timerFor s minPulse }
    else x
  | .input _ _ => x

/-- Every OUTPUT line follows its source's present level, subject to its minimum-pulse timer. This is done at each change of take
state and at the end of every event, so that each change of a signal reaches its lines (R28, R29, R35; log 14). -/
def driveLines (s : State) : State := { s with lines := s.lines.map (driveLine s) }

/-! ### Changes of take state -/

/-- A change of take state: the phase is NONE outside RUNNING, the step signals follow R16, a TAKE_STATE report is queued (R1),
and the lines follow the signals as they now stand, whatever the rest of the event makes of them (R35). -/
def enterTake (t : TakeState) (p : Phase) (s : State) : State :=
  driveLines (reportTakeState { s with
    seq.takeState := t,
    seq.phase := p,
    seq.shutter := s.seq.shutter && t.keepsLevels,
    seq.stepLevel := s.seq.stepLevel && t.keepsLevels })

/-! ### Lines taking their setup -/

/-- A line taking its setup afresh: no timer runs, an OUTPUT is driven at once at its source's level and an INPUT accepts the
present pin level with no edge and no report (R26, R27). -/
def restartLine (s : State) (l : LineNo) (x : LineState) : LineState :=
  match (lineSetup s l).use with
  | .output source _ => { x with driven := sourceLevel s x source, minTimer := none, debounceTimer := none }
  | .input _ _ => { x with accepted := x.outside, minTimer := none, debounceTimer := none }

end Sys2Proof.Machine
end

