-- ==== Sys2Proof/Machine/Plane.lean ====
section
/-! DEFINITION. The pixel record and its visits (spec 05): regions, the outlier test, the Welford update, the peak steps, and
the commit-only visits of rows that were not ingested. -/

namespace Sys2Proof.Machine

/-! ### Regions (R90, R183) -/

/-- The horizon row of a column, or none with an empty profile. -/
def horizonRow (vertices : List Vertex) (column : Nat) : Option Int :=
  interpolate (vertices.map fun v => { x := v.column, y := v.row }) column

/-- SKY above the horizon row, GROUND on it and below; everything is SKY with an empty profile (R90). -/
def regionOf (set : TakeSettings) (row column : Nat) : Region :=
  match horizonRow set.vertices column with
  | none => .sky
  | some h => if (row : Int) < h then .sky else .ground

def policyOf (set : TakeSettings) : Region → Policy
  | .sky => set.sky
  | .ground => set.ground

/-- The policy of the region a pixel belongs to, as the take recorded it (R92, R183). -/
def pixelPolicy (set : TakeSettings) (row column : Nat) : Policy := policyOf set (regionOf set row column)

def Mode.isPeak : Mode → Bool
  | .peak => true | .peakFade => true | _ => false

/-! ### Running statistics (R93, R94) -/

/-- var256: the sample variance, raised to the floor (R93). -/
def variance256 (p : Policy) (px : Pixel) : Nat := max (px.m2 / (px.n - 1)) (256 * p.sigmaFloor ^ 2)

/-- d = 16y - m16. -/
def deviation (px : Pixel) (y : Int) : Int := 16 * y - px.m16

/-- The outlier test, active once n has reached warmup; a sample exactly at the limit passes (R93). -/
def isOutlier (p : Policy) (px : Pixel) (y : Int) : Bool :=
  decide (p.warmup ≤ px.n) &&
    decide (((p.kappa ^ 2 * variance256 p px : Nat) : Int) < deviation px y ^ 2 * 256)

/-- The Welford update; not made when n is already 4095 (R94). -/
def welford (px : Pixel) (y : Int) : Pixel :=
  if 4095 ≤ px.n then px
  else
    let d := deviation px y
    let m := px.m16 + roundDiv d (px.n + 1)
    { px with n := px.n + 1, m16 := m, m2 := px.m2 + (d * (16 * y - m)).toNat }

/-- One more saturated sample; the field stays at 4095 (R85). -/
def countSaturated (px : Pixel) : Pixel := { px with sat := min 4095 (px.sat + 1) }

/-! ### Vetoes (R98, R127) -/

/-- The box of an entry, widened by margin and not clamped to the frame. -/
def inBox (margin : Nat) (b : TrailBox) (row column : Nat) : Bool :=
  decide ((b.firstRow : Int) - margin ≤ row ∧ (row : Int) ≤ b.lastRow + margin
    ∧ (b.minCol : Int) - margin ≤ column ∧ (column : Int) ≤ b.maxCol + margin)

/-- A list that belongs to this subframe has a box the pixel lies in. -/
def listVetoes (margin : Nat) (v : VetoList) (subframe row column : Nat) : Bool :=
  decide (v.index = some subframe) && v.boxes.any fun b => inBox margin b row column

/-- A pending value of this subframe is vetoed: the region's veto is on and the pixel lies in a box of the list that belongs
to the subframe; without such a list it is not vetoed (R97, R98). -/
def isVetoed (set : TakeSettings) (det : TrailDetector) (p : Policy) (row column subframe : Nat) : Bool :=
  p.veto && (listVetoes set.margin det.current subframe row column || listVetoes set.margin det.previous subframe row column)

/-! ### Peak visits (R97 to R101) -/

/-- A value raises an optional peak when the peak is absent or less. -/
def raises (v : Int) : Option Int → Bool
  | none => true
  | some p => decide (p < v)

/-- Step (a): settle the pending value, if there is one; vetoed says of its subframe whether it is dropped (R97). -/
def commitPending (vetoed : Nat → Bool) (px : Pixel) : Pixel :=
  match px.pending with
  | none => px
  | some (v, sf) =>
    { px with pending := none, peak := if !vetoed sf && raises v px.peak then some v else px.peak }

/-- Step (b): in PEAK_FADE a peak moves toward the running mean once the record has one (R99). -/
def fadePeak (p : Policy) (px : Pixel) : Pixel :=
  match p.mode, px.peak with
  | .peakFade, some peak =>
    if 1 ≤ px.n then
      { px with peak := some (roundDiv (px.m16 * 256 + (16 * peak - px.m16) * p.fade) 4096) }
    else px
  | _, _ => px

/-- Step (d): a candidate that would raise the peak waits in pending, tagged with its subframe (R101). -/
def holdCandidate (subframe : Nat) (candidate : Int) (px : Pixel) : Pixel :=
  if raises candidate px.peak then { px with pending := some (candidate, subframe) } else { px with pending := none }

/-- How the Accumulator counts a light sample (R95). -/
inductive Tally
  | admitted | rejected | saturated
  deriving DecidableEq, Repr

/-- What one light sample does: the record after the visit, its count, whether it is flagged, whether it adds to outliers. -/
structure Visit where
  pixel : Pixel
  tally : Tally
  flagged : Bool
  outlier : Bool
  deriving DecidableEq, Repr

/-- A light sample reaching a MEAN_REJECT record; none is the saturated mark (R96). -/
def visitMeanReject (p : Policy) (px : Pixel) : Option Int → Visit
  | none => { pixel := countSaturated px, tally := .saturated, flagged := false, outlier := false }
  | some y =>
    if isOutlier p px y then { pixel := px, tally := .rejected, flagged := true, outlier := false }
    else { pixel := welford px y, tally := .admitted, flagged := false, outlier := false }

/-- A light sample reaching a PEAK or PEAK_FADE record: commit, fade, candidate, new pending, in this order (R97 to R101). -/
def visitPeak (p : Policy) (vetoed : Nat → Bool) (subframe : Nat) (px : Pixel) (sample : Option Int) : Visit :=
  let settled := fadePeak p (commitPending vetoed px)
  match sample with
  | none =>
    { pixel := holdCandidate subframe 16383 (countSaturated settled), tally := .saturated, flagged := false, outlier := false }
  | some y =>
    { pixel := holdCandidate subframe y (welford settled y), tally := .admitted, flagged := isOutlier p settled y,
      outlier := isOutlier p settled y }

/-- A light sample by its region's mode (R92). No sample of an EXCLUDE region reaches the Accumulator (R72). -/
def visitLight (p : Policy) (vetoed : Nat → Bool) (subframe : Nat) (px : Pixel) (sample : Option Int) : Visit :=
  if p.mode.isPeak then visitPeak p vetoed subframe px sample else visitMeanReject p px sample

/-! ### Commit-only visits (R102) -/

/-- Step (a) alone, for the pixels of PEAK and PEAK_FADE regions; a record without a pending value is unchanged, and so is one
with an EXCLUDE defect, which never holds one (R71, R101). -/
def commitOnly (set : TakeSettings) (det : TrailDetector) (row column : Nat) (px : Pixel) : Pixel :=
  let p := pixelPolicy set row column
  if p.mode.isPeak then commitPending (isVetoed set det p row column) px else px

/-- A record of the take's frame, in a row that visit picks, gets its commit-only visit; the records beyond the geometry are
left alone (R86). -/
def commitRecord (visit : Nat → Bool) (set : TakeSettings) (det : TrailDetector) (a : Nat) (px : Pixel) : Pixel :=
  if a / set.width < set.height && visit (a / set.width) then commitOnly set det (a / set.width) (a % set.width) px else px

/-- Commit-only visits to every pixel of the rows that visit picks. -/
def commitRows (visit : Nat → Bool) (s : State) : State :=
  { s with plane := Memory.update Pixel.cleared (commitRecord visit s.settings s.trails) s.plane }

end Sys2Proof.Machine
end

