-- ==== Sys2Proof/Machine/Trails.lean ====
section
/-! DEFINITION. The Trail Detector (spec 06): segments, joining and merging, closing, veto lists and Trail Queue. -/

namespace Sys2Proof.Machine

/-- A run of flagged pixels of one row (R117). -/
structure Segment where
  left : Nat
  right : Nat
  flagged : Nat
  sky : Bool
  ground : Bool
  deriving DecidableEq, Repr

def Segment.single (column : Nat) (region : Region) : Segment :=
  { left := column, right := column, flagged := 1, sky := decide (region = .sky), ground := decide (region = .ground) }

def Segment.extend (g : Segment) (column : Nat) (region : Region) : Segment :=
  { g with right := column, flagged := g.flagged + 1, sky := g.sky || decide (region = .sky),
           ground := g.ground || decide (region = .ground) }

/-- The segments of a row's flagged columns, in column order: a column joins the segment in progress when at most gapCols
unflagged columns lie between (R117). -/
def segmentsFrom (gapCols : Nat) : Segment → List (Nat × Region) → List Segment
  | g, [] => [g]
  | g, (c, r) :: rest =>
    if c - g.right ≤ gapCols + 1 then segmentsFrom gapCols (g.extend c r) rest
    else g :: segmentsFrom gapCols (Segment.single c r) rest

def formSegments (gapCols : Nat) : List (Nat × Region) → List Segment
  | [] => []
  | (c, r) :: rest => segmentsFrom gapCols (Segment.single c r) rest

/-- A segment whose span is less than seg_min is ignored (R117). -/
def keptSegments (p : Params) (columns : List (Nat × Region)) : List Segment :=
  (formSegments p.gapCols columns).filter fun g => decide (p.segMin ≤ g.right - g.left + 1)

/-- An open trail is fed late enough for row r: last_row is at least r - 1 - gap_rows (R116, R118). -/
def reaches (p : Params) (row : Nat) (t : OpenTrail) : Bool := decide (row ≤ t.lastRow + 1 + p.gapRows)

/-- A segment matches an open trail (R118); the margin of the take widens the last span at each end. -/
def matchesTrail (p : Params) (row : Nat) (g : Segment) (t : OpenTrail) : Bool :=
  reaches p row t && decide ((t.spanLeft : Int) - p.margin ≤ g.right ∧ (g.left : Int) ≤ t.spanRight + p.margin)

/-- A trail's fields folded into the segment's row (R119, R120): the span of a trail whose last_row was already this row
widens the last span. -/
def foldTrail (row : Nat) (acc t : OpenTrail) : OpenTrail :=
  { firstRow := min acc.firstRow t.firstRow, lastRow := row,
    minCol := min acc.minCol t.minCol, maxCol := max acc.maxCol t.maxCol,
    spanLeft := if t.lastRow = row then min acc.spanLeft t.spanLeft else acc.spanLeft,
    spanRight := if t.lastRow = row then max acc.spanRight t.spanRight else acc.spanRight,
    flagged := acc.flagged + t.flagged, sky := acc.sky || t.sky, ground := acc.ground || t.ground }

/-- A trail of one segment (R121). -/
def Segment.asTrail (row : Nat) (g : Segment) : OpenTrail :=
  { firstRow := row, lastRow := row, minCol := g.left, maxCol := g.right, spanLeft := g.left, spanRight := g.right,
    flagged := g.flagged, sky := g.sky, ground := g.ground }

/-- Put merged in the place of the oldest matching trail and take the other matching ones out (R119, R120). -/
def replaceMatches (hit : OpenTrail → Bool) (merged : OpenTrail) : List OpenTrail → List OpenTrail
  | [] => []
  | t :: rest => if hit t then merged :: rest.filter (fun u => !hit u) else t :: replaceMatches hit merged rest

/-- One segment of a row: it joins the trail it matches, merges those it matches, opens a trail, or is unattributed (R119 to
R121). -/
def takeSegment (row : Nat) (g : Segment) (s : State) : State :=
  let hit := matchesTrail s.params row g
  match s.trails.openTrails.filter hit with
  | [] =>
    if s.trails.openTrails.length < Config.openTrailCapacity then
      { s with trails.openTrails := s.trails.openTrails ++ [g.asTrail row] }
    else onRecord (fun r => { r with unattributed := min 4095 (r.unattributed + 1) }) s
  | hits =>
    { s with trails.openTrails :=
        replaceMatches hit (hits.foldl (foldTrail row) (g.asTrail row)) s.trails.openTrails }

/-- A record enters the Trail Queue, or TRAIL_QUEUE_FULL is set (R125). While TRAIL reports are disabled it leaves as soon as
it enters (R128). -/
def offerToQueue (t : TrailRecord) (s : State) : State :=
  if s.trails.queue.length < Config.trailQueueCapacity then
    if reportEnabled s .trail then { s with trails.queue := s.trails.queue ++ [t] } else s
  else onRecord (fun r => { r with trailQueueFull := true }) s

/-- The larger of the two extents of a trail (R123). -/
def OpenTrail.extent (t : OpenTrail) : Nat := max (t.lastRow - t.firstRow + 1) (t.maxCol - t.minCol + 1)

/-- A numbered record is offered to the current veto list and then to the Trail Queue (R123 to R125). -/
def recordTrail (t : OpenTrail) (s : State) : State :=
  let box : TrailBox := { firstRow := t.firstRow, lastRow := t.lastRow, minCol := t.minCol, maxCol := t.maxCol }
  let room := decide (s.trails.current.boxes.length < Config.vetoCapacity)
  let record : TrailRecord :=
    { subframe := subframeIndex s, number := s.trails.counter, box := box, flagged := t.flagged, sky := t.sky,
      ground := t.ground, vetoing := room }
  let counted := { s with trails.counter := s.trails.counter + 1 }
  let listed :=
    if room then { counted with trails.current.boxes := s.trails.current.boxes ++ [box] }
    else onRecord (fun r => { r with vetoFull := true }) counted
  offerToQueue record listed

/-- A trail that closes: discarded when it is too small; otherwise counted, and made a record while the counter is at most
255 (R123). -/
def closeTrail (t : OpenTrail) (s : State) : State :=
  if t.extent < s.params.minExtent then s
  else
    let counted := onRecord (fun r => { r with trails := r.trails + 1 }) s
    if s.trails.counter ≤ 255 then recordTrail t counted
    else onRecord (fun r => { r with vetoFull := true, trailQueueFull := true }) counted

/-- Close these trails, in order. -/
def closeTrails (ts : List OpenTrail) (s : State) : State := ts.foldl (fun s t => closeTrail t s) s

/-- The closing of stale trails at the start of a row (R116). -/
def closeStale (row : Nat) (s : State) : State :=
  let stale := s.trails.openTrails.filter fun t => !reaches s.params row t
  let rest := s.trails.openTrails.filter fun t => reaches s.params row t
  closeTrails stale { s with trails.openTrails := rest }

/-- The work on one row of a light subframe: stale trails, then segments, left to right (R115). A column counts as flagged
when its region's trail_detect is on. -/
def detectRow (row : Nat) (flags : List (Nat × Region)) (s : State) : State :=
  let columns := flags.filter fun f => (policyOf s.settings f.2).trailDetect
  (keptSegments s.params columns).foldl (fun s g => takeSegment row g s) (closeStale row s)

/-- The opening of a light subframe at the plane grant to its ingest; a dark one is not opened (R114). -/
def openDetector (s : State) : State :=
  if openIsLight s then
    { s with trails.current.index := some (subframeIndex s), trails.counter := 1 }
  else s

/-- R122: every open trail closes, in creation order. -/
def closeAllTrails (s : State) : State :=
  closeTrails s.trails.openTrails { s with trails.openTrails := [] }

/-- R126: the current list becomes the previous one. -/
def rotateVetoLists (s : State) : State :=
  { s with trails.previous := s.trails.current, trails.current := VetoList.absent }

end Sys2Proof.Machine
end

