-- ==== Sys2Proof/Machine/Calibrate.lean ====
section
/-! DEFINITION. The Calibration Unit (spec 04): the scale S, the path of one sample, and one Line FIFO entry carried through
calibration, the Accumulator and the Trail Detector (R59, R65). -/

namespace Sys2Proof.Machine

/-! ### The scale S (R76 to R81) -/

/-- t_dark: the mean exposure of the contributing darks, rounded (R77). -/
def meanDarkExposure (c : Calibration) : Int := roundDiv c.darkExposure c.darkCount

/-- ratio_q, not saturated (R77). -/
def exposureRatio (c : Calibration) (exposedUs : Nat) : Int := roundDiv (4096 * exposedUs) (meanDarkExposure c)

/-- T_dark, absent when no contributing dark had a temperature (R80). -/
def meanDarkTemp (c : Calibration) : Option Int :=
  if c.darkTempCount = 0 then none else some (roundDiv c.darkTempTotal c.darkTempCount)

/-- tq: 4096 when the model is empty or a temperature is absent (R79, R80). -/
def temperatureRatio (model : List CurvePoint) (c : Calibration) (temp : Option Int) : Int :=
  match temp, meanDarkTemp c with
  | some t, some d =>
    match interpolate model t, interpolate model d with
    | some g, some h => roundDiv (4096 * g) h
    | _, _ => 4096
  | _, _ => 4096

/-- S before its saturation (R81). -/
def exactScale (model : List CurvePoint) (c : Calibration) (exposedUs : Nat) (temp : Option Int) : Int :=
  roundDiv (exposureRatio c exposedUs * temperatureRatio model c temp) 4096

/-- S, absent when the take has no contributing dark (R76), saturated at 65535 (R81). -/
def scaleOf (model : List CurvePoint) (c : Calibration) (exposedUs : Nat) (temp : Option Int) : Option Nat :=
  if c.darkCount = 0 then none else some (min 65535 (exactScale model c exposedUs temp).toNat)

/-- SCALE_SATURATED: the exact rounded result exceeds 65535 (R81). -/
def scaleSaturates (model : List CurvePoint) (c : Calibration) (exposedUs : Nat) (temp : Option Int) : Bool :=
  decide (c.darkCount ≠ 0) && decide (65535 < exactScale model c exposedUs temp)

/-- S at a light subframe's FRAME_START, kept in the unit and recorded in the open record. -/
def computeScale (s : State) : State :=
  match s.log.openRecord with
  | none => s
  | some r =>
    let model := s.tables.darkModel.seen
    let exposed := r.exposedUs.getD 0
    let scale := scaleOf model s.cal exposed r.temperature
    onRecord (fun q => { q with scale := scale, scaleSaturated := scaleSaturates model s.cal exposed r.temperature })
      { s with cal.scale := scale }

/-- The dark summaries at the close of a contributing dark (R75). -/
def addDarkSummary (r : SubframeRecord) (c : Calibration) : Calibration :=
  { c with
    darkCount := c.darkCount + 1,
    darkExposure := c.darkExposure + r.exposedUs.getD 0,
    darkTempTotal := c.darkTempTotal + r.temperature.getD 0,
    darkTempCount := c.darkTempCount + (if r.temperature.isSome then 1 else 0) }

/-! ### One sample (R65, R70 to R74, R82, R83) -/

/-- An entry outside the take's geometry is ignored for the take (R68). -/
def defectIgnored (width height : Nat) (d : Defect) : Bool := decide (height ≤ d.row) || decide (width ≤ d.column)

/-- The rounded mean of the same-colour neighbours, or the one that exists (R70). -/
def substituteValue (pixels : List Nat) (column : Nat) : Nat :=
  match (if 2 ≤ column then pixels[column - 2]? else none), pixels[column + 2]? with
  | some a, some b => (roundDiv ((a : Int) + b) 2).toNat
  | some a, none => a
  | none, some b => b
  | none, none => pixels.getD column 0

/-- r16, the dark reference in sixteenths of an LSB (R82). -/
def darkReference (px : Pixel) : Int := max 0 (roundDiv (16 * px.darkSum) px.darkN)

/-- c, the dark contribution (R83). -/
def darkContribution (scale : Option Nat) (px : Pixel) : Int :=
  match scale with
  | none => 0
  | some k => if px.darkN = 0 then 0 else roundDiv (k * darkReference px) 65536

/-- y before its clamp (R83). -/
def unclampedSample (blackLevel : Nat) (scale : Option Nat) (px : Pixel) (x : Nat) : Int :=
  (x : Int) - blackLevel - darkContribution scale px

/-- The calibrated sample (R83). -/
def calibratedSample (blackLevel : Nat) (scale : Option Nat) (px : Pixel) (x : Nat) : Int :=
  clampInt (-4096) 16383 (unclampedSample blackLevel scale px x)

/-- The dark summation (R74). -/
def sumDark (blackLevel x : Nat) (px : Pixel) : Pixel :=
  { px with darkSum := px.darkSum + ((x : Int) - blackLevel), darkN := px.darkN + 1 }

/-- What one row's ingest carries from sample to sample: the plane, the open record, the defects the cursor has not passed,
and the flagged columns so far, last first. -/
structure RowWork where
  plane : Memory Pixel
  record : SubframeRecord
  defects : List Defect
  flags : List (Nat × Region)

/-- The counts a light sample adds to the record (R95). -/
def tallyLight (v : Visit) (r : SubframeRecord) : SubframeRecord :=
  let counted := match v.tally with
    | .admitted => { r with admitted := r.admitted + 1 }
    | .rejected => { r with rejected := r.rejected + 1 }
    | .saturated => { r with saturated := r.saturated + 1 }
  { counted with outliers := r.outliers + (if v.outlier then 1 else 0) }

/-- A sample that passed the region stage, in a dark subframe (R73, R74). -/
def darkSample (s : State) (a x : Nat) (w : RowWork) : RowWork :=
  if s.params.satLevel ≤ x then { w with record := { w.record with saturated := w.record.saturated + 1 } }
  else
    { w with
      plane := Memory.write Pixel.cleared w.plane a
        (sumDark s.params.blackLevel x (Memory.read Pixel.cleared w.plane a)),
      record := { w.record with admitted := w.record.admitted + 1 } }

/-- A sample that passed the region stage, in a light subframe: the saturated mark or its calibrated value goes to the
Accumulator (R73, R83, R84). -/
def lightSample (s : State) (row column a x : Nat) (w : RowWork) : RowWork :=
  let px := Memory.read Pixel.cleared w.plane a
  let p := pixelPolicy s.settings row column
  let saturated := decide (s.params.satLevel ≤ x)
  let y := calibratedSample s.params.blackLevel s.cal.scale px x
  let clamped := !saturated && decide (unclampedSample s.params.blackLevel s.cal.scale px x ≠ y)
  let v := visitLight p (isVetoed s.settings s.trails p row column) w.record.index px (if saturated then none else some y)
  let record := { w.record with clamped := w.record.clamped + (if clamped then 1 else 0) }
  { w with
    plane := Memory.write Pixel.cleared w.plane a v.pixel,
    record := tallyLight v record,
    flags := if v.flagged then (column, regionOf s.settings row column) :: w.flags else w.flags }

/-- A sample after the defect stage: excluded by its region's mode, or on by its subframe's kind (R72). -/
def regionStage (s : State) (row column x : Nat) (w : RowWork) : RowWork :=
  if (pixelPolicy s.settings row column).mode = .exclude then
    { w with record := { w.record with excluded := w.record.excluded + 1 } }
  else
    let a := row * s.settings.width + column
    match w.record.kind with
    | .dark => darkSample s a x w
    | .light => lightSample s row column a x w

/-- One raw sample at its column, through the stages of 4.1 in order. The cursor stands at the first defect not passed; an
ignored one has no effect (R68, R69). -/
def sampleStep (s : State) (row : Nat) (pixels : List Nat) (w : RowWork) (sample : Nat × Nat) : RowWork :=
  let ahead := w.defects.dropWhile (defectIgnored s.settings.width s.settings.height)
  match ahead with
  | d :: rest =>
    if d.row = row ∧ d.column = sample.2 then
      match d.method with
      | .exclude =>
        { w with defects := rest, record := { w.record with excluded := w.record.excluded + 1 } }
      | .substitute => regionStage s row sample.2 (substituteValue pixels sample.2) { w with defects := rest }
    else regionStage s row sample.2 sample.1 w
  | [] => regionStage s row sample.2 sample.1 w

/-! ### One Line FIFO entry (R59) -/

/-- The defects the cursor has not passed. -/
def defectsAhead (s : State) : List Defect := s.tables.defects.seen.drop s.cal.cursor

/-- The cursor stands before this tail of DEFECTS. -/
def setCursor (ahead : List Defect) (s : State) : State :=
  { s with cal.cursor := s.tables.defects.seen.length - ahead.length }

/-- At readout open the cursor goes to the first entry that is not ignored (R69). -/
def openCursor (s : State) : State :=
  setCursor (s.tables.defects.seen.dropWhile (defectIgnored s.settings.width s.settings.height)) s

/-- A GOOD entry: every sample through the path, then, for a light subframe, the row to the Trail Detector (R59, R69). -/
def ingestGood (row : Nat) (pixels : List Nat) (record : SubframeRecord) (s : State) : State :=
  let start : RowWork :=
    { plane := s.plane, record := record, defects := (defectsAhead s).dropWhile (fun d => decide (d.row < row)), flags := [] }
  let w := pixels.zipIdx.foldl (sampleStep s row pixels) start
  let t := setCursor w.defects { s with plane := w.plane, log.openRecord := some w.record }
  match record.kind with
  | .dark => t
  | .light => detectRow row w.flags.reverse t

/-- A lost-row marker: the cursor passes the row, and a light subframe's row is visited commit-only and handed to the Trail
Detector as an empty row (R59, R69). -/
def ingestMarker (row : Nat) (record : SubframeRecord) (s : State) : State :=
  let t := setCursor ((defectsAhead s).dropWhile (fun d => decide (d.row ≤ row))) s
  match record.kind with
  | .dark => t
  | .light => detectRow row [] (commitRows (fun r => decide (r = row)) t)

/-- Carry one entry through ingest; its row becomes INGESTED (R54, R59). -/
def ingestEntryRow (e : FifoEntry) (s : State) : State :=
  match s.log.openRecord with
  | none => s
  | some record =>
    match e.pixels with
    | some pixels => setRow e.row .ingested (ingestGood e.row pixels record s)
    | none => setRow e.row .ingested (ingestMarker e.row record s)

end Sys2Proof.Machine
end

