-- ==== Sys2Proof/Machine/Lane.lean ====
section
/-! DEFINITION. The Line FIFO with its forwarded frames (3.5) and the Output Scheduler's lane (spec 09): what each source
offers, which packet goes next, what a packet's beginning and end do, and the end of every event. -/

namespace Sys2Proof.Machine

/-! ### Line FIFO entries (R58, R60) -/

/-- Done with both consumers. -/
def FifoEntry.finished (e : FifoEntry) : Bool := e.ingestDone && decide (e.forward ≠ .pending)

/-- Entries are freed oldest first, up to the first that is not finished (R60). -/
def freeEntries (s : State) : State := { s with fifo.entries := s.fifo.entries.dropWhile FifoEntry.finished }

def fifoHasRoom (s : State) : Bool := decide (s.fifo.entries.length < Config.fifoCapacity)

/-- Change the entries that hit holds of. -/
def onEntries (hit : FifoEntry → Bool) (f : FifoEntry → FifoEntry) (s : State) : State :=
  { s with fifo.entries := s.fifo.entries.map fun e => if hit e then f e else e }

def onFrames (hit : ForwardedFrame → Bool) (f : ForwardedFrame → ForwardedFrame) (s : State) : State :=
  { s with fifo.frames := s.fifo.frames.map fun g => if hit g then f g else g }

/-- The entry waits to be forwarded for this frame. -/
def pendingFor (number : Nat) (e : FifoEntry) : Bool := decide (e.forward = .pending ∧ e.frame = some number)

def abandonEntry (e : FifoEntry) : FifoEntry := if e.forward = .pending then { e with forward := .abandoned } else e

/-! ### Forwarded frames (R61 to R63) -/

/-- A forwarded frame opens at its FRAME_START, or is abandoned at its opening while Link Out is unlocked (R61, R171). The
frame carries the width and height the take recorded (log 20). -/
def openForwarded (counter : Half) (s : State) : State :=
  if s.out.locked then
    let frame : ForwardedFrame :=
      { number := s.fifo.nextFrame, frameId := counter.toNat, width := s.settings.width, height := s.settings.height,
        startBegun := false, linesSent := 0, isOpen := true, truncated := false }
    { s with fifo.frames := s.fifo.frames ++ [frame], fifo.nextFrame := s.fifo.nextFrame + 1,
             link.forwarding := .frame s.fifo.nextFrame }
  else { s with link.forwarding := .abandoned }

/-- The forwarded frame of the frame in progress closes to new lines (R61). -/
def closeForwarded (s : State) : State :=
  match s.link.forwarding with
  | .frame number =>
    { onFrames (fun g => decide (g.number = number)) (fun g => { g with isOpen := false }) s with link.forwarding := .no }
  | _ => { s with link.forwarding := .no }

/-- Any frame in progress ends, and its forwarded frame closes (R51, R55, R61). -/
def endFrame (s : State) : State := { closeForwarded s with link.frame := .none }

/-- The frames with a PENDING entry. -/
def frameHasPending (entries : List FifoEntry) (g : ForwardedFrame) : Bool := entries.any (pendingFor g.number)

/-- R62: at a push that leaves the occupancy at or above forward_drop_level while an entry is PENDING, forwarding is abandoned
for every frame with a PENDING entry; its later lines enter NOT_REQUESTED. -/
def dropForwarding (s : State) : State :=
  if decide (s.params.forwardDropLevel ≤ s.fifo.entries.length) && s.fifo.entries.any (fun e => decide (e.forward = .pending)) then
    let entries := s.fifo.entries
    let marked := onFrames (frameHasPending entries) (fun g => { g with truncated := true }) s
    let receiver := match s.link.forwarding with
      | .frame number => if entries.any (pendingFor number) then Forwarding.abandoned else .frame number
      | f => f
    onEntries (fun _ => true) abandonEntry { marked with link.forwarding := receiver }
  else s

/-- A push behind the newest entry (R58), the drop level (R62) and the freeing of what is finished (R60). The caller has made
sure of room. -/
def pushEntry (row : Nat) (pixels : Option (List Nat)) (cls : LineClass) (s : State) : State :=
  let forward : ForwardState := match pixels, s.link.forwarding with
    | some _, .frame _ => .pending
    | _, _ => .notRequested
  let frame := match s.link.forwarding with
    | .frame number => some number
    | _ => none
  let entry : FifoEntry :=
    { number := s.fifo.nextEntry, row := row, pixels := pixels, cls := cls, ingestDone := decide (cls = .stray),
      forward := forward, frame := frame }
  freeEntries (dropForwarding
    { s with fifo.entries := s.fifo.entries ++ [entry], fifo.nextEntry := s.fifo.nextEntry + 1 })

/-- R63, R170: forwarding is abandoned for every forwarded frame, its packets are withdrawn and its entries freed as ingest
finishes them. -/
def cutForwarding (s : State) : State :=
  let receiver := match s.link.forwarding with
    | .frame _ => Forwarding.abandoned
    | f => f
  freeEntries (onEntries (fun _ => true) abandonEntry { s with fifo.frames := [], link.forwarding := receiver })

/-! ### What the sources offer (R163) -/

/-- The next due RAW packet of the oldest forwarded frame: its FRAME_START, its oldest PENDING line, or its FRAME_END. -/
def offerRaw (s : State) : Option LanePacket :=
  match s.fifo.frames with
  | [] => none
  | g :: _ =>
    if !g.startBegun then some (.rawStart g.number g.frameId g.width g.height)
    else if g.truncated then some (.rawEnd g.linesSent true)
    else match s.fifo.entries.find? (pendingFor g.number) with
      | some e => some (.rawLine g.number e.number e.row (e.pixels.getD []))
      | none => if g.isOpen then none else some (.rawEnd g.linesSent false)

def offerQueued (s : State) : Option LanePacket := s.out.queue.head?.map LanePacket.queued

def offerRender (s : State) : Option LanePacket := s.out.renderQueue.head?.map fun p => LanePacket.render p true

/-- What the sources offer together: at most one packet of each. -/
def offers (s : State) : List LanePacket := (offerRaw s).toList ++ (offerQueued s).toList ++ (offerRender s).toList

/-- The choice of R164, in its order. -/
def choosePacket (s : State) : Option LanePacket :=
  if decide (s.out.rawRun = Config.rawRunLimit) && !s.out.queue.isEmpty then offerQueued s
  else (offerRaw s).or ((offerQueued s).or (offerRender s))

/-! ### A packet begins and ends -/

/-- What the beginning of a packet does to its source (R163, R166) and to the raw-run count, which moves when the packet begins and
not when it has been sent in full: R164 says only that it moves when a packet is sent (log 43). A render FRAME_END belongs
to a render no longer in hand, so only a FRAME_START marks the render in hand as begun (R142). -/
def beginPacket (p : LanePacket) (s : State) : State :=
  let started := { s with out.inProgress := some p }
  match p with
  | .rawStart number _ _ _ =>
    { onFrames (fun g => decide (g.number = number)) (fun g => { g with startBegun := true }) started with
      out.rawRun := min Config.rawRunLimit (s.out.rawRun + 1) }
  | .rawLine _ _ _ _ => { started with out.rawRun := min Config.rawRunLimit (s.out.rawRun + 1) }
  | .rawEnd _ _ =>
    { started with out.rawRun := min Config.rawRunLimit (s.out.rawRun + 1), fifo.frames := s.fifo.frames.tail }
  | .queued _ => { started with out.rawRun := 0, out.queue := s.out.queue.tail }
  | .render (.frameStart _ _ _ _) _ =>
    { started with out.rawRun := 0, out.renderQueue := s.out.renderQueue.tail, render.startBegun := true }
  | .render _ _ => { started with out.rawRun := 0, out.renderQueue := s.out.renderQueue.tail }

/-- A packet may start: Link Out is locked, the hold state is CLEAR and no packet is in progress (R164, R165, R167). -/
def laneFree (s : State) : Bool := s.out.locked && !s.out.held && s.out.inProgress.isNone

/-- At a boundary (the end of a packet, GO_OUT, the regain of lock) the next packet is chosen by R164, if the lane is free and a
source offers one (R164, R167, R172). -/
def runLane (s : State) : State :=
  if laneFree s then
    match choosePacket s with
    | some p => beginPacket p s
    | none => s
  else s

/-- On an idle lane a packet that becomes available starts at once, whatever its source. Where one event makes packets of several
sources available, either may be taken first: which one is a free value, and the others wait (R165; log 40). -/
def startFirst (s : State) : State :=
  if laneFree s then
    match offers s with
    | [] => s
    | [p] => beginPacket p s
    | p :: q :: more =>
      beginPacket ((p :: q :: more).getD (Config.idleLaneChoice s.out.choices % (more.length + 2)) p)
        { s with out.choices := s.out.choices + 1 }
  else s

/-- A RAW LINE sent in full: its entry becomes SENT, its frame's count grows, and finished entries are freed (R60, R61;
log 17). -/
def endRawLine (frame entry : Nat) (s : State) : State :=
  freeEntries (onEntries (fun e => decide (e.number = entry)) (fun e => { e with forward := .sent })
    (onFrames (fun g => decide (g.number = frame)) (fun g => { g with linesSent := g.linesSent + 1 }) s))

/-- A waiting flow symbol is sent at the end of the packet in progress, in the hold state as well (R168). -/
def sendWaitingFlow (s : State) : State :=
  match s.out.flowWaiting with
  | some f => { s with out.flowWaiting := none, out.sent := .symbol f :: s.out.sent }
  | none => s

/-- The end of every event that can change a signal or make a packet available: on an idle lane a packet starts (R165), and the
lines follow their sources (R28, R29). -/
def endEvent (s : State) : State := driveLines (startFirst s)

/-- The end of an event that is a boundary of the lane: the next packet is the one R164 chooses (R164, R167, R172). -/
def endBoundary (s : State) : State := driveLines (runLane s)

end Sys2Proof.Machine
end

