-- ==== Sys2Proof/Machine/Bridge.lean ====
section
/-! DEFINITION. The Sensor Bridge (spec 08): presentation, arbitration, the start and the end of a transaction, script entries,
relays, the poll and its conversion. -/

namespace Sys2Proof.Machine

/-- The device address is in BRIDGE_ALLOW as it stands (R149, R150). -/
def deviceAllowed (s : State) (device : Nat) : Bool := s.tables.bridgeAllow.seen.contains device

/-! ### Script entries (R156, R157) -/

/-- A SCRIPT_RESULT report: step, script index, outcome, byte index (11.3). -/
def reportScript (step index outcome byteIndex : Nat) (s : State) : State :=
  queueReport .scriptResult [byteOf step, byteOf index, byteOf outcome, byteOf byteIndex] s

def scriptTransaction (step index : Nat) (e : ScriptEntry) : Transaction :=
  { claimant := .script step index true, device := e.device, reg := e.reg, access := .write e.data }

/-- Hand the step's indices to the bridge until one passes presentation and waits for the bus. An index the table does not
hold ends NO_ENTRY; an address not allowed ends BLOCKED; in FAULT the entry ends BUS_STUCK (R150, R157). -/
def handScripts : List Nat → State → State
  | [], s => { s with seq.scriptLeft := [] }
  | index :: rest, s =>
    match s.tables.bridgeScript.seen[index]? with
    | none => handScripts rest (reportScript s.seq.step index noEntryCode 0 s)
    | some e =>
      if !deviceAllowed s e.device then handScripts rest (reportScript s.seq.step index BusOutcome.blocked.code 0 s)
      else if s.bridge.state = .fault then handScripts rest (reportScript s.seq.step index BusOutcome.busStuck.code 0 s)
      else { s with seq.scriptLeft := rest, bridge.waitingScript := some (scriptTransaction s.seq.step index e) }

/-- A script entry handed to the bridge has not ended: it waits, or it is on the bus and its step still waits for it. -/
def scriptOutstanding (s : State) : Bool :=
  s.bridge.waitingScript.isSome ||
    match s.bridge.inFlight with
    | some f => match f.transaction.claimant with
      | .script _ _ live => live
      | _ => false
    | none => false

/-- Every script entry of the step has ended (R7). -/
def scriptsEnded (s : State) : Bool := s.seq.scriptLeft.isEmpty && !scriptOutstanding s

/-- The report of a script entry that ended in any outcome but DONE (R157). -/
def reportScriptEnd (step index : Nat) (o : BusOutcome) (s : State) : State :=
  if o = .done then s else reportScript step index o.code o.byteIndex s

/-- The report of a claim that ends, where a script entry made it (R157). -/
def reportClaimEnd (t : Transaction) (o : BusOutcome) (s : State) : State :=
  match t.claimant with
  | .script step index _ => reportScriptEnd step index o s
  | _ => s

/-! ### Relays (R154, R155) -/

/-- Change the first relay that hit holds of. -/
def onFirstRelay (hit : Relay → Bool) (f : Relay → Relay) : List Relay → List Relay
  | [] => []
  | r :: rest => if hit r then f r :: rest else r :: onFirstRelay hit f rest

def Relay.isWaiting (r : Relay) : Bool := decide (r.state = .waiting)
def Relay.isOnBus (r : Relay) : Bool := decide (r.state = .onBus)
def Relay.isAnswered (r : Relay) : Bool :=
  match r.state with
  | .replyWaiting _ _ => true
  | _ => false

/-- The relay has its outcome and waits to queue its reply. -/
def Relay.finish (o : BusOutcome) (data : List Byte) (r : Relay) : Relay := { r with state := .replyWaiting o data }

/-- The first relay that hit holds of ends with its outcome. Its reply is due: it waits to be queued (R155), and while Link Out is
unlocked it is discarded and the relay leaves the queue at once (R171). -/
def endRelay (hit : Relay → Bool) (o : BusOutcome) (data : List Byte) (s : State) : State :=
  { s with bridge.relays := if s.out.locked then onFirstRelay hit (Relay.finish o data) s.bridge.relays
    else s.bridge.relays.eraseP hit }

/-- The relay on the bus ends with its outcome (R155). -/
def endBusRelay (o : BusOutcome) (data : List Byte) (s : State) : State := endRelay Relay.isOnBus o data s

/-- Every waiting relay ends BUS_STUCK, oldest first (R151). -/
def failRelays (s : State) : State :=
  { s with bridge.relays := if s.out.locked then s.bridge.relays.map fun r => if r.isWaiting then r.finish .busStuck [] else r
    else s.bridge.relays.filter fun r => !r.isWaiting }

/-- The request kind of a relay: BRIDGE_WRITE 18, BRIDGE_READ 19 (R191). -/
def Relay.kindByte (r : Relay) : Byte :=
  match r.access with
  | .write _ => 18#8
  | .read _ => 19#8

/-- The payload of a relay's reply: the byte index, and for a READ ending DONE the bytes read (11.3; log 23). -/
def relayPayload (o : BusOutcome) (data : List Byte) : List Byte :=
  byteOf o.byteIndex :: (if o = .done then data else [])

/-! ### Starting on the bus (R147, R151) -/

/-- Every claim waiting at the entry to FAULT fails with BUS_STUCK: the POLL, the SCRIPT, the relays; the script run goes on,
and its later indices fail at presentation (R151, R157). -/
def failWaiting (s : State) : State :=
  let withdrawn := { s with bridge.waitingPoll := none, bridge.waitingScript := none }
  let scripted := match s.bridge.waitingScript with
    | some t => reportClaimEnd t .busStuck withdrawn
    | none => withdrawn
  let relayed := failRelays scripted
  handScripts relayed.seq.scriptLeft relayed

/-- The line stays low after the recovery: the outcome goes to the claimant, BRIDGE_FAULT is reported, and every waiting claim
fails (R151). A relay whose transaction this was still stands in the Relay Queue as WAITING, and fails there with the others. -/
def enterFault (t : Transaction) (s : State) : State :=
  let handed := reportClaimEnd t .busStuck { s with bridge.state := .fault, bridge.inFlight := none }
  failWaiting (queueReport .bridgeFault [byteOf t.claimant.code, byteOf t.device] handed)

/-- The bytes the bridge sends after a device address, numbered from 0 in this order: the register address, high byte first when
it is wide, and then a WRITE's data bytes (R147). -/
def numberedBytes (t : Transaction) : List Byte :=
  (if t.reg.wide then bytes2 t.reg.addr else [byteOf t.reg.addr]) ++ match t.access with
    | .write data => data
    | .read _ => []

/-- A transaction on the bus from its start condition to its stop condition: a READ repeats the start with the read direction and
acknowledges each byte it takes but the last (R147). -/
def busActions (t : Transaction) : List BusAction :=
  .start :: .address t.device .write :: (numberedBytes t).map .send ++ match t.access with
    | .write _ => [.stop]
    | .read count =>
      .start :: .address t.device .read :: (List.range count).map (fun k => .take (decide (k + 1 < count))) ++ [.stop]

/-- The recovery of a bus whose data line is low: nine clock pulses and a stop condition (R151, R152). -/
def recoveryRun (speed : Nat) : BusRun := { speed := speed, actions := List.replicate 9 .pulse ++ [.stop] }

/-- The bridge has put this on the bus. -/
def sendRun (run : BusRun) (s : State) : State := { s with bridge.bus := run :: s.bridge.bus }

/-- The transaction is on the bus at the present bridge speed (R147). -/
def putOnBus (t : Transaction) (s : State) : State :=
  { s with bridge.state := .busy,
           bridge.inFlight := some { transaction := t, speed := s.params.bridgeSpeed, actions := busActions t } }

/-- The look at the data line, the recovery when it is low, and the start of the transaction, or FAULT where the line is still low
(R147, R151). -/
def startTransaction (t : Transaction) (s : State) : State :=
  let looked := { s with freeSeq := s.freeSeq + 1 }
  let recovered := sendRun (recoveryRun s.params.bridgeSpeed) looked
  match Config.dataLine s.freeSeq with
  | .high => putOnBus t looked
  | .freed => putOnBus t recovered
  | .stuck => enterFault t recovered

/-! ### Arbitration (R153) -/

/-- The oldest waiting relay is on the bus (R155). -/
def markOnBus (s : State) : State :=
  { s with bridge.relays := onFirstRelay Relay.isWaiting (fun q => { q with state := .onBus }) s.bridge.relays }

/-- The transaction of a relay. -/
def Relay.transaction (r : Relay) : Transaction :=
  { claimant := .relay, device := r.device, reg := r.reg, access := r.access }

/-- Select until a transaction is on the bus or no claim may start: POLL, then SCRIPT, then the oldest relay, the last two
passed over in READOUT. An address no longer allowed ends BLOCKED at selection, and the arbiter selects again (R150). The
first argument bounds the selections of one event. -/
def selectClaim : Nat → State → State
  | 0, s => s
  | fuel + 1, s =>
    if s.bridge.state ≠ .idle then s
    else match s.bridge.waitingPoll with
      | some t =>
        let s := { s with bridge.waitingPoll := none }
        if deviceAllowed s t.device then startTransaction t s else selectClaim fuel s
      | none =>
        if s.seq.phase = .readout then s
        else match s.bridge.waitingScript with
          | some t =>
            let s := { s with bridge.waitingScript := none }
            if deviceAllowed s t.device then startTransaction t s
            else selectClaim fuel (handScripts s.seq.scriptLeft (reportClaimEnd t .blocked s))
          | none =>
            match s.bridge.relays.find? Relay.isWaiting with
            | none => s
            | some r =>
              -- A stuck line leaves no relay waiting, and then none is marked.
              if deviceAllowed s r.device then markOnBus (startTransaction r.transaction s)
              else selectClaim fuel (endRelay Relay.isWaiting .blocked [] s)

/-- The bus, where it is free, is given to the next claim (R153). One event selects at most the POLL, the SCRIPT claim with the
indices behind it, and every relay. -/
def arbitrate (s : State) : State := selectClaim (s.seq.scriptLeft.length + s.bridge.relays.length + 3) s

/-! ### The poll (R158 to R160) -/

def pollTransaction (s : State) : Transaction :=
  { claimant := .poll s.seq.exposureNumber s.params.pollGain s.params.pollOffset, device := s.params.pollDevice,
    reg := s.params.pollRegister, access := .read 2 }

/-- The poll's claim: it takes the place of an earlier one still waiting; BLOCKED and BUS_STUCK end it at presentation, and
otherwise it waits for the bus (R150, R159). -/
def claimPoll (s : State) : State :=
  let t := pollTransaction s
  let s := { s with seq.pollAt := none, bridge.waitingPoll := none }
  if !deviceAllowed s t.device then s
  else if s.bridge.state = .fault then s
  else arbitrate { s with bridge.waitingPoll := some t }

/-- The conversion of a DONE poll's two bytes, high byte first, signed (R160). -/
def convertPoll (gain offset : Int) (data : List Byte) : Int :=
  clampInt (-160) 340 (roundDiv (readSigned2 data 0 * gain) 256 + offset)

/-- A poll that ends: DONE sets the last good value, and counts as the poll of its own exposure alone: a poll of an earlier
exposure, of this take or of another, does not (R159, R160, R161). -/
def endPoll (exposure : Nat) (gain offset : Int) (o : BusOutcome) (data : List Byte) (s : State) : State :=
  if o = .done then
    { s with bridge.lastGood := some (convertPoll gain offset data),
             seq.pollDone := s.seq.pollDone || decide (s.seq.exposureNumber = exposure) }
  else s

/-! ### The end of a transaction (R148) -/

/-- The outcome goes to its claimant: the poll's value, a script run's next index, a relay's reply. -/
def endClaimant (o : BusOutcome) (data : List Byte) (c : Claimant) (s : State) : State :=
  match c with
  | .poll exposure gain offset => endPoll exposure gain offset o data s
  | .script step index live =>
    let reported := reportScriptEnd step index o s
    if live then handScripts reported.seq.scriptLeft reported else reported
  | .relay => endBusRelay o data s

/-- A transaction can end so: a READ's DONE has taken the count asked for, a WRITE's none, only a READ sends its address in the read
direction, and NACK_DATA names a byte that is sent. -/
def outcomePossible (t : Transaction) : BusEnd → Bool
  | .done data => match t.access with
    | .read count => decide (data.length = count)
    | .write _ => data.isEmpty
  | .nackAddress .write => true
  | .nackAddress .read => match t.access with
    | .read _ => true
    | .write _ => false
  | .nackData index => decide (index < (numberedBytes t).length)

def busOutcomeOf : BusEnd → BusOutcome
  | .done _ => .done
  | .nackAddress _ => .nackAddress
  | .nackData index => .nackData index

def busDataOf : BusEnd → List Byte
  | .done data => data
  | _ => []

/-- The actions up to the address or the byte that the device refuses, itself included; none where it refuses nothing (R147, R148). -/
def refusedAfter (t : Transaction) : BusEnd → Option Nat
  | .done _ => none
  | .nackAddress .write => some 2
  | .nackAddress .read => some (4 + (numberedBytes t).length)
  | .nackData index => some (3 + index)

/-- The transaction on the bus, from its start to its end: whole, or cut by a stop condition at once behind what was refused, no
later byte sent (R148). -/
def endedRun (f : InFlight) (o : BusEnd) : BusRun :=
  { speed := f.speed,
    actions := match refusedAfter f.transaction o with
      | none => f.actions
      | some count => f.actions.take count ++ [.stop] }

/-- What stands on the bus is cut at a point before its last action, which is an open value, and this follows (log 36). -/
def cutRun (k : Nat) (last : BusAction) (run : BusRun) : BusRun :=
  { run with actions := run.actions.take (min (Config.cutActions k) (run.actions.length - 1)) ++ [last] }

/-- The transaction on the bus up to where a device held the clock; the lines are released and no stop is sent (R148). -/
def timedOutRun (k : Nat) (f : InFlight) : BusRun := cutRun k .release { speed := f.speed, actions := f.actions }

/-- The transaction in flight ends, having put run on the bus: the bridge is IDLE, the outcome is handed over, and the next claim is
selected (R148, R153). -/
def endTransaction (o : BusOutcome) (data : List Byte) (run : BusRun) (f : InFlight) (s : State) : State :=
  arbitrate (endClaimant o data f.transaction.claimant
    { sendRun run s with bridge.state := .idle, bridge.inFlight := none })

end Sys2Proof.Machine
end

