-- ==== Sys2Proof/Machine/Phases.lean ====
section
/-! DEFINITION. The Sequencer's phases (spec 01), the measured exposure (2.5), the Plane Arbiter's grants (5.8), renders from
their taking to their end (spec 07), and the close of a subframe (R13 to R15). -/

namespace Sys2Proof.Machine

/-! ### EXPOSE entry (R9, R24, R37, R159) -/

/-- A record as it opens (R24). -/
def SubframeRecord.opening (index step : Nat) (st : PlanStep) : SubframeRecord :=
  { index := index, kind := st.kind, step := step, outcome := none, frameCounter := none, commandedUs := st.exposure,
    heldUs := 0, exposedUs := none, exposureSource := none, tempState := none, temperature := none, scale := none,
    admitted := 0, rejected := 0, saturated := 0, excluded := 0, lost := 0, outliers := 0, clamped := 0, extraLines := 0,
    trails := 0, unattributed := 0, vetoFull := false, trailQueueFull := false, scaleSaturated := false,
    feedbackMissing := false }

/-- The poll of this exposure: none unless the source is SENSOR_REGISTER; claimed at once when the exposure is not longer than
poll_lead, and otherwise poll_lead before the timer's end (R159). -/
def schedulePoll (exposure : Nat) (s : State) : State :=
  match s.params.tempSource with
  | .adcTh1 => { s with seq.pollAt := none }
  | .sensorRegister =>
    if exposure ≤ s.params.pollLead * 1000 then claimPoll s
    else { s with seq.pollAt := some (s.now + (exposure - s.params.pollLead * 1000)) }

/-- Entry to EXPOSE: the record opens, the exposure timer starts, the Measurement Timer is armed, the poll is scheduled. -/
def enterExpose (s : State) : State :=
  match currentStep s with
  | none => s
  | some st =>
    schedulePoll st.exposure { s with
      seq.phase := .expose,
      seq.gapTimer := none,
      seq.exposureTimer := some (s.now + st.exposure),
      seq.exposureNumber := s.seq.exposureNumber + 1,
      seq.exposeStart := s.now,
      seq.pollDone := false,
      log.openRecord := some (SubframeRecord.opening (s.log.closed.length + 1) s.seq.step st),
      meas := { armed := true, startCapture := none, endCapture := none } }

/-! ### WAIT and STEP_START (R7, R8) -/

/-- Entry to WAIT: the gap timer, whose gap of 0 expires at entry, or the wait for a trigger. -/
def enterWait (s : State) : State :=
  match currentStep s with
  | none => s
  | some st =>
    match st.cadence with
    | .external => { s with seq.phase := .wait, seq.gapTimer := none }
    | .internal =>
      if st.gap = 0 then enterExpose { s with seq.phase := .wait, seq.gapTimer := none }
      else { s with seq.phase := .wait, seq.gapTimer := some (s.now + st.gap) }

/-- STEP_START ends when no settle timer runs and every script entry has ended. -/
def tryEndStepStart (s : State) : State :=
  if s.seq.phase = .stepStart ∧ s.seq.settleTimer = none ∧ scriptsEnded s = true then enterWait s else s

/-- Entry to STEP_START: the step's levels, the settle timer when SHUTTER changes, and the script run. -/
def enterStepStart (settles : Bool) (s : State) : State :=
  match currentStep s with
  | none => s
  | some st =>
    tryEndStepStart (arbitrate (handScripts (List.range' st.scriptFirst st.scriptCount) { s with
      seq.phase := .stepStart,
      seq.notStarted := false,
      seq.shutter := decide (st.kind = .dark),
      seq.stepLevel := st.stepLevel,
      seq.settleTimer := if settles then timerFor s (s.params.shutterSettle * 1000) else none }))

/-- The step at the position sets SHUTTER to another level than it has (R7). -/
def shutterChanges (s : State) : Bool :=
  match currentStep s with
  | none => false
  | some st => decide (s.seq.shutter ≠ decide (st.kind = .dark))

/-- The SHUTTER level of the step before the one at the position, inactive for step 0 (R18). -/
def levelBefore (s : State) : Bool :=
  match s.seq.step with
  | 0 => false
  | k + 1 => match s.tables.plan.seen[k]? with
    | some st => decide (st.kind = .dark)
    | none => false

/-- At a resume the settle timer runs if the step's level differs from that of the step before it (R18). -/
def resumeSettles (s : State) : Bool :=
  match currentStep s with
  | none => false
  | some st => decide (levelBefore s ≠ decide (st.kind = .dark))

/-- The work of STEP_START or WAIT is cancelled: timers, indices not handed over and an entry waiting for the bus; an entry on
the bus runs to its end on its own (R17, R157). -/
def cancelWork (s : State) : State :=
  let detached := s.bridge.inFlight.map fun f =>
    match f.transaction.claimant with
    | .script step index _ => { f with transaction.claimant := .script step index false }
    | _ => f
  { s with seq.settleTimer := none, seq.gapTimer := none, seq.scriptLeft := [], bridge.waitingScript := none,
           bridge.inFlight := detached }

/-! ### The release of EXPOSE (R11, R38, R39, R161) -/

/-- The latest sensor temperature, from the source in use (R160). -/
def sensorTemperature (s : State) : Option Int :=
  match s.params.tempSource with
  | .sensorRegister => s.bridge.lastGood
  | .adcTh1 => s.temps.th1

/-- temp_state by the table of R161. -/
def sensorTempState (s : State) : TempState :=
  match s.params.tempSource, sensorTemperature s with
  | _, none => .absent
  | .adcTh1, some _ => .fresh
  | .sensorRegister, some _ => if s.seq.pollDone then .fresh else .stale

/-- The record takes its temperature and temp_state at EXPOSE release. -/
def takeTemperature (s : State) : State :=
  onRecord (fun r => { r with temperature := sensorTemperature s, tempState := some (sensorTempState s) }) s

/-- The time in HOLD is added to held_us (R11). -/
def endHold (s : State) : State :=
  if s.seq.phase = .hold then onRecord (fun r => { r with heldUs := r.heldUs + (s.now - s.seq.holdStart) }) s else s

/-- EXPOSE is released: held_us, the temperature, the timers and the poll not yet claimed. -/
def releaseExposure (s : State) : State :=
  takeTemperature { endHold s with seq.exposureTimer := none, seq.extensionTimer := none, seq.pollAt := none }

/-- exposed_us from the captures, when the end is later than the start (R38). -/
def feedbackTime (m : MeasurementTimer) : Option Nat :=
  match m.startCapture, m.endCapture with
  | some a, some b => if a < b then some (b - a) else none
  | _, _ => none

/-- R38 states that exposed_us lies in 1..4,294,967,295 (log 27). -/
def exposedRange (us : Nat) : Nat := max 1 (min us 4294967295)

/-- The Measurement Timer decides exposed_us and exposure_source, and is disarmed (R37, R38). -/
def decideExposure (lineTime : Nat) (s : State) : State :=
  let hasFeedback := hasFunction .expFeedback s.tables.lines.seen
  let decided := match feedbackTime s.meas with
    | some us => onRecord (fun r => { r with exposedUs := some (exposedRange us), exposureSource := some .feedback }) s
    | none => onRecord (fun r => { r with exposedUs := some (exposedRange lineTime), exposureSource := some .lineTime,
                                          feedbackMissing := hasFeedback }) s
  { decided with meas.armed := false }

/-- LINE_TIME of an exposure released at a plane grant: commanded_us + held_us (R39). -/
def grantedLineTime (s : State) : Nat :=
  match s.log.openRecord with
  | some r => r.commandedUs + r.heldUs
  | none => 0

/-! ### The Plane Arbiter (R104 to R108) -/

/-- The plane is granted to ingest: EXPOSE is released, READOUT begins, the readout opens to the Link Receiver with every row
UNSEEN, and the detector and the defect cursor are set for the subframe (R10, R12, R54, R69, R114). -/
def grantIngest (s : State) : State :=
  let released := releaseExposure s
  let readout : Readout :=
    { kind := if openIsLight s then .light else .dark,
      forward := (currentStep s).any PlanStep.forward, seenFrame := false }
  openDetector (openCursor { released with
    arb := { holder := .ingest, waiting := .none },
    seq.lineTime := grantedLineTime released,
    seq.phase := .readout,
    seq.readoutTimer := some (s.now + s.params.readoutTimeout * 1000),
    link.readout := some readout,
    link.rowMap := [] })

/-- The plane is granted to the render: it is ACTIVE, reflects the light subframes closed now, and hands over its FRAME_START
with the recorded geometry (R135, R140, R183). -/
def grantRender (s : State) : State :=
  { s with
    arb := { holder := .render, waiting := .none },
    render.state := .active,
    render.lights := lightsClosed s,
    render.row := 0,
    render.rowHanded := false,
    render.startBegun := false,
    render.linesSent := 0,
    out.renderQueue := s.out.renderQueue
      ++ [.frameStart s.render.kind s.render.frameId s.settings.width s.settings.height] }

/-- A release of the plane passes it to the claim that waits (R108). -/
def releasePlane (s : State) : State :=
  match s.arb.waiting with
  | .render => grantRender s
  | .ingest => grantIngest s
  | .none => { s with arb.holder := .none }

/-! ### Renders (R133, R134, R141 to R145) -/

/-- A request taken gets its frame id and pedestal, and its counts start at 0 (R134). -/
def openRender (kind : RenderKind) (s : State) : State :=
  { s with render.kind := kind, render.frameId := s.render.nextId, render.nextId := (s.render.nextId + 1) % 65536,
           render.pedestal := s.params.pedestal, render.holes := 0, render.fullScale := 0 }

/-- A render request is taken and makes its claim: ACTIVE when the plane is free, PENDING otherwise (R106, R134). -/
def takeRender (kind : RenderKind) (s : State) : State :=
  let opened := openRender kind s
  if s.arb.holder = .none then grantRender opened
  else { opened with render.state := .pending, arb.waiting := .render }

def reportAbandoned (kind : RenderKind) (reason : AbandonReason) (s : State) : State :=
  queueReport .renderAbandoned [byteOf kind.code, byteOf reason.code] s

/-- The FINAL request of a FINISHING take is handed over. While Link Out is unlocked it is abandoned at its taking, before its
claim, and the take returns to COMPLETE (R134, R144). -/
def requestFinal (s : State) : State :=
  if s.out.locked then takeRender .final s
  else enterTake .complete .none (reportAbandoned .final .linkDown (openRender .final s))

/-- A FINAL request the Sequencer holds is handed over once the Render Unit is IDLE (R133). -/
def handHeldFinal (s : State) : State :=
  if s.seq.finalHeld = true ∧ s.render.state = .idle then requestFinal { s with seq.finalHeld := false } else s

def RenderPacket.isFrameEnd : RenderPacket → Bool
  | .frameEnd _ _ _ => true
  | _ => false

/-- The packet in progress is a LINE of the render in hand. -/
def lineInProgress (s : State) : Bool :=
  match s.out.inProgress with
  | some (.render (.line _ _ _) live) => live
  | _ => false

/-- A render packet in progress no longer belongs to a render in hand. -/
def LanePacket.detach : LanePacket → LanePacket
  | .render p _ => .render p false
  | p => p

/-- The packets of an ACTIVE render that is abandoned: what has not begun is withdrawn, and once its FRAME_START has begun a
FRAME_END with ABANDONED set follows, with the LINEs sent in full, one in progress included; none at LINK_DOWN (R142, R144).
A FRAME_END that waits belongs to an earlier render and stays. -/
def withdrawFrame (reason : AbandonReason) (s : State) : State :=
  let kept := s.out.renderQueue.filter RenderPacket.isFrameEnd
  let lines := s.render.linesSent + (if lineInProgress s then 1 else 0)
  let closing := if s.render.startBegun && decide (reason ≠ .linkDown) then [RenderPacket.frameEnd s.render.kind lines true]
    else []
  { s with out.renderQueue := kept ++ closing, out.inProgress := s.out.inProgress.map LanePacket.detach }

/-- The FINAL render asked for by the Sequencer: FINISHING lasts exactly as long as it does (R20). -/
def isSequencerFinal (s : State) : Bool := decide (s.render.kind = .final ∧ s.seq.takeState = .finishing)

/-- The take after an abandonment: a FINISHING take returns to COMPLETE, but for ABORT and PART_RESET, and then a FINAL request
held is handed over (R133, R142). -/
def afterAbandonment (final : Bool) (reason : AbandonReason) (s : State) : State :=
  handHeldFinal (if final && decide (reason ≠ .abort) && decide (reason ≠ .partReset) then enterTake .complete .none s else s)

/-- A render in hand is abandoned: its packets, its report, the plane, and the take (R142). An IDLE Render Unit has none. -/
def abandonRender (reason : AbandonReason) (s : State) : State :=
  match s.render.state with
  | .idle => s
  | .pending =>
    afterAbandonment (isSequencerFinal s) reason
      (reportAbandoned s.render.kind reason { s with render.state := .idle, arb.waiting := .none })
  | .active =>
    afterAbandonment (isSequencerFinal s) reason
      (releasePlane (reportAbandoned s.render.kind reason { withdrawFrame reason s with render.state := .idle }))

/-- A render completes when its last LINE has been sent: the FRAME_END, RENDER_DONE, the plane, and for the Sequencer's FINAL
the take state FINISHED (R141). -/
def completeRender (s : State) : State :=
  let handed := { s with out.renderQueue := s.out.renderQueue ++ [.frameEnd s.render.kind s.settings.height false] }
  let reported := queueReport .renderDone
    (byteOf s.render.kind.code :: bytes2 s.render.frameId ++ bytes2 s.render.lights ++ bytes4 s.render.holes
      ++ bytes4 s.render.fullScale) handed
  let released := releasePlane { reported with render.state := .idle }
  handHeldFinal (if isSequencerFinal s then enterTake .finished .none released else released)

/-- A COMPLETE take becomes FINISHING, and the final render is asked for at once or when the Render Unit is IDLE (R20). -/
def enterFinishing (s : State) : State :=
  let f := enterTake .finishing .none s
  if f.render.state = .idle then requestFinal f else { f with seq.finalHeld := true }

/-! ### The end of a readout (R12, R55, R57) -/

/-- The readout ends: the frame state becomes NONE, whatever frame was in progress (R55; for a stray one log 16), the capture
window closes if it is still open, the phase is SETTLE, and a claim passed over in READOUT may start. -/
def endReadout (s : State) : State :=
  let left := endFrame s
  let decided := if s.meas.armed then decideExposure s.seq.lineTime left else left
  arbitrate { decided with link.lastRow := none, link.readout := none, seq.phase := .settle, seq.readoutTimer := none }

/-! ### Leaving RUNNING -/

/-- COMPLETE, with the flags acted on cleared (R14, R19). -/
def enterComplete (s : State) : State :=
  enterTake .complete .none
    { s with seq.pausePending := false, seq.stopPending := false, seq.finishPending := false }

/-- ABORTED: a render in hand is abandoned, a FINAL request held is dropped, the plane is invalid and the flags are clear
(R21, R143). -/
def enterAborted (s : State) : State :=
  let dropped := abandonRender .abort { s with seq.finalHeld := false }
  enterTake .aborted .none { dropped with
    seq.planeValid := false, seq.pausePending := false, seq.stopPending := false, seq.finishPending := false,
    seq.abortPending := false, seq.closeAbandoned := false }

/-- The CLEARING pass is stopped: the records it had reached are cleared, how many of the take's geometry being an open value
(R86, R88; log 8), and the plane is released. -/
def stopClearing (s : State) : State :=
  let reached := min (Config.clearedRecords s.freeSeq) (s.settings.width * s.settings.height)
  { s with plane := Memory.restrict (fun a => decide (reached ≤ a)) s.plane,
           freeSeq := s.freeSeq + 1, arb.holder := .none }

/-! ### SETTLE (R13 to R15) -/

/-- The next entry ingest takes: the oldest SUBFRAME entry not done (R59). -/
def nextIngest (s : State) : Option FifoEntry :=
  s.fifo.entries.find? fun e => decide (e.cls = .subframe) && !e.ingestDone

/-- Ingest finishes its next entry, which may free entries (R59, R60). -/
def ingestNext (s : State) : State :=
  match nextIngest s with
  | none => s
  | some e =>
    freeEntries (onEntries (fun f => decide (f.number = e.number)) (fun f => { f with ingestDone := true })
      (ingestEntryRow e s))

/-- The first stage: ingest finishes every entry of the subframe; the argument counts the entries there are. -/
def finishIngest : Nat → State → State
  | 0, s => s
  | k + 1, s => finishIngest k (ingestNext s)

/-- The second and third stages, of a light subframe: commit-only visits to every row not INGESTED, the closing of trails, the
rotation of the veto lists (R57, R122, R126). -/
def settleLight (s : State) : State :=
  rotateVetoLists (closeAllTrails (commitRows (fun r => decide (rowState s r ≠ .ingested)) s))

/-- The rows of the frame that are still UNSEEN. -/
def unseenRows (s : State) : Nat := (List.range s.settings.height).countP fun r => decide (rowState s r = .unseen)

/-- The outcome of a record at its close (R24). -/
def closeOutcome (abandoned : Bool) (r : SubframeRecord) : SubframeOutcome :=
  if abandoned then .abandoned
  else if r.frameCounter = none then .missing
  else if r.lost = 0 then .integrated
  else .partialFrame

/-- A contributing dark (R75). -/
def contributes (r : SubframeRecord) : Bool :=
  decide (r.kind = .dark) && (decide (r.outcome = some .integrated) || decide (r.outcome = some .partialFrame))

/-- The fourth stage: the rows left are counted lost, the record is closed, entered in the log and reported (R13, R24, R57,
R75). -/
def closeRecord (s : State) : State :=
  match s.log.openRecord with
  | none => s
  | some r =>
    let counted := { r with lost := r.lost + unseenRows s * s.settings.width }
    let closed := { counted with outcome := some (closeOutcome s.seq.closeAbandoned counted) }
    queueReport .subframeClosed closed.bytes { s with
      log := { closed := s.log.closed ++ [closed], openRecord := none },
      cal := if contributes closed then addDarkSummary closed s.cal else s.cal,
      seq.closeAbandoned := false }

/-- The fifth stage: the plane is released; with an abort pending a waiting render is abandoned instead of granted (R13,
R108). -/
def settleRelease (s : State) : State :=
  releasePlane (if s.seq.abortPending then abandonRender .abort s else s)

/-- The plan position advances (R14). -/
def advancePlan (s : State) : State :=
  match currentStep s with
  | none => s
  | some st =>
    if st.count ≤ s.seq.count + 1 then { s with seq.step := s.seq.step + 1, seq.count := 0 }
    else { s with seq.count := s.seq.count + 1 }

/-- The cases of R14, in their order; moved says that the position has moved to a new step. -/
def decideNext (s : State) : State :=
  let finishes := s.seq.finishPending
  let stops := s.seq.stopPending
  let a := advancePlan s
  let moved := decide (a.seq.count = 0)
  if s.seq.abortPending then enterAborted a
  else if decide (a.tables.plan.seen.length ≤ a.seq.step) || stops then
    if finishes then enterFinishing (enterComplete a) else enterComplete a
  else if s.seq.pausePending then
    enterTake .paused .none { a with seq.pausePending := false, seq.notStarted := moved }
  else if moved then enterStepStart (shutterChanges a) a
  else enterWait a

/-- The auto-preview counter at a light close that leads to RUNNING, PAUSED, or COMPLETE without a finish (R15); at its mark a
PREVIEW is taken, or skipped while the Render Unit is not IDLE or Link Out is unlocked (R133). -/
def autoPreview (s : State) : State :=
  if s.params.autoPreview = 0 then s
  else if s.seq.autoCount + 1 = s.params.autoPreview then
    let counted := { s with seq.autoCount := 0 }
    if s.render.state = .idle ∧ s.out.locked = true then takeRender .preview counted else counted
  else { s with seq.autoCount := s.seq.autoCount + 1 }

/-- The close of the subframe (R13), what comes next (R14) and the auto-preview (R15). -/
def settleClose (s : State) : State :=
  let light := openIsLight s
  let counts := light && !s.seq.abortPending && !s.seq.finishPending
  let ingested := finishIngest s.fifo.entries.length s
  let settled := if light then settleLight ingested else ingested
  let decided := decideNext (settleRelease (closeRecord settled))
  if counts then autoPreview decided else decided

end Sys2Proof.Machine
end

