-- ==== Sys2Proof/Machine/Port.lean ====
section
/-! DEFINITION. The Management Port: arrival in the Request Queue (R173, R174), the taking of the oldest request (R175, R176),
and the replies that are queued in events of their own. -/

namespace Sys2Proof.Machine

/-! ### Arrival (R173, R174) -/

/-- A whole request is judged at its last byte: its CRC, its length field, and the room in the queue. -/
def requestJoins (tag kind length : Byte) (payload : List Byte) (crc : Half) (s : State) : Bool :=
  decide (crc16 (requestBytes tag kind length payload) = crc) && decide (length.toNat = payload.length)
    && decide (length.toNat ≤ Config.maxPayload) && decide (s.port.requests.length < Config.requestCapacity)

/-- HOLD_REQ is handed over when an arrival raises the occupancy to 6 and the flag is clear. -/
def markHold (s : State) : State :=
  if s.port.requests.length = Config.holdReqMark ∧ s.port.holdReqSent = false then
    handFlow .holdReq { s with port.holdReqSent := true }
  else s

/-- GO_REQ is handed over when a taking lowers the occupancy to 2 and the flag is set. -/
def markGo (s : State) : State :=
  if s.port.requests.length = Config.goReqMark ∧ s.port.holdReqSent = true then
    handFlow .goReq { s with port.holdReqSent := false }
  else s

/-- Nothing arrives on the back channel while Link Out is unlocked (9.4); a discarded request leaves no trace. -/
def execRequestArrival (tag kind length : Byte) (payload : List Byte) (crc : Half) (s : State) : Out :=
  if s.out.locked && requestJoins tag kind length payload crc s then
    let request : Request := { tag := tag, kind := kind, payload := payload }
    .next (endEvent (markHold { s with port.requests := s.port.requests ++ [request] }))
  else .next s

/-! ### Taking (R175, R176) -/

/-- The port may take a request: no reply waits, and the Outgoing Packet Queue has a free entry. -/
def mayTake (s : State) : Bool := s.port.waiting.isNone && outQueueHasRoom s

/-- The oldest request leaves the queue (R174, R175). -/
def removeRequest (s : State) : State := markGo { s with port.requests := s.port.requests.tail }

/-- Take the oldest request if it is of this kind and may be taken, and carry it out; without such a request the event does
not happen (log 4, log 5). -/
def takeRequest (isKind : Byte → Bool) (carry : Request → State → State) (s : State) : Out :=
  match s.port.requests with
  | [] => .next s
  | r :: _ => if isKind r.kind && mayTake s then .next (endEvent (carry r (removeRequest s))) else .next s

/-- The kind of R191 with this number. -/
def isKind (number : Nat) (kind : Byte) : Bool := decide (kind.toNat = number)

/-- A kind with a fixed payload length: any other length is answered BAD_LENGTH (R176). -/
def fixedLength (n : Nat) (carry : Request → State → State) (r : Request) (s : State) : State :=
  if r.payload.length = n then carry r s else answer r .badLength [] s

/-- A request of an unknown kind is answered UNKNOWN_KIND. -/
def execRequestUnknownKind (s : State) : Out :=
  takeRequest (fun k => !kindKnown k) (fun r s => answer r .unknownKind [] s) s

/-! ### Replies queued later -/

/-- A reply held under the reply-waiting mark is queued once an entry is free, and the mark is cleared (R175). -/
def execWaitingReplyQueued (s : State) : Out :=
  match s.port.waiting with
  | some (.due reply) =>
    if outQueueHasRoom s then .next (endEvent (joinReply reply { s with port.waiting := none })) else .next s
  | _ => .next s

/-- The oldest relay that waits to queue its reply queues it, where an entry is free, and leaves the Relay Queue; while Link
Out is unlocked its reply is discarded (R155, R171). -/
def execRelayReplyQueued (s : State) : Out :=
  match s.bridge.relays.find? Relay.isAnswered with
  | none => .next s
  | some r =>
    if outQueueHasRoom s || !s.out.locked then
      let left := { s with bridge.relays := s.bridge.relays.eraseP Relay.isAnswered }
      match r.state with
      | .replyWaiting o data => .next (endEvent (queueReply r.tag r.kindByte o.status (relayPayload o data) left))
      | _ => .next s
    else .next s

/-- The oldest record leaves the Trail Queue as a TRAIL report, where an entry is free; the drain rests while Link Out is
unlocked (R128, R171). -/
def execTrailQueueDrain (s : State) : Out :=
  match s.trails.queue with
  | [] => .next s
  | t :: rest =>
    if s.out.locked && outQueueHasRoom s then
      .next (endEvent (queueReport .trail t.bytes { s with trails.queue := rest }))
    else .next s

end Sys2Proof.Machine
end

