-- ==== Sys2Proof/Machine/TableOps.lean ====
section
/-! DEFINITION. The eleven tables (10.3): their states, the checks of each entry, and the requests TABLE_OPEN, TABLE_APPEND,
TABLE_CLOSE and TABLE_READ. -/

namespace Sys2Proof.Machine

/-! ### Tables by name -/

def TableName.takeFixed : TableName → Bool
  | .plan => true | .defects => true | .horizon => true | .regions => true | .darkModel => true | .lines => true | _ => false

def TableName.capacity : TableName → Nat
  | .plan => 16 | .defects => 4096 | .horizon => 64 | .regions => 2 | .darkModel => 16 | .lines => 6 | .heaterCurve => 8
  | .adcCurve0 => 16 | .adcCurve1 => 16 | .bridgeAllow => 8 | .bridgeScript => 32

def Tables.stateOf (t : Tables) : TableName → TableState
  | .plan => t.plan.state | .defects => t.defects.state | .horizon => t.horizon.state | .regions => t.regions.state
  | .darkModel => t.darkModel.state | .lines => t.lines.state | .heaterCurve => t.heaterCurve.state
  | .adcCurve0 => t.adcCurve0.state | .adcCurve1 => t.adcCurve1.state | .bridgeAllow => t.bridgeAllow.state
  | .bridgeScript => t.bridgeScript.state

/-- The entries as TABLE_READ returns them, in the layouts of 11.4. -/
def Tables.entryBytes (t : Tables) : TableName → List (List Byte)
  | .plan => t.plan.entries.map PlanStep.bytes
  | .defects => t.defects.entries.map Defect.bytes
  | .horizon => t.horizon.entries.map Vertex.bytes
  | .regions => t.regions.entries.map RegionEntry.bytes
  | .darkModel => t.darkModel.entries.map CurvePoint.bytes
  | .lines => t.lines.entries.map LineEntry.bytes
  | .heaterCurve => t.heaterCurve.entries.map CurvePoint.bytes
  | .adcCurve0 => t.adcCurve0.entries.map CurvePoint.bytes
  | .adcCurve1 => t.adcCurve1.entries.map CurvePoint.bytes
  | .bridgeAllow => t.bridgeAllow.entries.map fun a => [byteOf a]
  | .bridgeScript => t.bridgeScript.entries.map ScriptEntry.bytes

/-- A table's length is the number of entries it holds (R178). -/
def Tables.lengthOf (t : Tables) : TableName → Nat
  | .plan => t.plan.entries.length | .defects => t.defects.entries.length | .horizon => t.horizon.entries.length
  | .regions => t.regions.entries.length | .darkModel => t.darkModel.entries.length | .lines => t.lines.entries.length
  | .heaterCurve => t.heaterCurve.entries.length | .adcCurve0 => t.adcCurve0.entries.length
  | .adcCurve1 => t.adcCurve1.entries.length | .bridgeAllow => t.bridgeAllow.entries.length
  | .bridgeScript => t.bridgeScript.entries.length

/-- TABLE_OPEN empties a table and sets it LOADING (R179). -/
def Table.opened {α : Type} : Table α := { state := .loading, entries := [] }

/-- TABLE_CLOSE sets a table READY when it holds an entry, and EMPTY when it holds none (R181). -/
def Table.closed {α : Type} (t : Table α) : Table α := { t with state := if t.entries.isEmpty then .empty else .ready }

def Tables.opened (t : Tables) : TableName → Tables
  | .plan => { t with plan := Table.opened } | .defects => { t with defects := Table.opened }
  | .horizon => { t with horizon := Table.opened } | .regions => { t with regions := Table.opened }
  | .darkModel => { t with darkModel := Table.opened } | .lines => { t with lines := Table.opened }
  | .heaterCurve => { t with heaterCurve := Table.opened } | .adcCurve0 => { t with adcCurve0 := Table.opened }
  | .adcCurve1 => { t with adcCurve1 := Table.opened } | .bridgeAllow => { t with bridgeAllow := Table.opened }
  | .bridgeScript => { t with bridgeScript := Table.opened }

def Tables.closed (t : Tables) : TableName → Tables
  | .plan => { t with plan := t.plan.closed } | .defects => { t with defects := t.defects.closed }
  | .horizon => { t with horizon := t.horizon.closed } | .regions => { t with regions := t.regions.closed }
  | .darkModel => { t with darkModel := t.darkModel.closed } | .lines => { t with lines := t.lines.closed }
  | .heaterCurve => { t with heaterCurve := t.heaterCurve.closed } | .adcCurve0 => { t with adcCurve0 := t.adcCurve0.closed }
  | .adcCurve1 => { t with adcCurve1 := t.adcCurve1.closed } | .bridgeAllow => { t with bridgeAllow := t.bridgeAllow.closed }
  | .bridgeScript => { t with bridgeScript := t.bridgeScript.closed }

/-! ### The checks of an entry -/

/-- Every table's rule checks room first, then the values and ranges, then the entry against those the table holds (R3, R25,
R42, R67, R78, R89, R91, R149, R156; for PLAN log 21). A value byte that is none of its field's values fails with TABLE_RANGE
(R191). -/
def appendTo {α : Type} (capacity : Nat) (t : Table α) (entry : Option α) (inRange : α → Bool)
    (against : List α → α → Option Status) : Except Status (Table α) :=
  if capacity ≤ t.entries.length then .error .tableFull
  else match entry with
    | none => .error .tableRange
    | some e =>
      if !inRange e then .error .tableRange
      else match against t.entries e with
        | some status => .error status
        | none => .ok { t with entries := t.entries ++ [e] }

def noCheck {α : Type} (_ : List α) (_ : α) : Option Status := none

/-- An entry not greater than the table's previous one fails with TABLE_ORDER. -/
def ordered {α : Type} (less : α → α → Bool) (held : List α) (e : α) : Option Status :=
  match held.getLast? with
  | some p => if less p e then none else some .tableOrder
  | none => none

/-- An entry that clashes with one the table holds fails with TABLE_CONFLICT. -/
def distinct {α : Type} (clash : α → α → Bool) (held : List α) (e : α) : Option Status :=
  if held.any (fun p => clash p e) then some .tableConflict else none

/-- R3. -/
def PlanStep.inRange (e : PlanStep) : Bool :=
  decide (1 ≤ e.count ∧ e.count ≤ 4095 ∧ 1000 ≤ e.exposure ∧ e.exposure ≤ 3600000000 ∧ e.gap ≤ 3600000000
    ∧ e.scriptFirst ≤ 31 ∧ e.scriptCount ≤ 8 ∧ e.scriptFirst + e.scriptCount ≤ 32)

/-- R67: the ranges of the largest geometry. -/
def Defect.inRange (e : Defect) : Bool := decide (e.row ≤ 6143 ∧ e.column ≤ 8191)

/-- R67: by row first and by column within a row. -/
def Defect.less (p e : Defect) : Bool := decide (p.row < e.row ∨ p.row = e.row ∧ p.column < e.column)

/-- R89. -/
def Vertex.inRange (e : Vertex) : Bool := decide (e.column ≤ 8191 ∧ e.row ≤ 6144)

/-- R89: the first vertex stands at column 0, and columns rise. -/
def vertexOrder (held : List Vertex) (e : Vertex) : Option Status :=
  match held.getLast? with
  | none => if e.column = 0 then none else some .tableOrder
  | some p => if p.column < e.column then none else some .tableOrder

/-- R91, with the ranges of the table of 5.4. -/
def RegionEntry.inRange (e : RegionEntry) : Bool :=
  decide (16 ≤ e.policy.kappa ∧ e.policy.kappa ≤ 255 ∧ 3 ≤ e.policy.warmup ∧ e.policy.warmup ≤ 64
    ∧ e.policy.sigmaFloor ≤ 255 ∧ 1 ≤ e.policy.fade ∧ e.policy.fade ≤ 255)

/-- The range of every temperature of a curve: -160..340. -/
def tqInRange (t : Int) : Bool := decide (-160 ≤ t ∧ t ≤ 340)

/-- R78. -/
def darkPointInRange (e : CurvePoint) : Bool := tqInRange e.x && decide (1 ≤ e.y ∧ e.y ≤ 65535)

/-- R42. -/
def heaterPointInRange (e : CurvePoint) : Bool := tqInRange e.x && decide (0 ≤ e.y ∧ e.y ≤ 256)

/-- R42. -/
def adcPointInRange (e : CurvePoint) : Bool := decide (0 ≤ e.x ∧ e.x ≤ 1023) && tqInRange e.y

def CurvePoint.less (p e : CurvePoint) : Bool := decide (p.x < e.x)

/-- R25: a line number, and for a HEATER source a min_pulse of 0. -/
def LineEntry.inRange (e : LineEntry) : Bool :=
  decide (e.line ≤ 5) && match e.use with
    | .input _ debounce => decide (debounce ≤ 65535)
    | .output source minPulse => decide (minPulse ≤ 65535) && (decide (source ≠ .heater) || decide (minPulse = 0))

/-- R25: two entries for one line, or two EXP_FEEDBACK or two TRIGGER_IN lines. -/
def LineEntry.clash (p e : LineEntry) : Bool :=
  decide (p.line = e.line) || match p.use, e.use with
    | .input .expFeedback _, .input .expFeedback _ => true
    | .input .triggerIn _, .input .triggerIn _ => true
    | _, _ => false

/-- A register address fits its width (R154, R156, R158). -/
def RegAddr.fits (r : RegAddr) : Bool := decide (r.addr ≤ if r.wide then 65535 else 255)

/-- R156. -/
def ScriptEntry.inRange (e : ScriptEntry) : Bool :=
  decide (e.device ≤ 127) && e.reg.fits && decide (1 ≤ e.data.length ∧ e.data.length ≤ 8)

/-- One entry of a packet, checked by its table's rule against the table as it stands. -/
def appendEntry (n : TableName) (b : List Byte) (t : Tables) : Except Status Tables :=
  match n with
  | .plan => (appendTo n.capacity t.plan (readPlanStep b) PlanStep.inRange noCheck).map fun x => { t with plan := x }
  | .defects =>
    (appendTo n.capacity t.defects (readDefect b) Defect.inRange (ordered Defect.less)).map fun x => { t with defects := x }
  | .horizon => (appendTo n.capacity t.horizon (readVertex b) Vertex.inRange vertexOrder).map fun x => { t with horizon := x }
  | .regions =>
    (appendTo n.capacity t.regions (readRegionEntry b) RegionEntry.inRange
      (distinct fun p e => decide (p.region = e.region))).map fun x => { t with regions := x }
  | .darkModel =>
    (appendTo n.capacity t.darkModel (readTqPoint b) darkPointInRange (ordered CurvePoint.less)).map
      fun x => { t with darkModel := x }
  | .lines =>
    (appendTo n.capacity t.lines (readLineEntry b) LineEntry.inRange (distinct LineEntry.clash)).map
      fun x => { t with lines := x }
  | .heaterCurve =>
    (appendTo n.capacity t.heaterCurve (readTqPoint b) heaterPointInRange (ordered CurvePoint.less)).map
      fun x => { t with heaterCurve := x }
  | .adcCurve0 =>
    (appendTo n.capacity t.adcCurve0 (readCodePoint b) adcPointInRange (ordered CurvePoint.less)).map
      fun x => { t with adcCurve0 := x }
  | .adcCurve1 =>
    (appendTo n.capacity t.adcCurve1 (readCodePoint b) adcPointInRange (ordered CurvePoint.less)).map
      fun x => { t with adcCurve1 := x }
  | .bridgeAllow =>
    (appendTo n.capacity t.bridgeAllow (readAllow b) (fun a => decide (a ≤ 127)) (distinct fun p e => decide (p = e))).map
      fun x => { t with bridgeAllow := x }
  | .bridgeScript =>
    (appendTo n.capacity t.bridgeScript (readScriptEntry b) ScriptEntry.inRange noCheck).map
      fun x => { t with bridgeScript := x }

/-- What an append leaves and answers: the failing position is 0 when none fails. -/
structure AppendResult where
  status : Status
  position : Nat
  appended : Nat
  tables : Tables

/-- The entries in packet order, counted from 1; the first that fails ends the append (R180). -/
def appendEntries (n : TableName) : List (List Byte) → Nat → Tables → AppendResult
  | [], done, t => { status := .ok, position := 0, appended := done, tables := t }
  | b :: rest, done, t =>
    match appendEntry n b t with
    | .ok t' => appendEntries n rest (done + 1) t'
    | .error status => { status := status, position := done + 1, appended := done, tables := t }

/-! ### The lines as LINES opens and closes (R26, R30) -/

/-- A line as LINES opens: it stops driving, its timers are cancelled, USER is inactive, and the present pin level is accepted
with no edge and no report. -/
def releaseLine (x : LineState) : LineState :=
  { x with user := false, driven := false, minTimer := none, accepted := x.outside, debounceTimer := none }

def releaseLines (s : State) : State := { s with lines := s.lines.map fun _ x => releaseLine x }

/-- The listed lines take their setup at TABLE_CLOSE. -/
def setUpLines (s : State) : State :=
  { s with lines := s.lines.map fun l x => if lineListed s l then restartLine s l x else x }

/-! ### The requests -/

/-- TABLE_OPEN and TABLE_CLOSE answer with the state and the length (11.3). -/
def tableAnswer (n : TableName) (t : Tables) : List Byte := byteOf (t.stateOf n).code :: bytes2 (t.lengthOf n)

/-- R179. -/
def openTable (r : Request) (s : State) : State :=
  match TableName.ofCode (read1 r.payload 0) with
  | none => answer r .badArg [] s
  | some n =>
    if n.takeFixed && !s.seq.takeState.unfixed then answer r .badState [] s
    else
      let t := { s with tables := s.tables.opened n }
      answer r .ok (tableAnswer n t.tables) (if n = .lines then releaseLines t else t)

def execTableOpen (s : State) : Out := takeRequest (isKind 1) (fixedLength 1 openTable) s

/-- R180: a payload too short for its name and count is BAD_LENGTH at once (R176). -/
def appendTable (r : Request) (s : State) : State :=
  if r.payload.length < 2 then answer r .badLength [] s
  else match TableName.ofCode (read1 r.payload 0) with
    | none => answer r .badArg [] s
    | some n =>
      let count := read1 r.payload 1
      if count < 1 ∨ 15 < count then answer r .badArg [] s
      else match splitEntries n count (r.payload.drop 2) with
        | none => answer r .badLength [] s
        | some entries =>
          if s.tables.stateOf n ≠ .loading then answer r .tableNotOpen [] s
          else
            let a := appendEntries n entries 0 s.tables
            answer r a.status (byteOf a.position :: byteOf a.appended :: bytes2 (a.tables.lengthOf n))
              { s with tables := a.tables }

def execTableAppend (s : State) : Out := takeRequest (isKind 2) appendTable s

/-- R181. -/
def closeTable (r : Request) (s : State) : State :=
  match TableName.ofCode (read1 r.payload 0) with
  | none => answer r .badArg [] s
  | some n =>
    if s.tables.stateOf n ≠ .loading then answer r .tableNotOpen [] s
    else
      let t := { s with tables := s.tables.closed n }
      answer r .ok (tableAnswer n t.tables) (if n = .lines then setUpLines t else t)

def execTableClose (s : State) : Out := takeRequest (isKind 3) (fixedLength 1 closeTable) s

/-- R182. -/
def readTable (r : Request) (s : State) : State :=
  match TableName.ofCode (read1 r.payload 0) with
  | none => answer r .badArg [] s
  | some n =>
    let first := read2 r.payload 1
    let count := read1 r.payload 3
    if count < 1 ∨ 15 < count ∨ s.tables.lengthOf n < first then answer r .badArg [] s
    else
      let entries := ((s.tables.entryBytes n).drop first).take count
      answer r .ok (tableAnswer n s.tables ++ bytes2 first ++ entries.flatten) s

def execTableRead (s : State) : Out := takeRequest (isKind 4) (fixedLength 4 readTable) s

end Sys2Proof.Machine
end

