-- ==== Sys2Proof/Machine/Settings.lean ====
section
/-! DEFINITION. The parameters (10.4) and the requests that set and read them, the log, the status and the lines: PARAM_SET,
PARAM_GET, LOG_READ, STATUS_READ, LINE_LEVEL, LINE_READ. -/

namespace Sys2Proof.Machine

/-! ### Parameters -/

/-- The take-fixed parameters of the table of 10.4. -/
def Param.takeFixed : Param → Bool
  | .width => true | .height => true | .blackLevel => true | .satLevel => true | .gapCols => true | .segMin => true
  | .gapRows => true | .margin => true | .minExtent => true | _ => false

/-- The poll register value: the width in bits 16..23, the address in bits 0..15 (11.3). -/
def RegAddr.value (r : RegAddr) : Nat := r.widthCode * 65536 + r.addr

/-- The stored value of a parameter as PARAM_SET and PARAM_GET give it. -/
def Params.value (p : Params) : Param → Int
  | .width => p.width | .height => p.height | .blackLevel => p.blackLevel | .satLevel => p.satLevel | .gapCols => p.gapCols
  | .segMin => p.segMin | .gapRows => p.gapRows | .margin => p.margin | .minExtent => p.minExtent | .pedestal => p.pedestal
  | .readoutTimeout => p.readoutTimeout | .maxExtension => p.maxExtension | .forwardDropLevel => p.forwardDropLevel
  | .strayForward => boolCode p.strayForward | .autoPreview => p.autoPreview | .shutterSettle => p.shutterSettle
  | .tempSource => match p.tempSource with
    | .sensorRegister => 0
    | .adcTh1 => 1
  | .pollDevice => p.pollDevice | .pollRegister => p.pollRegister.value | .pollGain => p.pollGain
  | .pollOffset => p.pollOffset | .pollLead => p.pollLead | .bridgeSpeed => p.bridgeSpeed
  | .heaterEnable => boolCode p.heaterEnable | .reportMask => p.reportMask.toNat

/-- A numeric value replaced by the nearer limit of its range (R184). -/
def clampNat (lo hi : Nat) (v : Int) : Nat := (clampInt lo hi v).toNat

/-- A width or height, clamped and then lowered to the even number below when it is odd (R184). -/
def clampEven (lo hi : Nat) (v : Int) : Nat := clampNat lo hi v / 2 * 2

/-- The choice 0 or 1 of an off/on parameter. -/
def flagOf (v : Int) : Option Bool := if v = 0 then some false else if v = 1 then some true else none

/-- The poll register a value carries, its address clamped to its width; none where the width is neither 8 nor 16 (R184). The
value's bits 24..31 are no field and are not read (log 25). -/
def regAddrOf (v : Int) : Option RegAddr :=
  let word := (BitVec.ofInt 32 v).toNat
  (wideOfCode (word / 65536 % 256)).map fun wide =>
    { wide := wide, addr := if wide then word % 65536 else min 255 (word % 65536) }

/-- Store a value: none where it is outside a parameter's set of choices; otherwise clamped to the range (R184). -/
def Params.store (p : Params) (n : Param) (v : Int) : Option Params :=
  match n with
  | .width => some { p with width := clampEven 256 8192 v }
  | .height => some { p with height := clampEven 128 6144 v }
  | .blackLevel => some { p with blackLevel := clampNat 0 4095 v }
  | .satLevel => some { p with satLevel := clampNat 1 16383 v }
  | .gapCols => some { p with gapCols := clampNat 0 7 v }
  | .segMin => some { p with segMin := clampNat 1 64 v }
  | .gapRows => some { p with gapRows := clampNat 0 7 v }
  | .margin => some { p with margin := clampNat 0 16 v }
  | .minExtent => some { p with minExtent := clampNat 16 4096 v }
  | .pedestal => some { p with pedestal := clampNat 0 4095 v }
  | .readoutTimeout => some { p with readoutTimeout := clampNat 50 5000 v }
  | .maxExtension => some { p with maxExtension := clampNat 0 60000000 v }
  | .forwardDropLevel => some { p with forwardDropLevel := clampNat 16 48 v }
  | .strayForward => (flagOf v).map fun b => { p with strayForward := b }
  | .autoPreview => some { p with autoPreview := clampNat 0 255 v }
  | .shutterSettle => some { p with shutterSettle := clampNat 0 10000 v }
  | .tempSource => (flagOf v).map fun b => { p with tempSource := if b then .adcTh1 else .sensorRegister }
  | .pollDevice => some { p with pollDevice := clampNat 0 127 v }
  | .pollRegister => (regAddrOf v).map fun r => { p with pollRegister := r }
  | .pollGain => some { p with pollGain := clampInt (-32768) 32767 v }
  | .pollOffset => some { p with pollOffset := clampInt (-160) 340 v }
  | .pollLead => some { p with pollLead := clampNat 1 1000 v }
  | .bridgeSpeed => if v = 100 ∨ v = 400 then some { p with bridgeSpeed := v.toNat } else none
  | .heaterEnable => (flagOf v).map fun b => { p with heaterEnable := b }
  | .reportMask => some { p with reportMask := BitVec.ofInt 8 v }

/-- What a PARAM_SET does beside storing, whether or not the value changes: auto-preview sets its counter to 0 (R15), a poll
setting makes the last good temperature absent (R158), and a report_mask without TRAIL empties the Trail Queue (R128). -/
def paramEffects (n : Param) (s : State) : State :=
  match n with
  | .autoPreview => { s with seq.autoCount := 0 }
  | .pollDevice => { s with bridge.lastGood := none }
  | .pollRegister => { s with bridge.lastGood := none }
  | .pollGain => { s with bridge.lastGood := none }
  | .pollOffset => { s with bridge.lastGood := none }
  | .reportMask => if reportEnabled s .trail then s else { s with trails.queue := [] }
  | _ => s

/-- A reply of PARAM_SET and PARAM_GET: the parameter and its stored value (11.3). -/
def paramAnswer (code : Nat) (v : Int) : List Byte := byteOf code :: signed4 v

/-- R184. -/
def setParam (r : Request) (s : State) : State :=
  let code := read1 r.payload 0
  let v := readSigned4 r.payload 1
  match Param.ofCode code with
  | none => answer r .badArg [] s
  | some n =>
    if n.takeFixed && !s.seq.takeState.unfixed then answer r .badState [] s
    else match s.params.store n v with
      | none => answer r .badArg [] s
      | some p =>
        let status := if p.value n = v then Status.ok else .okClamped
        answer r status (paramAnswer code (p.value n)) (paramEffects n { s with params := p })

def execParamSet (s : State) : Out := takeRequest (isKind 5) (fixedLength 5 setParam) s

/-- R185. -/
def getParam (r : Request) (s : State) : State :=
  let code := read1 r.payload 0
  match Param.ofCode code with
  | none => answer r .badArg [] s
  | some n => answer r .ok (paramAnswer code (s.params.value n)) s

def execParamGet (s : State) : Out := takeRequest (isKind 6) (fixedLength 1 getParam) s

/-! ### The log and the status -/

/-- R186: closed records from the first index onward, with their number before them. -/
def readLog (r : Request) (s : State) : State :=
  let first := read2 r.payload 0
  let count := read1 r.payload 2
  if count < 1 ∨ 4 < count ∨ first < 1 ∨ s.log.closed.length < first then answer r .badArg [] s
  else
    let records := (s.log.closed.drop (first - 1)).take count
    answer r .ok (byteOf records.length :: records.flatMap SubframeRecord.bytes) s

def execLogRead (s : State) : Out := takeRequest (isKind 16) (fixedLength 3 readLog) s

/-- The 33 bytes of a STATUS_READ reply (11.3); the Outgoing Packet Queue level counts the reply itself (R187). -/
def statusBytes (s : State) : List Byte :=
  [byteOf s.seq.takeState.code, byteOf s.seq.phase.code, byteOf s.seq.step] ++ bytes2 (subframeIndex s)
  ++ [byteOf s.fifo.entries.length, byteOf s.port.requests.length, byteOf (s.out.queue.length + 1),
      byteOf s.trails.queue.length, byteOf s.bridge.relays.length]
  ++ ((List.range 11).filterMap TableName.ofCode).map (fun n => byteOf (s.tables.stateOf n).code)
  ++ [byteOf s.bridge.state.code] ++ tempBytes (sensorTemperature s) ++ tempBytes s.temps.th0 ++ bytes2 s.heater.duty
  ++ [pinByte s] ++ bytes2 s.link.strayCount ++ [byteOf (boolCode s.link.locked), byteOf (boolCode s.port.lostReports)]

/-- R187. -/
def readStatus (r : Request) (s : State) : State := answer r .ok (statusBytes s) s

def execStatusRead (s : State) : Out := takeRequest (isKind 17) (fixedLength 0 readStatus) s

/-! ### The lines -/

/-- The line of a payload byte. -/
def lineOf (n : Nat) : Option LineNo := if h : n < 6 then some ⟨n, h⟩ else none

/-- The line is an OUTPUT with source USER now (R30). -/
def isUserLine (s : State) (l : LineNo) : Bool :=
  match (lineSetup s l).use with
  | .output .user _ => true
  | _ => false

/-- R30. -/
def setLineLevel (r : Request) (s : State) : State :=
  match lineOf (read1 r.payload 0), readFlag r.payload 1 with
  | some l, some level =>
    if isUserLine s l then
      answer r .ok [] { s with lines := s.lines.set l { s.lines.get l with user := level } }
    else answer r .badArg [] s
  | _, _ => answer r .badArg [] s

def execLineLevel (s : State) : Out := takeRequest (isKind 21) (fixedLength 2 setLineLevel) s

/-- A line in a LINE_READ reply: direction, source or function, flags (11.3). The last flag is the minimum-pulse timer of an
OUTPUT, and a pin level differing from the accepted one for an INPUT (R34). -/
def lineReadBytes (s : State) (l : LineNo) : List Byte :=
  let x := s.lines.get l
  let setup := lineSetup s l
  match setup.use with
  | .input function _ =>
    [0#8, byteOf function.code,
      packBits setup.invert (pinLevel s l) (logicalLevel s l) (decide (x.outside ≠ x.accepted))]
  | .output source _ =>
    [1#8, byteOf source.code, packBits setup.invert (pinLevel s l) (logicalLevel s l) x.minTimer.isSome]

/-- R34. -/
def readLines (r : Request) (s : State) : State :=
  answer r .ok ([0, 1, 2, 3, 4, 5].flatMap (lineReadBytes s)) s

def execLineRead (s : State) : Out := takeRequest (isKind 22) (fixedLength 0 readLines) s

end Sys2Proof.Machine
end

