-- ==== Sys2Proof/Machine/TakeCommands.lean ====
section
/-! DEFINITION. The take commands of 1.4 (R4, R5, R17 to R22). -/

namespace Sys2Proof.Machine

/-! ### TAKE_START (R4, R5) -/

/-- The index of the first entry that p holds of, counted from 0. -/
def firstIndex {α : Type} (p : α → Bool) : List α → Option Nat
  | [] => none
  | a :: rest => if p a then some 0 else (firstIndex p rest).map (· + 1)

/-- The take-fixed tables in the order of check 1. -/
def startTables : List TableName := [.plan, .defects, .horizon, .darkModel, .regions, .lines]

/-- The index of the first DARK step that follows a LIGHT one. -/
def darkAfterLight : Bool → List PlanStep → Option Nat
  | _, [] => none
  | seen, st :: rest =>
    if seen && decide (st.kind = .dark) then some 0
    else (darkAfterLight (seen || decide (st.kind = .light)) rest).map (· + 1)

def totalCount (steps : List PlanStep) : Nat := (steps.map PlanStep.count).sum

def darkCount (steps : List PlanStep) : Nat := totalCount (steps.filter fun st => decide (st.kind = .dark))

/-- The reasons of PLAN_INVALID, TABLE_LOADING 0 to NO_TRIGGER_LINE 6, with a detail of two bytes (11.3). -/
def planInvalid (reason detail : Nat) : Status × List Byte := (.planInvalid, byteOf reason :: bytes2 detail)

/-- The checks of R4 in their order; the first that fails gives the status and the payload. -/
def startRefusal (t : Tables) (p : Params) : Option (Status × List Byte) :=
  let steps := t.plan.seen
  match startTables.find? (fun n => decide (t.stateOf n = .loading)) with
  | some n => some (planInvalid 0 n.code)
  | none =>
    if steps.isEmpty then some (planInvalid 1 0)
    else match darkAfterLight false steps with
      | some i => some (planInvalid 2 i)
      | none =>
        if steps.all (fun st => decide (st.kind = .dark)) then some (planInvalid 3 0)
        else if 4096 < totalCount steps then some (planInvalid 4 (totalCount steps))
        else if 255 < darkCount steps then some (planInvalid 5 (darkCount steps))
        else match firstIndex (fun st : PlanStep => decide (st.cadence = .external)) steps with
          | some i =>
            if hasFunction .triggerIn t.lines.seen then profileRefusal t p else some (planInvalid 6 i)
          | none => profileRefusal t p
where
  /-- Check 8: a vertex outside the geometry. -/
  profileRefusal (t : Tables) (p : Params) : Option (Status × List Byte) :=
    (firstIndex (fun v => decide (p.width ≤ v.column) || decide (p.height < v.row)) t.horizon.seen).map
      fun i => (.profileGeometry, 0#8 :: bytes2 i)

/-- The policy REGIONS gives a region, or the default one (R91). -/
def policyFor (entries : List RegionEntry) (region : Region) : Policy :=
  match entries.find? fun e => decide (e.region = region) with
  | some e => e.policy
  | none => Policy.default

/-- The frame settings recorded at the acceptance (R183). -/
def recordSettings (t : Tables) (p : Params) : TakeSettings :=
  { width := p.width, height := p.height, vertices := t.horizon.seen, sky := policyFor t.regions.seen .sky,
    ground := policyFor t.regions.seen .ground, margin := p.margin }

def ignoredDefects (t : Tables) (p : Params) : Nat := t.defects.seen.countP (defectIgnored p.width p.height)

/-- The payload of the OK reply: subframes, darks, ignored defects (11.3). -/
def startPayload (s : State) : List Byte :=
  bytes2 (totalCount s.tables.plan.seen) ++ [byteOf (darkCount s.tables.plan.seen)]
    ++ bytes2 (ignoredDefects s.tables s.params)

/-- The acceptance: the log, the flags and the position (R5), the dark summaries and S (R66), the veto lists and the Trail
Queue (R113), the recorded settings (R183), and the CLEARING pass's hold of the plane (R105). -/
def startTake (s : State) : State :=
  let scale : Calibration :=
    { s.cal with darkCount := 0, darkExposure := 0, darkTempTotal := 0, darkTempCount := 0, scale := none }
  enterTake .clearing .none { s with
    seq.step := 0, seq.count := 0, seq.notStarted := false, seq.pausePending := false, seq.stopPending := false,
    seq.finishPending := false, seq.abortPending := false, seq.closeAbandoned := false, seq.autoCount := 0,
    seq.planeValid := false,
    log := SubframeLog.empty,
    cal := scale,
    trails.current := VetoList.absent, trails.previous := VetoList.absent, trails.queue := [],
    port.lostReports := s.port.lostReports || !s.trails.queue.isEmpty,
    settings := recordSettings s.tables s.params,
    arb.holder := .clearing }

/-- R4, R5. -/
def takeStart (r : Request) (s : State) : State :=
  if !s.seq.takeState.unfixed then answer r .badState [] s
  else if s.render.state ≠ .idle then answer r .busy [] s
  else match startRefusal s.tables s.params with
    | some (status, payload) => answer r status payload s
    | none => startTake (answer r .ok (startPayload s) s)

def execTakeStart (s : State) : Out := takeRequest (isKind 7) (fixedLength 0 takeStart) s

/-! ### TAKE_PAUSE and TAKE_RESUME (R17, R18) -/

/-- In RUNNING a command acts at once in STEP_START and WAIT, and becomes pending in the other phases. -/
def Phase.actsAtOnce : Phase → Bool
  | .stepStart => true | .wait => true | _ => false

/-- The reply of TAKE_PAUSE. -/
def pauseStatus (s : State) : Status :=
  match s.seq.takeState with
  | .running => if s.seq.phase.actsAtOnce then .ok else .accepted
  | _ => .badState

/-- TAKE_PAUSE and a PAUSE_IN edge (R17): in STEP_START the step is marked as not started. -/
def pauseTake (s : State) : State :=
  match s.seq.takeState with
  | .running =>
    match s.seq.phase with
    | .stepStart => enterTake .paused .none { cancelWork s with seq.notStarted := true }
    | .wait => enterTake .paused .none (cancelWork s)
    | _ => { s with seq.pausePending := true }
  | _ => s

def takePause (r : Request) (s : State) : State := pauseTake (answer r (pauseStatus s) [] s)

def execTakePause (s : State) : Out := takeRequest (isKind 8) (fixedLength 0 takePause) s

/-- Back to RUNNING: a step not started begins whole, any other goes to WAIT with its full gap (R18). -/
def resumeTake (s : State) : State :=
  if s.seq.notStarted then enterStepStart (resumeSettles s) (enterTake .running .stepStart s)
  else enterWait (enterTake .running .wait s)

/-- R18. -/
def takeResume (r : Request) (s : State) : State :=
  if s.seq.takeState = .paused then resumeTake (answer r .ok [] s) else answer r .badState [] s

def execTakeResume (s : State) : Out := takeRequest (isKind 9) (fixedLength 0 takeResume) s

/-! ### TAKE_STOP and TAKE_FINISH (R19, R20) -/

/-- The reply of TAKE_STOP. -/
def stopStatus (s : State) : Status :=
  match s.seq.takeState with
  | .running => if s.seq.phase.actsAtOnce then .ok else .accepted
  | .paused => .ok
  | _ => .badState

/-- TAKE_STOP and a STOP_IN edge (R19). -/
def stopTake (s : State) : State :=
  match s.seq.takeState with
  | .running =>
    if s.seq.phase.actsAtOnce then enterComplete (cancelWork s) else { s with seq.stopPending := true }
  | .paused => enterComplete s
  | _ => s

def takeStop (r : Request) (s : State) : State := stopTake (answer r (stopStatus s) [] s)

def execTakeStop (s : State) : Out := takeRequest (isKind 10) (fixedLength 0 takeStop) s

/-- The reply of TAKE_FINISH. -/
def finishStatus (s : State) : Status :=
  match s.seq.takeState with
  | .running => if s.seq.phase.actsAtOnce then .ok else .accepted
  | .paused => .ok
  | .complete => .ok
  | _ => .badState

/-- R20: the take reaches COMPLETE and then FINISHING, or the stop and finish flags are set. -/
def finishTake (s : State) : State :=
  match s.seq.takeState with
  | .running =>
    if s.seq.phase.actsAtOnce then enterFinishing (enterComplete (cancelWork s))
    else { s with seq.stopPending := true, seq.finishPending := true }
  | .paused => enterFinishing (enterComplete s)
  | .complete => enterFinishing s
  | _ => s

def takeFinish (r : Request) (s : State) : State := finishTake (answer r (finishStatus s) [] s)

def execTakeFinish (s : State) : Out := takeRequest (isKind 11) (fixedLength 0 takeFinish) s

/-! ### TAKE_ABORT and TAKE_CLEAR (R21, R22) -/

/-- The reply of TAKE_ABORT. -/
def abortStatus (s : State) : Status :=
  match s.seq.takeState with
  | .noTake => .badState
  | .running => if s.seq.phase.actsAtOnce then .ok else .accepted
  | _ => .ok

/-- EXPOSE or HOLD cut by an abort (R21, R38, R107): EXPOSE is released, the exposure is decided with the time it was asserted,
the render that holds the plane is abandoned, and ingest holds the plane for the close. The close stands in SETTLE, with every
row UNSEEN (R54; log 15). -/
def cutExposure (s : State) : State :=
  let lasted := s.now - s.seq.exposeStart
  let released := decideExposure lasted (releaseExposure s)
  let closing := abandonRender .abort { released with
    seq.phase := .settle, seq.lineTime := lasted, seq.abortPending := true, seq.closeAbandoned := true,
    link.rowMap := [], arb.waiting := .none }
  openDetector { closing with arb.holder := .ingest }

/-- R21, by where the take stands. -/
def abortTake (s : State) : State :=
  match s.seq.takeState with
  | .noTake => s
  | .aborted => s
  | .clearing => enterAborted (stopClearing s)
  | .running =>
    match s.seq.phase with
    | .stepStart => enterAborted (cancelWork s)
    | .wait => enterAborted (cancelWork s)
    | .expose => cutExposure s
    | .hold => cutExposure s
    | .readout => { endReadout s with seq.abortPending := true, seq.closeAbandoned := true }
    | _ => { s with seq.abortPending := true }
  | _ => enterAborted s

def takeAbort (r : Request) (s : State) : State := abortTake (answer r (abortStatus s) [] s)

def execTakeAbort (s : State) : Out := takeRequest (isKind 12) (fixedLength 0 takeAbort) s

/-- The take states in which TAKE_CLEAR is taken. -/
def TakeState.clearable : TakeState → Bool
  | .complete => true | .finished => true | .aborted => true | _ => false

/-- The log, the flags and the position, and NO_TAKE (R22). -/
def clearTake (s : State) : State :=
  enterTake .noTake .none { s with
    log := SubframeLog.empty, seq.planeValid := false, seq.pausePending := false, seq.stopPending := false,
    seq.finishPending := false, seq.abortPending := false, seq.step := 0, seq.count := 0 }

/-- R22. -/
def takeClear (r : Request) (s : State) : State :=
  if !s.seq.takeState.clearable then answer r .badState [] s
  else if s.render.state ≠ .idle then answer r .busy [] s
  else clearTake (answer r .ok [] s)

def execTakeClear (s : State) : Out := takeRequest (isKind 13) (fixedLength 0 takeClear) s

end Sys2Proof.Machine
end

