-- ==== Sys2Proof/Machine/Render.lean ====
section
/-! DEFINITION. Render requests (R131, R132) and the forming of one row (R136 to R140). -/

namespace Sys2Proof.Machine

/-! ### Requests -/

/-- A request taken by R134 is answered ACCEPTED with the frame id it takes. -/
def acceptRender (kind : RenderKind) (r : Request) (s : State) : State :=
  takeRender kind (answer r .accepted (bytes2 s.render.nextId) s)

/-- R131. -/
def renderPreview (r : Request) (s : State) : State :=
  match s.seq.takeState with
  | .aborted => answer r .invalidPlane [] s
  | .noTake => answer r .badState [] s
  | .clearing => answer r .badState [] s
  | .finishing => answer r .badState [] s
  | _ => if s.render.state = .idle then acceptRender .preview r s else answer r .busy [] s

def execRenderPreview (s : State) : Out := takeRequest (isKind 14) (fixedLength 0 renderPreview) s

/-- R132. -/
def renderRepeat (r : Request) (s : State) : State :=
  match s.seq.takeState with
  | .aborted => answer r .invalidPlane [] s
  | .finished => if s.render.state = .idle then acceptRender .final r s else answer r .busy [] s
  | _ => answer r .badState [] s

def execRenderRepeat (s : State) : Out := takeRequest (isKind 15) (fixedLength 0 renderRepeat) s

/-! ### One output value -/

/-- Every output formed by R136 and R137 is clamped to 0..65535. -/
def outputClamp (x : Int) : Nat := (clampInt 0 65535 x).toNat

/-- R136; none is a hole. -/
def meanOutput (pedestal : Nat) (px : Pixel) : Option Nat :=
  if 1 ≤ px.n then some (outputClamp (pedestal + roundDiv px.m16 4))
  else if 0 < px.sat then some 65535
  else none

/-- The effective value: what the peak would be if the pending value were settled now, without writing it (R137). -/
def effectiveValue (vetoed : Nat → Bool) (px : Pixel) : Option Int := (commitPending vetoed px).peak

/-- R137; none is a hole. -/
def peakOutput (pedestal : Nat) (vetoed : Nat → Bool) (px : Pixel) : Option Nat :=
  (effectiveValue vetoed px).map fun v => outputClamp (pedestal + 4 * v)

/-- The output a pixel's record gives by its region's mode; an EXCLUDE region gives Bo (R136 to R138). -/
def ownOutput (pedestal : Nat) (p : Policy) (vetoed : Nat → Bool) (px : Pixel) : Option Nat :=
  match p.mode with
  | .exclude => some pedestal
  | .meanReject => meanOutput pedestal px
  | .peak => peakOutput pedestal vetoed px
  | .peakFade => peakOutput pedestal vetoed px

/-! ### One row -/

/-- A row as it is formed: the outputs two columns and one column to the left, Bo before the row's start, the outputs so far,
last first, and the two counts. -/
structure RowOutput where
  back2 : Nat
  back1 : Nat
  values : List Nat
  holes : Nat
  fullScale : Nat
  deriving DecidableEq, Repr

def RowOutput.start (pedestal : Nat) : RowOutput :=
  { back2 := pedestal, back1 := pedestal, values := [], holes := 0, fullScale := 0 }

/-- One more column: a hole takes the output two columns to the left and is counted (R139); an output of R136 or R137 at 65535
is counted as full scale (R138). -/
def RowOutput.add (w : RowOutput) (own : Option Nat) (counted : Bool) : RowOutput :=
  let value := own.getD w.back2
  { back2 := w.back1, back1 := value, values := value :: w.values,
    holes := w.holes + boolCode own.isNone,
    fullScale := w.fullScale + boolCode (counted && decide (own = some 65535)) }

/-- The column of a row, from its record. -/
def formColumn (s : State) (row : Nat) (w : RowOutput) (column : Nat) : RowOutput :=
  let p := pixelPolicy s.settings row column
  let px := readPixel s (row * s.settings.width + column)
  w.add (ownOutput s.render.pedestal p (isVetoed s.settings s.trails p row column) px) (decide (p.mode ≠ .exclude))

/-- A row, in column order (R140). -/
def formRow (s : State) (row : Nat) : RowOutput :=
  (List.range s.settings.width).foldl (formColumn s row) (RowOutput.start s.render.pedestal)

/-- The row at the cursor is read, and its LINE handed to the Output Scheduler; there is at most one (R140). -/
def handRow (s : State) : State :=
  let w := formRow s s.render.row
  { s with
    render.holes := s.render.holes + w.holes,
    render.fullScale := s.render.fullScale + w.fullScale,
    render.rowHanded := true,
    out.renderQueue := s.out.renderQueue ++ [.line s.render.kind s.render.row w.values.reverse] }

def execRenderRowRead (s : State) : Out :=
  if s.render.state = .active ∧ s.render.rowHanded = false ∧ s.render.row < s.settings.height then .next (endEvent (handRow s))
  else .next s

end Sys2Proof.Machine
end

