-- ==== Sys2Proof/Machine/BridgeCommands.lean ====
section
/-! DEFINITION. The requests and events of the Sensor Bridge: BRIDGE_WRITE, BRIDGE_READ, BRIDGE_RECOVER, the poll's claim and
the ends of transactions. -/

namespace Sys2Proof.Machine

/-! ### Relays (R154) -/

/-- Device address 0..127 and a register address that fits its width, 8 or 16 (R154 step 1). -/
def relayAddress (payload : List Byte) : Option (Nat × RegAddr) :=
  match wideOfCode (read1 payload 1) with
  | none => none
  | some wide =>
    let reg : RegAddr := { wide := wide, addr := read2 payload 2 }
    if read1 payload 0 ≤ 127 ∧ reg.fits = true then some (read1 payload 0, reg) else none

/-- A data count or byte count lies in 1..16 (R154 step 1). -/
def relayCount (payload : List Byte) : Bool := decide (1 ≤ read1 payload 4 ∧ read1 payload 4 ≤ 16)

/-- Steps 2 to 5 of R154: BLOCKED, BUS_STUCK, BUSY, or the relay waits and the bus is arbitrated. -/
def presentRelay (r : Request) (device : Nat) (reg : RegAddr) (access : BusAccess) (s : State) : State :=
  if !deviceAllowed s device then answer r .blocked [] s
  else if s.bridge.state = .fault then answer r .busStuck [] s
  else if Config.relayCapacity ≤ s.bridge.relays.length then answer r .busy [] s
  else
    let relay : Relay := { tag := r.tag, device := device, reg := reg, access := access, state := .waiting }
    tryEndStepStart (arbitrate { s with bridge.relays := s.bridge.relays ++ [relay] })

/-- BRIDGE_WRITE: the fields are judged before the length's agreement with the data count (R154, R176). -/
def bridgeWrite (r : Request) (s : State) : State :=
  if r.payload.length < 5 then answer r .badLength [] s
  else match relayAddress r.payload with
    | none => answer r .badArg [] s
    | some (device, reg) =>
      if !relayCount r.payload then answer r .badArg [] s
      else if r.payload.length ≠ 5 + read1 r.payload 4 then answer r .badLength [] s
      else presentRelay r device reg (.write (r.payload.drop 5)) s

def execBridgeWrite (s : State) : Out := takeRequest (isKind 18) bridgeWrite s

/-- BRIDGE_READ. -/
def bridgeRead (r : Request) (s : State) : State :=
  match relayAddress r.payload with
  | none => answer r .badArg [] s
  | some (device, reg) =>
    if !relayCount r.payload then answer r .badArg [] s
    else presentRelay r device reg (.read (read1 r.payload 4)) s

def execBridgeRead (s : State) : Out := takeRequest (isKind 19) (fixedLength 5 bridgeRead) s

/-! ### Recovery (R152) -/

/-- A pulse train is asked for: it begins at once at the present speed, or follows a train that still runs, whose own request was
lost with Link Out lock (R152, R170; log 31). -/
def askTrain (s : State) : State :=
  match s.bridge.train with
  | none => { s with bridge.train := some s.params.bridgeSpeed }
  | some _ => { s with bridge.trainsWaiting := s.bridge.trainsWaiting + 1 }

/-- In FAULT a pulse train of its own is sent and the reply waits for its end; otherwise BAD_STATE. -/
def bridgeRecover (r : Request) (s : State) : State :=
  if s.bridge.state = .fault then askTrain { s with port.waiting := some (.train r.tag r.kind) }
  else answer r .badState [] s

def execBridgeRecover (s : State) : Out := takeRequest (isKind 20) (fixedLength 0 bridgeRecover) s

/-- The reply of a pulse train: OK with FREED, or BUS_STUCK (11.3). -/
def recoverReply (tag kind : Byte) (lineHigh : Bool) : QueuedPacket :=
  if lineHigh then .reply tag kind .ok [0#8] else .reply tag kind .busStuck []

/-- The reply is queued, or waits for an entry under the reply-waiting mark (R175). -/
def answerTrain (lineHigh : Bool) (s : State) : State :=
  match s.port.waiting with
  | some (.train tag kind) =>
    if outQueueHasRoom s then joinReply (recoverReply tag kind lineHigh) { s with port.waiting := none }
    else { s with port.waiting := some (.due (recoverReply tag kind lineHigh)) }
  | _ => s

/-- The pulse train and the stop have been sent. The next train begins, the bridge still in FAULT (log 31); or the line, as it is
found after the last one, decides the bridge's state and the reply. -/
def endTrain (speed : Nat) (lineHigh : Bool) (s : State) : State :=
  let sent := sendRun (recoveryRun speed) s
  match s.bridge.trainsWaiting with
  | 0 => answerTrain lineHigh { sent with bridge.train := none, bridge.state := if lineHigh then .idle else .fault }
  | left + 1 => { sent with bridge.train := some s.params.bridgeSpeed, bridge.trainsWaiting := left }

/-- The end of the pulse train that runs (R152). -/
def execBridgeRecoverDone (lineHigh : Bool) (s : State) : Out :=
  match s.bridge.train with
  | none => .next s
  | some speed => .next (endEvent (endTrain speed lineHigh s))

/-! ### The poll and the ends of transactions -/

/-- R159: the claim is made poll_lead before the exposure timer's expiry. -/
def execPollClaim (s : State) : Out :=
  match s.seq.pollAt with
  | none => .next s
  | some t => .next (endEvent (claimPoll (advanceTo t s)))

/-- R148: a transaction ends with an outcome it can have. -/
def execBusTransactionEnd (o : BusEnd) (s : State) : Out :=
  match s.bridge.inFlight with
  | none => .next s
  | some f =>
    if outcomePossible f.transaction o then
      .next (endEvent (tryEndStepStart (endTransaction (busOutcomeOf o) (busDataOf o) (endedRun f o) f s)))
    else .next s

/-- R148: the clock line was held low for more than 25,000 µs, at any point of the transaction. -/
def execBusClockTimeout (s : State) : Out :=
  match s.bridge.inFlight with
  | none => .next s
  | some f =>
    let cut := { s with freeSeq := s.freeSeq + 1 }
    .next (endEvent (tryEndStepStart (endTransaction .timeout [] (timedOutRun s.freeSeq f) f cut)))

end Sys2Proof.Machine
end

