-- ==== Sys2Proof/Machine/LinkIn.lean ====
section
/-! DEFINITION. The Link Receiver's packets (3.1 to 3.4): lock, FRAME_START, LINE, FRAME_END, and discarded packets. -/

namespace Sys2Proof.Machine

/-! ### The packets as bytes (R45, R191, R192) -/

/-- A two-byte field, high byte first. -/
def halfAt (p : List Byte) (i : Nat) : Half := BitVec.ofNat 16 (read2 p i)

/-- Two-byte fields one after another. -/
def halvesOf : List Byte → List Half
  | high :: low :: rest => halfAt [high, low] 0 :: halvesOf rest
  | _ => []

/-- The command that a framed Link In packet is, by its type byte and its layout (11.2). A type that is none of the three, and a
FRAME_START or FRAME_END of a wrong length, is discarded (R45). A LINE of any length is read as its header, as many words as its
pixel count gives and the CRC behind them; one that ends before that has no CRC (log 39). -/
def linkInCommand (p : List Byte) : Instr :=
  match read1 p 0 with
  | 0x01 => if p.length = 3 then .frameStart (halfAt p 1) else .linkInPacketDiscard
  | 0x02 =>
    let words := 2 * read2 p 3
    .line (halfAt p 1) (halvesOf ((p.drop 5).take words)) (if 7 + words ≤ p.length then some (halfAt p (5 + words)) else none)
  | 0x03 => if p.length = 3 then .frameEnd (halfAt p 1) else .linkInPacketDiscard
  | _ => .linkInPacketDiscard

/-! ### Frames (R48, R50, R51) -/

/-- A stray frame begins and is counted; it is forwarded when stray_forward is on (R51). -/
def beginStray (counter : Half) (s : State) : State :=
  let begun := { s with link.frame := .stray, link.strayCount := (s.link.strayCount + 1) % 65536, link.forwarding := .no }
  if s.params.strayForward then openForwarded counter begun else begun

/-- A light subframe's exposure is decided and its scale computed at its FRAME_START (R38, R76). -/
def lightFrameStart (s : State) : State :=
  computeScale (if s.meas.armed then decideExposure s.seq.lineTime s else s)

/-- The subframe frame begins (R48). -/
def beginSubframe (counter : Half) (r : Readout) (s : State) : State :=
  let begun := onRecord (fun q => { q with frameCounter := some counter })
    { s with link.frame := .subframe, link.lastRow := none, link.readout := some { r with seenFrame := true } }
  let lit := match r.kind with
    | .light => lightFrameStart begun
    | .dark => begun
  if r.forward then openForwarded counter lit else lit

/-- R48, by the readout and the frame state. -/
def takeFrameStart (counter : Half) (s : State) : State :=
  match s.link.readout with
  | none => beginStray counter (endFrame s)
  | some r =>
    if r.seenFrame then beginStray counter (endReadout s)
    else beginSubframe counter r (endFrame s)

/-- Packets are parsed while Link In is locked (R45). -/
def execFrameStart (counter : Half) (s : State) : Out :=
  if s.link.locked then .next (endEvent (takeFrameStart counter s)) else .next s

/-- R50: the line count does not decide which rows are lost. -/
def execFrameEnd (_lines : Half) (s : State) : Out :=
  if s.link.locked then
    match s.link.frame with
    | .subframe => .next (endEvent (endReadout s))
    | .stray => .next (endEvent (endFrame s))
    | .none => .next s
  else .next s

/-! ### Lines (R49, R51 to R53) -/

/-- width more samples of the open record are lost (R52, R57). -/
def loseRow (s : State) : State := onRecord (fun r => { r with lost := r.lost + s.settings.width }) s

/-- One more extra line (R49, R52). -/
def countExtra (s : State) : State := onRecord (fun r => { r with extraLines := r.extraLines + 1 }) s

/-- The row that comes next in order (3.3). -/
def nextRow (s : State) : Nat :=
  match s.link.lastRow with
  | some r => r + 1
  | none => 0

/-- A skipped row takes no entry (R53). -/
def skipRow (s : State) (row : Nat) : State := setRow row .lost (loseRow s)

/-- A row with its entry, or discarded at a full FIFO, where a GOOD row is then counted lost (R53). -/
def placeRow (row : Nat) (pixels : Option (List Nat)) (s : State) : State :=
  if fifoHasRoom s then pushEntry row pixels .subframe (setRow row .queued s)
  else
    let lost := setRow row .lost s
    match pixels with
    | some _ => loseRow lost
    | none => lost

/-- A LINE settles a row: the row is placed, it is the last accepted row, and row height - 1 ends the readout (R52, R53). -/
def settleRow (row : Nat) (pixels : Option (List Nat)) (s : State) : State :=
  let placed := { placeRow row pixels s with link.lastRow := some row }
  if row + 1 = s.settings.height then endReadout placed else placed

/-- A row lost by a bad CRC or by its pixel count: counted, and pushed as a lost-row marker (R52, R53). -/
def settleLost (row : Nat) (s : State) : State := settleRow row none (loseRow s)

/-- A LINE in the subframe frame, by the first case of R52 that applies. -/
def subframeLine (row : Nat) (words : List Half) (good : Bool) (s : State) : State :=
  if !good then settleLost (nextRow s) s
  else if row < nextRow s ∨ s.settings.height ≤ row then countExtra s
  else
    let skipped := (List.range' (nextRow s) (row - nextRow s)).foldl skipRow s
    if words.length ≠ s.settings.width then settleLost row skipped
    else settleRow row (some (words.map sampleOf)) skipped

/-- A LINE of a stray frame that is forwarded is pushed, with no check of row order; any other is discarded (R51). -/
def strayLine (row : Nat) (words : List Half) (good : Bool) (s : State) : State :=
  if good && decide (words.length = s.settings.width) && decide (s.link.forwarding ≠ .no) && fifoHasRoom s then
    pushEntry row (some (words.map sampleOf)) .stray s
  else s

/-- A LINE with no frame is counted extra while a readout is open (R49). -/
def looseLine (s : State) : State := if s.link.readout.isSome then countExtra s else s

/-- A LINE has a good CRC when the one received equals the one computed over its header and its pixels; a LINE that ends before its
CRC has a bad one (R46; log 39). What a bad LINE does depends on none of its fields. -/
def takeLine (row : Half) (words : List Half) (crc : Option Half) (s : State) : State :=
  let good := decide (crc = some (crc16 (lineBytes row words)))
  match s.link.frame with
  | .none => looseLine s
  | .stray => strayLine row.toNat words good s
  | .subframe => subframeLine row.toNat words good s

def execLine (row : Half) (words : List Half) (crc : Option Half) (s : State) : Out :=
  if s.link.locked then .next (endEvent (takeLine row words crc s)) else .next s

/-- A packet of another type, or a FRAME_START or FRAME_END of a wrong length, is discarded (R45). -/
def execLinkInPacketDiscard (s : State) : Out := .next s

/-! ### Lock (R47, R56) -/

def execLinkInLockGained (s : State) : Out := .next { s with link.locked := true }

/-- Any frame in progress ends, and so does an open readout, whether or not its frame has begun (R56). -/
def loseLinkIn (s : State) : State :=
  let ended := if s.link.readout.isSome then endReadout s else endFrame s
  { ended with link.locked := false }

def execLinkInLockLost (s : State) : Out :=
  if s.link.locked then .next (endEvent (loseLinkIn s)) else .next s

end Sys2Proof.Machine
end

