-- ==== Sys2Proof/Machine/LinkOut.lean ====
section
/-! DEFINITION. Flow control, Link Out lock and the ends of packets (9.3, 9.4, R164). -/

namespace Sys2Proof.Machine

/-! ### Flow control (R167, R193) -/

/-- Nothing arrives on the back channel while Link Out is unlocked (9.4). GO_OUT has the next packet chosen at once by R164. -/
def execHoldOut (s : State) : Out := if s.out.locked then .next (endEvent { s with out.held := true }) else .next s

def execGoOut (s : State) : Out := if s.out.locked then .next (endBoundary { s with out.held := false }) else .next s

/-- A control symbol that is none of the four is discarded without effect (R193). -/
def execControlSymbolUnknown (s : State) : Out := .next s

/-! ### Lock (R169 to R172) -/

def QueuedPacket.isReport : QueuedPacket → Bool
  | .report _ _ _ => true
  | .reply _ _ _ _ => false

/-- Steps 1, 2, 3 and 6 of R170: the packet is cut, the queues are emptied, and the hold, the raw-run count and a waiting flow
symbol are cleared. -/
def cutLink (s : State) : State :=
  let hadReport := s.out.queue.any QueuedPacket.isReport
  { s with
    out.locked := false, out.held := false, out.inProgress := none, out.rawRun := 0, out.queue := [],
    out.flowWaiting := none, out.sent := (s.out.inProgress.map LaneItem.cut).toList ++ s.out.sent,
    port.requests := [], port.holdReqSent := false, port.waiting := none,
    port.lostReports := s.port.lostReports || hadReport }

/-- R170: then forwarding is abandoned, and the render, with all render packets withdrawn. -/
def loseLinkOut (s : State) : State :=
  { abandonRender .linkDown (cutForwarding (cutLink s)) with out.renderQueue := [] }

def execLinkOutLockLoss (s : State) : Out := if s.out.locked then .next (endEvent (loseLinkOut s)) else .next s

/-- R172: the TAKE_STATE report is formed whatever report_mask says. The first lock after power-on or RESET_N (R169) counts as a
regain (log 41). A relay that the loss found waiting to queue its reply has had it due while Link Out was unlocked, its queue empty:
the reply is discarded and the relay leaves (R155, R171; log 42). -/
def regainLinkOut (s : State) : State :=
  let locked := { s with out.locked := true, bridge.relays := s.bridge.relays.filter fun q => !q.isAnswered }
  formReport .takeState (takeStatePayload locked) locked

def execLinkOutLockRegain (s : State) : Out := if s.out.locked then .next s else .next (endBoundary (regainLinkOut s))

/-! ### The end of a packet (R140, R141, R163, R164, R168) -/

/-- A LINE of the render in hand has been sent in full: the cursor moves on, or the render completes. -/
def endRenderLine (s : State) : State :=
  let sent := { s with render.linesSent := s.render.linesSent + 1, render.rowHanded := false }
  if s.settings.height ≤ s.render.row + 1 then completeRender sent else { sent with render.row := s.render.row + 1 }

/-- What the end of a packet does to its source. -/
def endPacket (p : LanePacket) (s : State) : State :=
  match p with
  | .rawLine frame entry _ _ => endRawLine frame entry s
  | .render (.line _ _ _) true => endRenderLine s
  | _ => s

/-- The packet in progress has been sent; a waiting flow symbol follows it, and the next packet is chosen by R164 (log 18). -/
def execLinkOutPacketEnd (s : State) : Out :=
  match s.out.inProgress with
  | none => .next s
  | some p =>
    .next (endBoundary (endPacket p (sendWaitingFlow { s with out.inProgress := none, out.sent := .sent p :: s.out.sent })))

end Sys2Proof.Machine
end

