-- ==== Sys2Proof/Machine/Timers.lean ====
section
/-! DEFINITION. The Sequencer's own events: the end of the CLEARING pass, its timers, ingest and the close (spec 01). The expiry
of a timer moves the clock to at least the time the timer ends (log 3); the expiry of a timer that does not run does not happen
(log 4). -/

namespace Sys2Proof.Machine

/-- R6, R87: every record of the geometry is cleared, the plane is free and valid, and step 0 starts. -/
def completeClearing (s : State) : State :=
  let kept := Memory.restrict (fun a => decide (s.settings.width * s.settings.height ≤ a)) s.plane
  let entered := enterTake .running .stepStart { s with plane := kept, arb.holder := .none, seq.planeValid := true }
  enterStepStart (shutterChanges entered) entered

def execClearingPassComplete (s : State) : Out :=
  if s.seq.takeState = .clearing ∧ s.arb.holder = .clearing then .next (endEvent (completeClearing s)) else .next s

/-- R7. -/
def execShutterSettleExpiry (s : State) : Out :=
  match s.seq.settleTimer with
  | none => .next s
  | some t => .next (endEvent (tryEndStepStart { advanceTo t s with seq.settleTimer := none }))

/-- R8. -/
def execGapTimerExpiry (s : State) : Out :=
  match s.seq.gapTimer with
  | none => .next s
  | some t => .next (endEvent (enterExpose { advanceTo t s with seq.gapTimer := none }))

/-- HOLD behind a render: EXPOSE stays asserted, and a max_extension of 0 expires at entry (R10, R11). -/
def enterHold (s : State) : State :=
  let held := { s with
    seq.phase := .hold, seq.holdStart := s.now, seq.extensionTimer := timerFor s s.params.maxExtension,
    arb.waiting := .ingest }
  if s.params.maxExtension = 0 then abandonRender .extensionLimit held else held

/-- The ingest claim (R10, R107). -/
def claimIngest (s : State) : State := if s.arb.holder = .none then grantIngest s else enterHold s

def execExposureTimerExpiry (s : State) : Out :=
  match s.seq.exposureTimer with
  | none => .next s
  | some t => .next (endEvent (claimIngest { advanceTo t s with seq.exposureTimer := none }))

/-- R11, R110: the render is abandoned, and its release grants the plane to the ingest. -/
def execExtensionTimerExpiry (s : State) : Out :=
  match s.seq.extensionTimer with
  | none => .next s
  | some t => .next (endEvent (abandonRender .extensionLimit { advanceTo t s with seq.extensionTimer := none }))

/-- R12, R55. -/
def execReadoutTimerExpiry (s : State) : Out :=
  match s.seq.readoutTimer with
  | none => .next s
  | some t => .next (endEvent (endReadout (advanceTo t s)))

/-- R59: ingest finishes one entry of the subframe it holds the plane for. -/
def execIngestEntry (s : State) : Out :=
  if s.arb.holder = .ingest then .next (endEvent (ingestNext s)) else .next s

/-- R13: the close completes its stages, finishing what ingest has left (log 13). -/
def execSettleEnd (s : State) : Out :=
  if s.seq.phase = .settle ∧ s.arb.holder = .ingest then .next (endEvent (settleClose s)) else .next s

end Sys2Proof.Machine
end

