-- ==== Sys2Proof/Machine/LineEvents.lean ====
section
/-! DEFINITION. The events of the Timing Line Unit, the thermistor converter and the heater (spec 02). -/

namespace Sys2Proof.Machine

/-! ### Outputs (R29) -/

def setLine (l : LineNo) (x : LineState) (s : State) : State := { s with lines := s.lines.set l x }

/-- The minimum-pulse timer of a line expires: it stops, and the line follows its source, which starts it again when the line
changes (R29). -/
def execMinPulseExpiry (l : LineNo) (s : State) : Out :=
  match (s.lines.get l).minTimer with
  | none => .next s
  | some t => .next (endEvent (setLine l { s.lines.get l with minTimer := none } (advanceTo t s)))

/-! ### Accepted edges (R31 to R33, R37) -/

/-- An EXP_FEEDBACK edge at its acceptance (R37). -/
def captureEdge (active : Bool) (s : State) : State :=
  if !s.meas.armed then s
  else match active, s.meas.startCapture, s.meas.endCapture with
    | true, none, _ => { s with meas.startCapture := some s.now }
    | false, some _, none => { s with meas.endCapture := some s.now }
    | _, _, _ => s

/-- A TRIGGER_IN active edge ends WAIT of an EXTERNAL step (R8, R36). -/
def triggerEdge (s : State) : State := if awaitsTrigger s then enterExpose s else s

/-- An accepted edge is delivered to the user of the line's function (R33). -/
def deliverEdge (f : LineFunction) (active : Bool) (s : State) : State :=
  match f, active with
  | .expFeedback, _ => captureEdge active s
  | .triggerIn, true => triggerEdge s
  | .pauseIn, true => pauseTake s
  | .stopIn, true => stopTake s
  | _, _ => s

/-- A LINE_CHANGE report: line, function, pin level, logical level (11.3). -/
def reportLine (l : LineNo) (f : LineFunction) (pin logical : Bool) (s : State) : State :=
  queueReport .lineChange [byteOf l.val, byteOf f.code, byteOf (boolCode pin), byteOf (boolCode logical)] s

/-- The pin level of an INPUT line is judged stable: where it differs from the accepted one it is accepted, reported when
notify is on, and delivered (R31, R32, R33). -/
def acceptLevel (l : LineNo) (s : State) : State :=
  let x := s.lines.get l
  let setup := lineSetup s l
  match setup.use with
  | .output _ _ => s
  | .input f _ =>
    if x.outside = x.accepted then s
    else
      let active := throughInvert setup.invert x.outside
      let accepted := setLine l { x with accepted := x.outside } s
      let reported := if setup.notify then reportLine l f x.outside active accepted else accepted
      deliverEdge f active reported

/-- The outside changes a pin's level (R31). An OUTPUT line's pin is driven by the part, and takes no input. -/
def changePin (l : LineNo) (high : Bool) (s : State) : State :=
  let moved := setLine l { s.lines.get l with outside := high } s
  match (lineSetup s l).use with
  | .output _ _ => moved
  | .input _ debounce =>
    if debounce = 0 then acceptLevel l moved
    else setLine l { s.lines.get l with outside := high, debounceTimer := some (s.now + debounce) } s

def execInputPinChange (l : LineNo) (high : Bool) (s : State) : Out :=
  if (s.lines.get l).outside = high then .next s else .next (endEvent (changePin l high s))

/-- R31: the pin level has been stable for the debounce time. -/
def execDebounceExpiry (l : LineNo) (s : State) : Out :=
  match (s.lines.get l).debounceTimer with
  | none => .next s
  | some t => .next (endEvent (acceptLevel l (setLine l { s.lines.get l with debounceTimer := none } (advanceTo t s))))

/-! ### Thermistors and heater (R40, R41, R43, R44) -/

/-- The duty from the ambient temperature, 0 without one or without a curve (R43). -/
def heaterDuty (curve : List CurvePoint) (ambient : Option Int) : Nat :=
  ((ambient.bind (interpolate curve)).getD 0).toNat

/-- A conversion replaces the channel's code and temperature, and the other channel is due; TH0 recomputes the duty (R40, R41,
R43). -/
def convertChannel (c : Channel) (code : BitVec 10) (s : State) : State :=
  match c with
  | .th0 =>
    let t := interpolate s.tables.adcCurve0.seen code.toNat
    { s with temps.due := .th1, temps.code0 := some code, temps.th0 := t, heater.duty := heaterDuty s.tables.heaterCurve.seen t }
  | .th1 =>
    { s with temps.due := .th0, temps.code1 := some code, temps.th1 := interpolate s.tables.adcCurve1.seen code.toNat }

/-- TH0 and then TH1 are converted once each in every period; a conversion out of this turn does not happen (R40; log 4). -/
def execAdcConversion (c : Channel) (code : BitVec 10) (s : State) : Out :=
  if s.temps.due = c then .next (endEvent (convertChannel c code s)) else .next s

/-- The length of a PWM period (R44). -/
def pwmPeriod : Nat := 10000

/-- The active time of a period from the duty at its start (R44). -/
def activeTime (duty : Nat) : Nat := (roundDiv (duty * pwmPeriod) 256).toNat

/-- The next period begins, with the duty as it stands; the duty is 0 or the period has an active part (R44). -/
def beginPeriod (s : State) : State :=
  let start := s.heater.periodStart + pwmPeriod
  { advanceTo start s with
    heater.periodStart := start, heater.activeUs := activeTime s.heater.duty,
    heater.pwmActive := decide (activeTime s.heater.duty ≠ 0) }

def execHeaterPwmPeriod (s : State) : Out := .next (endEvent (beginPeriod s))

/-- The active part of the period ends; a whole active period ends with the period (R44). -/
def execPwmActiveEnd (s : State) : Out :=
  if s.heater.pwmActive = true ∧ s.heater.activeUs < pwmPeriod then
    .next (endEvent { advanceTo (s.heater.periodStart + s.heater.activeUs) s with heater.pwmActive := false })
  else .next s

end Sys2Proof.Machine
end

