-- ==== Sys2Proof/Machine/Power.lean ====
section
/-! DEFINITION. POWER_ON, RESET_N and PART_RESET. -/

namespace Sys2Proof.Machine

/-- Every block takes its power-on state, with the pin levels first sampled (R1, R27, R64 and the others INVENTORY.md names).
The commands that wait and the counts of free values are the model's own and stay (log 34). -/
def execPowerOn (pins : BitVec 6) (s : State) : Out :=
  .next { State.powerOn pins with freeSeq := s.freeSeq, out.choices := s.out.choices, pending := s.pending }

/-- RESET_N leaves the same state, at the levels the pins have (R27). -/
def execResetN (s : State) : Out :=
  .next { State.powerOn 0#6 with
    lines := s.lines.map (fun _ x => LineState.reset x.outside), freeSeq := s.freeSeq,
    out.choices := s.out.choices, pending := s.pending }

/-! ### PART_RESET (R190) -/

/-- Steps 1 to 3 of R190: the requests, a waiting reply and the queue go, and the reply is the first entry. -/
def resetPort (r : Request) (s : State) : State :=
  let emptied := { s with port.requests := [], port.holdReqSent := false, port.waiting := none, port.lostReports := false,
                          out.queue := [] }
  let flowed := if s.port.holdReqSent then handFlow .goReq emptied else emptied
  answer r .ok [] flowed

/-- A CLEARING pass is stopped (R88). -/
def stopPass (s : State) : State := if s.arb.holder = .clearing then stopClearing s else s

/-- The render is abandoned with no claim left to grant (R104, R145), and the frame id counter goes to 0 (R130). -/
def resetRender (s : State) : State :=
  let abandoned := abandonRender .partReset { s with
    seq.finalHeld := false, arb.waiting := .none }
  { abandoned with render.nextId := 0, arb := Arbiter.reset }

/-- What stands on the bus, whole: the transaction in flight, or the pulse train that runs. -/
def runInHand (b : SensorBridge) : Option BusRun :=
  (b.inFlight.map fun f => { speed := f.speed, actions := f.actions : BusRun }).or (b.train.map recoveryRun)

/-- The bridge with nothing in hand; what stood on the bus is stopped in mid-transfer with a stop condition (R146; log 36). -/
def resetBridge (k : Nat) (b : SensorBridge) : SensorBridge :=
  { SensorBridge.reset with bus := ((runInHand b).map (cutRun k .stop)).toList ++ b.bus }

/-- The PART_RESET values of the other blocks: R1, R58, R64, R66, R112, R146, R37, R43, R162. Tables, parameters, the locks, the
packet in progress and the PWM period stay. -/
def resetBlocks (s : State) : State :=
  { s with
    seq := { Sequencer.reset with takeState := s.seq.takeState },
    log := SubframeLog.empty,
    meas := MeasurementTimer.reset,
    heater.duty := 0,
    link := { LinkReceiver.reset with locked := s.link.locked },
    fifo.entries := [],
    fifo.frames := [],
    cal := Calibration.reset,
    trails := TrailDetector.reset,
    bridge := resetBridge s.freeSeq s.bridge,
    freeSeq := s.freeSeq + 1,
    out.held := false,
    out.rawRun := 0 }

/-- The TAKE_STATE report of a take state that changed (R190 step 5). -/
def resetTake (s : State) : State := if s.seq.takeState = .noTake then s else enterTake .noTake .none s

/-- The lines are driven again from LINES, every USER level inactive (R27). -/
def resetLines (s : State) : State :=
  let quiet := { s with lines := s.lines.map fun _ x => { x with user := false } }
  { quiet with lines := quiet.lines.map (restartLine quiet) }

/-- R190. -/
def partReset (r : Request) (s : State) : State :=
  resetLines (resetTake (resetBlocks (resetRender (stopPass (resetPort r s)))))

/-- PART_RESET at the head of the queue is taken even while a reply waits or no entry is free (R175). One of a wrong length is
refused like any other request (R176; log 22). -/
def execPartReset (s : State) : Out :=
  match s.port.requests with
  | [] => .next s
  | r :: _ =>
    if isKind 23 r.kind && r.payload.isEmpty then .next (endEvent (partReset r s))
    else takeRequest (isKind 23) (fun r s => answer r .badLength [] s) s

end Sys2Proof.Machine
end

