-- ==== Sys2Proof/Machine/Dispatch.lean ====
section
/-! DEFINITION. One arm per command: each calls its meaning. -/

namespace Sys2Proof.Machine

def exec (i : Instr) (s : State) : Host.Outcome State Fault Refusal :=
  match i with
  | .powerOn pins => Sys2Proof.Machine.execPowerOn pins s
  | .resetN => Sys2Proof.Machine.execResetN s
  | .requestArrival tag kind length payload crc => Sys2Proof.Machine.execRequestArrival tag kind length payload crc s
  | .requestUnknownKind => Sys2Proof.Machine.execRequestUnknownKind s
  | .tableOpen => Sys2Proof.Machine.execTableOpen s
  | .tableAppend => Sys2Proof.Machine.execTableAppend s
  | .tableClose => Sys2Proof.Machine.execTableClose s
  | .tableRead => Sys2Proof.Machine.execTableRead s
  | .paramSet => Sys2Proof.Machine.execParamSet s
  | .paramGet => Sys2Proof.Machine.execParamGet s
  | .takeStart => Sys2Proof.Machine.execTakeStart s
  | .takePause => Sys2Proof.Machine.execTakePause s
  | .takeResume => Sys2Proof.Machine.execTakeResume s
  | .takeStop => Sys2Proof.Machine.execTakeStop s
  | .takeFinish => Sys2Proof.Machine.execTakeFinish s
  | .takeAbort => Sys2Proof.Machine.execTakeAbort s
  | .takeClear => Sys2Proof.Machine.execTakeClear s
  | .renderPreview => Sys2Proof.Machine.execRenderPreview s
  | .renderRepeat => Sys2Proof.Machine.execRenderRepeat s
  | .logRead => Sys2Proof.Machine.execLogRead s
  | .statusRead => Sys2Proof.Machine.execStatusRead s
  | .bridgeWrite => Sys2Proof.Machine.execBridgeWrite s
  | .bridgeRead => Sys2Proof.Machine.execBridgeRead s
  | .bridgeRecover => Sys2Proof.Machine.execBridgeRecover s
  | .bridgeRecoverDone lineHigh => Sys2Proof.Machine.execBridgeRecoverDone lineHigh s
  | .lineLevel => Sys2Proof.Machine.execLineLevel s
  | .lineRead => Sys2Proof.Machine.execLineRead s
  | .partReset => Sys2Proof.Machine.execPartReset s
  | .waitingReplyQueued => Sys2Proof.Machine.execWaitingReplyQueued s
  | .relayReplyQueued => Sys2Proof.Machine.execRelayReplyQueued s
  | .trailQueueDrain => Sys2Proof.Machine.execTrailQueueDrain s
  | .holdOut => Sys2Proof.Machine.execHoldOut s
  | .goOut => Sys2Proof.Machine.execGoOut s
  | .controlSymbolUnknown => Sys2Proof.Machine.execControlSymbolUnknown s
  | .linkInLockGained => Sys2Proof.Machine.execLinkInLockGained s
  | .linkInLockLost => Sys2Proof.Machine.execLinkInLockLost s
  | .frameStart counter => Sys2Proof.Machine.execFrameStart counter s
  | .line row words crc => Sys2Proof.Machine.execLine row words crc s
  | .frameEnd lines => Sys2Proof.Machine.execFrameEnd lines s
  | .linkInPacketDiscard => Sys2Proof.Machine.execLinkInPacketDiscard s
  | .linkOutLockLoss => Sys2Proof.Machine.execLinkOutLockLoss s
  | .linkOutLockRegain => Sys2Proof.Machine.execLinkOutLockRegain s
  | .linkOutPacketEnd => Sys2Proof.Machine.execLinkOutPacketEnd s
  | .renderRowRead => Sys2Proof.Machine.execRenderRowRead s
  | .clearingPassComplete => Sys2Proof.Machine.execClearingPassComplete s
  | .shutterSettleExpiry => Sys2Proof.Machine.execShutterSettleExpiry s
  | .gapTimerExpiry => Sys2Proof.Machine.execGapTimerExpiry s
  | .exposureTimerExpiry => Sys2Proof.Machine.execExposureTimerExpiry s
  | .extensionTimerExpiry => Sys2Proof.Machine.execExtensionTimerExpiry s
  | .readoutTimerExpiry => Sys2Proof.Machine.execReadoutTimerExpiry s
  | .ingestEntry => Sys2Proof.Machine.execIngestEntry s
  | .settleEnd => Sys2Proof.Machine.execSettleEnd s
  | .minPulseExpiry l => Sys2Proof.Machine.execMinPulseExpiry l s
  | .inputPinChange l high => Sys2Proof.Machine.execInputPinChange l high s
  | .debounceExpiry l => Sys2Proof.Machine.execDebounceExpiry l s
  | .adcConversion channel code => Sys2Proof.Machine.execAdcConversion channel code s
  | .heaterPwmPeriod => Sys2Proof.Machine.execHeaterPwmPeriod s
  | .pwmActiveEnd => Sys2Proof.Machine.execPwmActiveEnd s
  | .pollClaim => Sys2Proof.Machine.execPollClaim s
  | .busTransactionEnd outcome => Sys2Proof.Machine.execBusTransactionEnd outcome s
  | .busClockTimeout => Sys2Proof.Machine.execBusClockTimeout s

end Sys2Proof.Machine
end

