-- ==== Sys2Proof/Machine/Step.lean ====
section
/-! DEFINITION. One step: the command at the front of the queue, or one tick of the 1 µs time base. -/

namespace Sys2Proof.Machine

/-- One tick of the 1 µs time base (00 Conventions; log 2). -/
def tick (s : State) : State := { s with now := s.now + 1 }

/-- The command at the front of the queue runs with the queue's rest; on an empty queue the time base ticks. -/
def step (s : State) : Host.Outcome State Fault Refusal :=
  match s.pending with
  | [] => .next (tick s)
  | c :: rest => exec c { s with pending := rest }

/-- The command a word spells, put at the front of the queue; the table gives its rows no bits, so no word spells one (log 33). -/
def State.withFetchWord (s : State) (nbits w : Nat) : State :=
  match decodeTableWord nbits w with
  | some c => { s with pending := c :: s.pending }
  | none => s

end Sys2Proof.Machine
end

