-- ==== Sys2Proof/Safety.lean ====
section
/-! DEFINITION. The terms claims are made in: what has been queued for the camera processor, what a command leaves alone, when a
request can be taken, and the invariants of a safe run. -/

namespace Sys2Proof.Machine

/-! ### What the camera processor is sent -/

def LanePacket.queuedPart : LanePacket → Option QueuedPacket
  | .queued p => some p
  | _ => none

def LanePacket.renderPart : LanePacket → Option RenderPacket
  | .render p _ => some p
  | _ => none

/-- The packet of an item that is one, whole or cut. -/
def LaneItem.packet : LaneItem → Option LanePacket
  | .sent p => some p
  | .cut p => some p
  | .symbol _ => none

/-- The packets that have left or were cut and the one in progress, oldest first. -/
def begunPackets (s : State) : List LanePacket := s.out.sent.reverse.filterMap LaneItem.packet ++ s.out.inProgress.toList

/-- The replies and reports that were begun and those that wait, in the order they were queued. -/
def queuedTraffic (s : State) : List QueuedPacket := (begunPackets s).filterMap LanePacket.queuedPart ++ s.out.queue

/-- The render packets that were begun and those that wait, in hand-over order. -/
def renderTraffic (s : State) : List RenderPacket := (begunPackets s).filterMap LanePacket.renderPart ++ s.out.renderQueue

/-! ### What a command leaves alone -/

/-- The state with everything set aside that the lane and the driven lines may change at the end of any event (R28, R164) and
that a flow symbol may change at a taking (R174). Two states with the same still part agree on every other register, table and
buffer. -/
def stillPart (s : State) : State :=
  { s with
    out := { OutputScheduler.reset with locked := s.out.locked, held := s.out.held },
    fifo.frames := [],
    render.startBegun := false,
    lines := s.lines.map (fun _ x => { x with driven := false, minTimer := none }),
    port.holdReqSent := false }

/-- The event that made u of the state has ended in t: t is u, but that the lane may have started the next packet, the lines
have followed their sources, and a flow symbol may have been handed over. -/
structure Ends (u t : State) : Prop where
  still : stillPart t = stillPart u
  queued : queuedTraffic t = queuedTraffic u
  render : renderTraffic t = renderTraffic u

/-! ### Taking a request -/

/-- The request r is the oldest in the queue, its kind has this number, and it can be taken and answered now (R175). -/
structure CanTake (s : State) (number : Nat) (r : Request) : Prop where
  head : s.port.requests.head? = some r
  kind : r.kind.toNat = number
  unmarked : s.port.waiting = none
  room : s.out.queue.length < Config.outQueueCapacity
  locked : s.out.locked = true

/-- The reply to a request (R176). -/
def Request.reply (r : Request) (status : Status) (payload : List Byte) : QueuedPacket := .reply r.tag r.kind status payload

/-- The request has left the queue, and its reply has joined the outgoing packets. -/
def replied (r : Request) (status : Status) (payload : List Byte) (s : State) : State :=
  { s with port.requests := s.port.requests.tail, out.queue := s.out.queue ++ [r.reply status payload] }

/-- The commands that take a request of a known kind but PART_RESET, with the number of the kind (R191). -/
def requestRows : List (Instr × Nat) :=
  [(.tableOpen, 1), (.tableAppend, 2), (.tableClose, 3), (.tableRead, 4), (.paramSet, 5), (.paramGet, 6), (.takeStart, 7),
    (.takePause, 8), (.takeResume, 9), (.takeStop, 10), (.takeFinish, 11), (.takeAbort, 12), (.takeClear, 13),
    (.renderPreview, 14), (.renderRepeat, 15), (.logRead, 16), (.statusRead, 17), (.bridgeWrite, 18), (.bridgeRead, 19),
    (.bridgeRecover, 20), (.lineLevel, 21), (.lineRead, 22)]

/-- The kinds with a fixed payload: command, number, payload length (11.3). -/
def fixedLengthRows : List (Instr × Nat × Nat) :=
  [(.tableOpen, 1, 1), (.tableClose, 3, 1), (.tableRead, 4, 4), (.paramSet, 5, 5), (.paramGet, 6, 1), (.takeStart, 7, 0),
    (.takePause, 8, 0), (.takeResume, 9, 0), (.takeStop, 10, 0), (.takeFinish, 11, 0), (.takeAbort, 12, 0),
    (.takeClear, 13, 0), (.renderPreview, 14, 0), (.renderRepeat, 15, 0), (.logRead, 16, 3), (.statusRead, 17, 0),
    (.bridgeRead, 19, 5), (.bridgeRecover, 20, 0), (.lineLevel, 21, 2), (.lineRead, 22, 0), (.partReset, 23, 0)]

/-! ### After power-on and RESET_N -/

/-- The defaults of the tables of 10.4 and 8.6, in PARAM_GET's numbers; 25 parameters. -/
def parameterDefaults : List (Param × Int) :=
  [(.width, 6000), (.height, 4000), (.blackLevel, 256), (.satLevel, 16383), (.gapCols, 3), (.segMin, 4), (.gapRows, 2),
    (.margin, 4), (.minExtent, 64), (.pedestal, 256), (.readoutTimeout, 1000), (.maxExtension, 10000000),
    (.forwardDropLevel, 40), (.strayForward, 0), (.autoPreview, 0), (.shutterSettle, 500), (.tempSource, 1),
    (.pollDevice, 0), (.pollRegister, 8 * 65536), (.pollGain, 256), (.pollOffset, 0), (.pollLead, 50), (.bridgeSpeed, 400),
    (.heaterEnable, 0), (.reportMask, 255)]

/-- What the spec states of the part after power-on and RESET_N, chapter by chapter, the pins first sampled at these levels. -/
structure AtPowerOn (level : LineNo → Bool) (t : State) : Prop where
  /-- R1. -/
  take : t.seq.takeState = .noTake ∧ t.seq.planeValid = false ∧ t.seq.phase = .none ∧ t.log.records = []
  /-- R1, R2, R17. -/
  marks : t.seq.step = 0 ∧ t.seq.count = 0 ∧ t.seq.notStarted = false ∧ t.seq.pausePending = false ∧ t.seq.stopPending = false
    ∧ t.seq.finishPending = false ∧ t.seq.abortPending = false ∧ t.seq.autoCount = 0
  /-- R1, R16. -/
  signals : signalExpose t = false ∧ signalReadout t = false ∧ t.seq.shutter = false ∧ t.seq.stepLevel = false
    ∧ signalReady t = true
  /-- R27: every line an unlisted INPUT, its accepted level the first one sampled. -/
  lines : ∀ l, lineSetup t l = LineSetup.unlisted ∧ (t.lines.get l).user = false ∧ (t.lines.get l).accepted = level l
    ∧ pinLevel t l = level l
  /-- R40, R43. -/
  heater : t.temps.th0 = none ∧ t.temps.th1 = none ∧ t.temps.due = .th0 ∧ t.heater.duty = 0
  /-- R64. -/
  link : t.link.locked = false ∧ t.link.frame = .none ∧ t.link.readout = none ∧ t.link.lastRow = none
    ∧ (∀ row, rowState t row = .unseen) ∧ t.link.strayCount = 0 ∧ t.fifo.entries = [] ∧ t.fifo.frames = []
  /-- R66. -/
  darks : t.cal.darkCount = 0 ∧ t.cal.darkExposure = 0 ∧ t.cal.darkTempTotal = 0 ∧ t.cal.darkTempCount = 0
    ∧ t.cal.scale = none ∧ t.cal.cursor = 0
  /-- R104. -/
  plane : t.arb.holder = .none ∧ t.arb.waiting = .none
  /-- R112. -/
  trails : t.trails.openTrails = [] ∧ t.trails.counter = 1 ∧ t.trails.current = VetoList.absent
    ∧ t.trails.previous = VetoList.absent ∧ t.trails.queue = []
  /-- R130. -/
  render : t.render.state = .idle ∧ t.render.nextId = 0
  /-- R146. -/
  bridge : t.bridge.state = .idle ∧ t.bridge.inFlight = none ∧ t.bridge.waitingPoll = none ∧ t.bridge.waitingScript = none
    ∧ t.bridge.relays = [] ∧ t.bridge.lastGood = none
  /-- R162. -/
  output : t.out.locked = false ∧ t.out.held = false ∧ t.out.inProgress = none ∧ t.out.rawRun = 0 ∧ t.out.queue = []
    ∧ t.out.renderQueue = [] ∧ t.out.flowWaiting = none
  /-- The table of 10.7. -/
  port : t.port.requests = [] ∧ t.port.holdReqSent = false ∧ t.port.waiting = none ∧ t.port.lostReports = false
  /-- R178. -/
  tables : ∀ n, t.tables.stateOf n = .empty ∧ t.tables.lengthOf n = 0
  /-- R185. -/
  params : ∀ e ∈ parameterDefaults, t.params.value e.1 = e.2
  /-- R183. -/
  settings : t.settings.width = 6000 ∧ t.settings.height = 4000 ∧ t.settings.vertices = [] ∧ t.settings.sky = Policy.default
    ∧ t.settings.ground = Policy.default

/-! ### What PARAM_SET stores -/

/-- The range of a numeric parameter (10.4, R158). -/
def Param.range : Param → Option (Int × Int)
  | .width => some (256, 8192) | .height => some (128, 6144) | .blackLevel => some (0, 4095) | .satLevel => some (1, 16383)
  | .gapCols => some (0, 7) | .segMin => some (1, 64) | .gapRows => some (0, 7) | .margin => some (0, 16)
  | .minExtent => some (16, 4096) | .pedestal => some (0, 4095) | .readoutTimeout => some (50, 5000)
  | .maxExtension => some (0, 60000000) | .forwardDropLevel => some (16, 48) | .autoPreview => some (0, 255)
  | .shutterSettle => some (0, 10000) | .pollDevice => some (0, 127) | .pollGain => some (-32768, 32767)
  | .pollOffset => some (-160, 340) | .pollLead => some (1, 1000)
  | .strayForward => none | .tempSource => none | .pollRegister => none | .bridgeSpeed => none | .heaterEnable => none
  | .reportMask => none

/-- The value PARAM_SET stores for a value sent, or none where it refuses it (R184 steps 3 and 4). The poll register reads its
width in bits 16 to 23 and its address in bits 0 to 15, and report_mask its eight enables; the bits above are not read
(log 25). -/
def Param.stored (n : Param) (v : Int) : Option Int :=
  match n.range with
  | some (lo, hi) =>
    let clamped := if v < lo then lo else if hi < v then hi else v
    some (if (n = .width ∨ n = .height) ∧ clamped % 2 = 1 then clamped - 1 else clamped)
  | none =>
    match n with
    | .bridgeSpeed => if v = 100 ∨ v = 400 then some v else none
    | .reportMask => some (v % 256)
    | .pollRegister =>
      if v / 65536 % 256 = 8 then some (8 * 65536 + min 255 (v % 65536))
      else if v / 65536 % 256 = 16 then some (16 * 65536 + v % 65536)
      else none
    | _ => if v = 0 ∨ v = 1 then some v else none

/-! ### Fields and their layouts (R191, R192, 11.2 to 11.4) -/

/-- size bytes of a payload from an offset. -/
def field (payload : List Byte) (offset size : Nat) : List Byte := (payload.drop offset).take size

/-- The number that bytes give, high byte first. -/
def number (bytes : List Byte) : Nat := bytes.foldl (fun n b => 256 * n + b.toNat) 0

/-- The number that bytes give in two's complement. -/
def signedNumber (bytes : List Byte) : Int :=
  if 2 * number bytes < 256 ^ bytes.length then number bytes else number bytes - 256 ^ bytes.length

def valueAt (payload : List Byte) (offset size : Nat) : Nat := number (field payload offset size)

def signedAt (payload : List Byte) (offset size : Nat) : Int := signedNumber (field payload offset size)

/-- The field gives the value, where it has bytes enough for it. -/
def Holds (payload : List Byte) (offset size value : Nat) : Prop := value < 256 ^ size → valueAt payload offset size = value

/-- The byte is the number of this value in the order of its names, from 0. -/
def Named {α : Type} (names : List α) (payload : List Byte) (offset : Nat) (value : α) : Prop :=
  names[valueAt payload offset 1]? = some value

/-- What the statements write and read fields with (R191): whole bytes, high byte first, signed ones in two's complement. -/
structure FieldsCoded : Prop where
  byte : ∀ n < 256, (byteOf n).toNat = n
  two : ∀ n < 65536, (bytes2 n).length = 2 ∧ number (bytes2 n) = n
  four : ∀ n < 4294967296, (bytes4 n).length = 4 ∧ number (bytes4 n) = n
  signedFour : ∀ v, -2147483648 ≤ v → v ≤ 2147483647 → (signed4 v).length = 4 ∧ signedNumber (signed4 v) = v
  temperature : ∀ v, -32768 ≤ v → v ≤ 32767 → (tempBytes (some v)).length = 2 ∧ signedNumber (tempBytes (some v)) = v
  noTemperature : (tempBytes none).length = 2 ∧ signedNumber (tempBytes none) = -32768
  readByte : ∀ p i, i + 1 ≤ p.length → read1 p i = valueAt p i 1
  readTwo : ∀ p i, i + 2 ≤ p.length → read2 p i = valueAt p i 2
  readSignedTwo : ∀ p i, i + 2 ≤ p.length → readSigned2 p i = signedAt p i 2
  readSignedFour : ∀ p i, i + 4 ≤ p.length → readSigned4 p i = signedAt p i 4

def statuses : List Status :=
  [.ok, .okClamped, .accepted, .busy, .badState, .unknownKind, .badLength, .badArg, .tableNotOpen, .tableOrder, .tableRange,
    .tableFull, .tableConflict, .planInvalid, .profileGeometry, .invalidPlane, .done, .nackAddress, .nackData, .timeout, .busStuck,
    .blocked]

def reportKinds : List ReportKind :=
  [.subframeClosed, .trail, .takeState, .renderDone, .renderAbandoned, .lineChange, .scriptResult, .bridgeFault]

/-- Named values are numbered in the order their tables and lists give (R191; log 24): from 0, but report kinds from 1. -/
structure NamesCoded : Prop where
  takeState : ∀ x : TakeState, [.noTake, .clearing, .running, .paused, .complete, .finishing, .finished, .aborted][x.code]? = some x
  phase : ∀ x : Phase, [.none, .stepStart, .wait, .expose, .hold, .readout, .settle][x.code]? = some x
  tableState : ∀ x : TableState, [.empty, .loading, .ready][x.code]? = some x
  bridgeState : ∀ x : BridgeState, [.idle, .busy, .fault][x.code]? = some x
  renderKind : ∀ x : RenderKind, [.preview, .final][x.code]? = some x
  source : ∀ x : LineSource, [.user, .expose, .ready, .shutter, .stepLevel, .heater, .readout][x.code]? = some x
  function : ∀ x : LineFunction, [.none, .expFeedback, .triggerIn, .pauseIn, .stopIn][x.code]? = some x
  status : ∀ x : Status, statuses[x.code]? = some x
  reportKind : ∀ x : ReportKind, 1 ≤ x.code ∧ reportKinds[x.code - 1]? = some x
  outcome : ∀ o : BusOutcome, o.code = match o with
    | .done => 0 | .nackAddress => 1 | .nackData _ => 2 | .timeout => 3 | .busStuck => 4 | .blocked => 5
  table : ∀ k, TableName.ofCode k = ([.plan, .defects, .horizon, .regions, .darkModel, .lines, .heaterCurve, .adcCurve0,
    .adcCurve1, .bridgeAllow, .bridgeScript] : List TableName)[k]? ∧ ∀ n, TableName.ofCode k = some n → n.code = k
  param : ∀ k, Param.ofCode k = if k = 0 then none else (parameterDefaults.map Prod.fst)[k - 1]?

/-- An entry of a table has as many bytes as 11.4 gives it. -/
def Sized (n : TableName) (b : List Byte) : Prop :=
  b.length = match n with
    | .plan => 16 | .defects => 5 | .horizon => 4 | .regions => 8 | .darkModel => 4 | .lines => 6 | .heaterCurve => 4
    | .adcCurve0 => 4 | .adcCurve1 => 4 | .bridgeAllow => 1 | .bridgeScript => 5 + valueAt b 4 1

structure PlanLayout (b : List Byte) (e : PlanStep) : Prop where
  size : b.length = 16
  kind : Named [.dark, .light] b 0 e.kind
  count : valueAt b 1 2 = e.count
  exposure : valueAt b 3 4 = e.exposure
  gap : valueAt b 7 4 = e.gap
  cadence : Named [.internal, .external] b 11 e.cadence
  forward : Named [false, true] b 12 e.forward
  stepLevel : Named [false, true] b 13 e.stepLevel
  scriptFirst : valueAt b 14 1 = e.scriptFirst
  scriptCount : valueAt b 15 1 = e.scriptCount

structure DefectLayout (b : List Byte) (e : Defect) : Prop where
  size : b.length = 5
  row : valueAt b 0 2 = e.row
  column : valueAt b 2 2 = e.column
  method : Named [.substitute, .exclude] b 4 e.method

structure VertexLayout (b : List Byte) (e : Vertex) : Prop where
  size : b.length = 4
  column : valueAt b 0 2 = e.column
  row : valueAt b 2 2 = e.row

structure RegionLayout (b : List Byte) (e : RegionEntry) : Prop where
  size : b.length = 8
  region : Named [.sky, .ground] b 0 e.region
  mode : Named [.meanReject, .peak, .peakFade, .exclude] b 1 e.policy.mode
  kappa : valueAt b 2 1 = e.policy.kappa
  warmup : valueAt b 3 1 = e.policy.warmup
  sigmaFloor : valueAt b 4 1 = e.policy.sigmaFloor
  fade : valueAt b 5 1 = e.policy.fade
  trailDetect : Named [false, true] b 6 e.policy.trailDetect
  veto : Named [false, true] b 7 e.policy.veto

/-- A point of DARK_MODEL or HEATER_CURVE: its temperature signed, and then its factor or duty. -/
structure TqLayout (b : List Byte) (e : CurvePoint) : Prop where
  size : b.length = 4
  temperature : signedAt b 0 2 = e.x
  value : valueAt b 2 2 = e.y

/-- A point of an ADC curve: its code, and then its temperature signed. -/
structure CodeLayout (b : List Byte) (e : CurvePoint) : Prop where
  size : b.length = 4
  code : valueAt b 0 2 = e.x
  temperature : signedAt b 2 2 = e.y

/-- A LINES entry, read by its direction: INPUT 0, OUTPUT 1. -/
structure LineLayout (b : List Byte) (e : LineEntry) : Prop where
  size : b.length = 6
  line : valueAt b 0 1 = e.line
  flags : field b 2 1 = [e.flags]
  use : match e.use with
    | .input function debounce => valueAt b 1 1 = 0 ∧ valueAt b 4 2 = debounce
        ∧ Named [.none, .expFeedback, .triggerIn, .pauseIn, .stopIn] b 3 function
    | .output source minPulse => valueAt b 1 1 = 1 ∧ valueAt b 4 2 = minPulse
        ∧ Named [.user, .expose, .ready, .shutter, .stepLevel, .heater, .readout] b 3 source

structure AllowLayout (b : List Byte) (device : Nat) : Prop where
  size : b.length = 1
  device : valueAt b 0 1 = device

structure ScriptLayout (b : List Byte) (e : ScriptEntry) : Prop where
  size : b.length = 5 + e.data.length
  device : valueAt b 0 1 = e.device
  width : valueAt b 1 1 = if e.reg.wide then 16 else 8
  register : valueAt b 2 2 = e.reg.addr
  count : valueAt b 4 1 = e.data.length
  data : field b 5 e.data.length = e.data

/-- Each table's entries, in order, stand in the bytes given for it as 11.4 lays them out. -/
structure TablesLaidOut (t : Tables) : Prop where
  plan : List.Forall₂ PlanLayout (t.entryBytes .plan) t.plan.entries
  defects : List.Forall₂ DefectLayout (t.entryBytes .defects) t.defects.entries
  horizon : List.Forall₂ VertexLayout (t.entryBytes .horizon) t.horizon.entries
  regions : List.Forall₂ RegionLayout (t.entryBytes .regions) t.regions.entries
  darkModel : List.Forall₂ TqLayout (t.entryBytes .darkModel) t.darkModel.entries
  lines : List.Forall₂ LineLayout (t.entryBytes .lines) t.lines.entries
  heaterCurve : List.Forall₂ TqLayout (t.entryBytes .heaterCurve) t.heaterCurve.entries
  adcCurve0 : List.Forall₂ CodeLayout (t.entryBytes .adcCurve0) t.adcCurve0.entries
  adcCurve1 : List.Forall₂ CodeLayout (t.entryBytes .adcCurve1) t.adcCurve1.entries
  bridgeAllow : List.Forall₂ AllowLayout (t.entryBytes .bridgeAllow) t.bridgeAllow.entries
  bridgeScript : List.Forall₂ ScriptLayout (t.entryBytes .bridgeScript) t.bridgeScript.entries

/-- The subframe record of 11.3. An absent field is sent as 0 beside its presence bit, an absent temperature as -32768. -/
structure RecordLayout (b : List Byte) (r : SubframeRecord) : Prop where
  size : b.length = 63
  index : Holds b 0 2 r.index
  kind : Named [.dark, .light] b 2 r.kind
  step : Holds b 3 1 r.step
  outcome : ∀ o, r.outcome = some o → Named [.integrated, .partialFrame, .missing, .abandoned] b 4 o
  presence : valueAt b 5 1 = boolCode r.frameCounter.isSome + 2 * boolCode r.scale.isSome
  frameCounter : valueAt b 6 2 = (r.frameCounter.map BitVec.toNat).getD 0
  commandedUs : Holds b 8 4 r.commandedUs
  heldUs : Holds b 12 4 r.heldUs
  exposedUs : Holds b 16 4 (r.exposedUs.getD 0)
  exposureSource : ∀ x, r.exposureSource = some x → Named [.feedback, .lineTime] b 20 x
  tempState : ∀ x, r.tempState = some x → Named [.fresh, .stale, .absent] b 21 x
  temperature : ∀ v, r.temperature = some v → -32768 ≤ v → v ≤ 32767 → signedAt b 22 2 = v
  noTemperature : r.temperature = none → signedAt b 22 2 = -32768
  scale : Holds b 24 2 (r.scale.getD 0)
  admitted : Holds b 26 4 r.admitted
  rejected : Holds b 30 4 r.rejected
  saturated : Holds b 34 4 r.saturated
  excluded : Holds b 38 4 r.excluded
  lost : Holds b 42 4 r.lost
  outliers : Holds b 46 4 r.outliers
  clamped : Holds b 50 4 r.clamped
  extraLines : Holds b 54 4 r.extraLines
  trails : Holds b 58 2 r.trails
  unattributed : Holds b 60 2 r.unattributed
  flags : valueAt b 62 1 = boolCode r.vetoFull + 2 * boolCode r.trailQueueFull + 4 * boolCode r.scaleSaturated
    + 8 * boolCode r.feedbackMissing

/-- The trail record of 11.3. -/
structure TrailLayout (b : List Byte) (r : TrailRecord) : Prop where
  size : b.length = 17
  subframe : Holds b 0 2 r.subframe
  number : Holds b 2 1 r.number
  regions : valueAt b 3 1 = boolCode r.sky + 2 * boolCode r.ground
  vetoing : Named [false, true] b 4 r.vetoing
  firstRow : Holds b 5 2 r.box.firstRow
  lastRow : Holds b 7 2 r.box.lastRow
  minCol : Holds b 9 2 r.box.minCol
  maxCol : Holds b 11 2 r.box.maxCol
  flagged : Holds b 13 4 r.flagged

/-- The last two bytes are the CRC of those before them (R192). -/
def CrcBehind (b : List Byte) : Prop := valueAt b (b.length - 2) 2 = (crc16 (b.take (b.length - 2))).toNat

/-- The packets of a stream on Link Out: RAW 0, PREVIEW 1, FINAL 2 (11.2). -/
structure StartLayout (b : List Byte) (stream frameId width height : Nat) : Prop where
  size : b.length = 8
  type : valueAt b 0 1 = 0x11
  stream : valueAt b 1 1 = stream
  frameId : Holds b 2 2 frameId
  width : Holds b 4 2 width
  height : Holds b 6 2 height

structure OutLineLayout (b : List Byte) (stream row : Nat) (pixels : List Nat) : Prop where
  size : b.length = 8 + 2 * pixels.length
  type : valueAt b 0 1 = 0x12
  stream : valueAt b 1 1 = stream
  row : Holds b 2 2 row
  count : Holds b 4 2 pixels.length
  pixels : ∀ k v, pixels[k]? = some v → Holds b (6 + 2 * k) 2 v
  crc : CrcBehind b

structure EndLayout (b : List Byte) (stream lines : Nat) (truncated abandoned : Bool) : Prop where
  size : b.length = 5
  type : valueAt b 0 1 = 0x13
  stream : valueAt b 1 1 = stream
  lines : Holds b 2 2 lines
  flags : valueAt b 4 1 = boolCode truncated + 2 * boolCode abandoned

/-- A packet of Link Out in the bytes of 11.2. -/
def PacketLayout (b : List Byte) : LanePacket → Prop
  | .rawStart _ frameId width height => StartLayout b 0 frameId width height
  | .rawLine _ _ row pixels => OutLineLayout b 0 row pixels
  | .rawEnd lines truncated => EndLayout b 0 lines truncated false
  | .render (.frameStart kind frameId width height) _ => StartLayout b (if kind = .preview then 1 else 2) frameId width height
  | .render (.line kind row values) _ => OutLineLayout b (if kind = .preview then 1 else 2) row values
  | .render (.frameEnd kind lines abandoned) _ => EndLayout b (if kind = .preview then 1 else 2) lines false abandoned
  | .queued (.reply tag kind status payload) => b.length = 8 + payload.length ∧ field b 0 3 = [0x14#8, tag, kind]
      ∧ Named statuses b 3 status ∧ Holds b 4 2 payload.length ∧ field b 6 payload.length = payload ∧ CrcBehind b
  | .queued (.report kind lostBefore payload) => b.length = 7 + payload.length ∧ valueAt b 0 1 = 0x15
      ∧ (1 ≤ valueAt b 1 1 ∧ reportKinds[valueAt b 1 1 - 1]? = some kind) ∧ valueAt b 2 1 = boolCode lostBefore
      ∧ Holds b 3 2 payload.length ∧ field b 5 payload.length = payload ∧ CrcBehind b

/-! ### The checks of a table's entry -/

/-- The entry rules of a table with room, in their order: an entry whose bytes give no value of some field, or that does not fit
its ranges, is TABLE_RANGE; one that stands against those held has its own status; and any other joins the table behind the
newest, alone. An entry is what its bytes give in the layout of 11.4. The table is reached by its field and put back by put. -/
def EntryRules {α : Type} (n : TableName) (read : List Byte → Option α) (layout : List Byte → α → Prop) (table : Tables → Table α)
    (put : Tables → Table α → Tables) (fits : α → Prop) (against : List α → α → Prop) (status : Status) : Prop :=
  (∀ b, Sized n b → ∀ e, read b = some e ↔ layout b e)
  ∧ ∀ (b : List Byte) (t : Tables), (table t).entries.length < n.capacity →
    (read b = none → appendEntry n b t = .error .tableRange)
    ∧ ∀ e, read b = some e →
      (¬ fits e → appendEntry n b t = .error .tableRange)
      ∧ (fits e → against (table t).entries e → appendEntry n b t = .error status)
      ∧ (fits e → ¬ against (table t).entries e →
        appendEntry n b t = .ok (put t { table t with entries := (table t).entries ++ [e] }))

/-- A point not greater than the newest one held. -/
def NotRising (held : List CurvePoint) (e : CurvePoint) : Prop := ∃ p ∈ held.getLast?, e.x ≤ p.x

/-! ### The checks of TAKE_START (R4) -/

/-- i is the place of the first entry that p holds of. -/
def FirstAt {α : Type} (p : α → Prop) (l : List α) (i : Nat) : Prop :=
  (∃ a, l[i]? = some a ∧ p a) ∧ ∀ j < i, ∀ a, l[j]? = some a → ¬ p a

/-- The take-fixed tables, in the order R4 lists them. -/
def takeFixedTables : List TableName := [.plan, .defects, .horizon, .darkModel, .regions, .lines]

/-- Check 1. -/
def NoneLoading (t : Tables) : Prop := ∀ n ∈ takeFixedTables, t.stateOf n ≠ .loading

/-- What check 3 forbids: step j is DARK and an earlier step is LIGHT. -/
def DarkAfterLightAt (steps : List PlanStep) (j : Nat) : Prop :=
  (∃ st, steps[j]? = some st ∧ st.kind = .dark) ∧ ∃ i < j, ∃ st, steps[i]? = some st ∧ st.kind = .light

/-- Check 3. -/
def DarksFirst (steps : List PlanStep) : Prop := ∀ j, ¬ DarkAfterLightAt steps j

/-- The subframes of the plan, and those of its DARK steps. -/
def plannedSubframes (steps : List PlanStep) : Nat := (steps.map PlanStep.count).sum
def plannedDarks (steps : List PlanStep) : Nat := plannedSubframes (steps.filter fun st => decide (st.kind = .dark))

/-- LINES gives a line the function TRIGGER_IN. -/
def HasTrigger (t : Tables) : Prop := ∃ e ∈ t.lines.seen, ∃ debounce, e.use = .input .triggerIn debounce

/-- A vertex outside the geometry (check 8). -/
def VertexOutside (p : Params) (v : Vertex) : Prop := p.width ≤ v.column ∨ p.height < v.row

/-- Checks 2 to 6, of the plan by itself. -/
structure PlanSound (steps : List PlanStep) : Prop where
  some : steps ≠ []
  order : DarksFirst steps
  light : ∃ st ∈ steps, st.kind = .light
  total : plannedSubframes steps ≤ 4096
  darks : plannedDarks steps ≤ 255

/-- The eight checks of R4. -/
structure Startable (t : Tables) (p : Params) : Prop where
  loaded : NoneLoading t
  plan : PlanSound t.plan.seen
  trigger : (∃ st ∈ t.plan.seen, st.cadence = .external) → HasTrigger t
  profile : ∀ v ∈ t.horizon.seen, ¬ VertexOutside p v

/-- The policy a region has in REGIONS, or the one of every default (R91). -/
def regionPolicy (t : Tables) (region : Region) : Policy :=
  ((t.regions.seen.find? fun e => decide (e.region = region)).map RegionEntry.policy).getD Policy.default

/-! ### A render that begins -/

/-- The state in which a render of this kind has been taken and has the plane: its frame id, pedestal and the light subframes
closed are recorded, and its FRAME_START is handed over (R130, R134, R135, R140). -/
def renderBegun (kind : RenderKind) (s : State) : State :=
  { s with
    render := { s.render with
      state := .active, kind := kind, frameId := s.render.nextId, nextId := (s.render.nextId + 1) % 65536,
      pedestal := s.params.pedestal, lights := s.log.closed.countP fun q => decide (q.kind = .light), row := 0, holes := 0,
      fullScale := 0, rowHanded := false, startBegun := false, linesSent := 0 },
    arb := { holder := .render, waiting := .none },
    out.renderQueue := s.out.renderQueue ++ [.frameStart kind s.render.nextId s.settings.width s.settings.height] }

/-- The state in which a render has been taken and waits behind an ingest (R134). -/
def renderWaiting (kind : RenderKind) (s : State) : State :=
  { s with
    render := { s.render with
      state := .pending, kind := kind, frameId := s.render.nextId, nextId := (s.render.nextId + 1) % 65536,
      pedestal := s.params.pedestal, holes := 0, fullScale := 0 },
    arb.waiting := .render }

/-! ### Relays and the bus -/

/-- The fields of a BRIDGE_WRITE or BRIDGE_READ are in their ranges (R154 step 1). -/
def relayFieldsGood (p : List Byte) : Prop :=
  read1 p 0 ≤ 127 ∧ (read1 p 1 = 8 ∧ read2 p 2 ≤ 255 ∨ read1 p 1 = 16) ∧ 1 ≤ read1 p 4 ∧ read1 p 4 ≤ 16

/-- The relay a BRIDGE_WRITE (kind 18) or BRIDGE_READ asks for, in a state of its own (R154). -/
def relayOf (r : Request) (state : RelayState) : Relay :=
  { tag := r.tag, device := read1 r.payload 0, reg := { wide := decide (read1 r.payload 1 = 16), addr := read2 r.payload 2 },
    access := if r.kind.toNat = 18 then .write (r.payload.drop 5) else .read (read1 r.payload 4), state := state }

/-- Nothing is on the bus and no claim waits for it (R153). -/
structure QuietBus (s : State) : Prop where
  flight : s.bridge.inFlight = none
  poll : s.bridge.waitingPoll = none
  script : s.bridge.waitingScript = none
  indices : s.seq.scriptLeft = []
  relays : ∀ q ∈ s.bridge.relays, q.isAnswered = true

/-- A STEP_START that stands has something to wait for (R7). -/
def StepStartStands (s : State) : Prop :=
  s.seq.phase = .stepStart → s.seq.settleTimer ≠ none ∨ scriptsEnded s = false

/-- What R147 has the bridge do on the bus: the start, the device address with the write direction, the register address in one
byte or in two, high byte first, and then a WRITE's data bytes, or for a READ a repeated start, the address with the read
direction and the bytes taken, each acknowledged but the last; and the stop. -/
def onTheWire (transaction : Transaction) : List BusAction :=
  let register := if transaction.reg.wide
    then [byteOf (transaction.reg.addr / 256), byteOf transaction.reg.addr] else [byteOf transaction.reg.addr]
  [.start, .address transaction.device .write] ++ register.map .send
    ++ (match transaction.access with
      | .write data => data.map .send
      | .read count => [.start, .address transaction.device .read]
        ++ (List.range count).map fun k => .take (decide (k + 1 ≠ count)))
    ++ [.stop]

/-- A transaction on the bus from its start, at the present speed (R147). -/
def carriedOut (transaction : Transaction) (s : State) : InFlight :=
  { transaction := transaction, speed := s.params.bridgeSpeed, actions := onTheWire transaction }

/-- A script entry on the bus whose step has been left runs on by itself (R157). -/
def InFlight.unawaited (f : InFlight) : InFlight :=
  match f.transaction.claimant with
  | .script step index _ => { f with transaction.claimant := .script step index false }
  | _ => f

/-- What R151 has the bridge send on a bus whose data line is low: nine clock pulses and a stop condition, at this speed. -/
def ninePulses (speed : Nat) : BusRun :=
  { speed := speed, actions := [.pulse, .pulse, .pulse, .pulse, .pulse, .pulse, .pulse, .pulse, .pulse, .stop] }

/-- The recovery has been sent at the present speed (R151). -/
def recovered (s : State) : State := { s with bridge.bus := ninePulses s.params.bridgeSpeed :: s.bridge.bus }

/-- The actions of what stood on the bus, up to where a device held the clock or PART_RESET stopped it, and what followed (R146,
R148): the place is an open value, before the last action (log 36). -/
def cutOnWire (s : State) (actions : List BusAction) (last : BusAction) : List BusAction :=
  actions.take (min (Config.cutActions s.freeSeq) (actions.length - 1)) ++ [last]

/-- A transaction on the bus by the way it ends (R147, R148): whole when it is DONE; otherwise up to the address or the byte refused,
behind which the stop condition follows at once: the address with the write direction is the second action, behind it come the
numbered bytes, and then, in a READ, the start and the address with the read direction. -/
def endOnWire (f : InFlight) (o : BusEnd) : List BusAction :=
  let register := if f.transaction.reg.wide then 2 else 1
  match o with
  | .done _ => f.actions
  | .nackAddress .write => f.actions.take 2 ++ [.stop]
  | .nackData index => f.actions.take (2 + (index + 1)) ++ [.stop]
  | .nackAddress .read => f.actions.take (2 + register + 2) ++ [.stop]

/-- The bus is free again after this transaction, having carried these actions (R148). -/
def busFreed (f : InFlight) (actions : List BusAction) (s : State) : State :=
  { s with
    bridge.state := .idle, bridge.inFlight := none, bridge.bus := { speed := f.speed, actions := actions } :: s.bridge.bus }

/-- How the transaction in flight ends: by BUS_TRANSACTION_END with an outcome it can have, or by BUS_CLOCK_TIMEOUT, which uses a free
value; with the outcome, the bytes taken, and the state with the bus free (R148). -/
def EndsTransaction (s : State) (f : InFlight) (c : Instr) (outcome : BusOutcome) (data : List Byte) (freed : State) : Prop :=
  (∃ o, c = .busTransactionEnd o ∧ outcomePossible f.transaction o = true ∧ outcome = busOutcomeOf o ∧ data = busDataOf o
    ∧ freed = busFreed f (endOnWire f o) s)
  ∨ c = .busClockTimeout ∧ outcome = .timeout ∧ data = []
    ∧ freed = { busFreed f (cutOnWire s f.actions .release) s with freeSeq := s.freeSeq + 1 }

/-- The bus starts this transaction, the data line found high, or freed by the recovery (R147, R151). -/
def onBus (transaction : Transaction) (s : State) : State :=
  let free := if Config.dataLine s.freeSeq = .freed then recovered s else s
  { free with freeSeq := s.freeSeq + 1, bridge.state := .busy, bridge.inFlight := some (carriedOut transaction s) }

/-! ### Script entries handed over (R150, R156, R157) -/

/-- How a script index ends at its hand-over, in the code of its SCRIPT_RESULT, or none where its entry waits for the bus: NO_ENTRY
where BRIDGE_SCRIPT does not hold it, BLOCKED where its address is not in BRIDGE_ALLOW, BUS_STUCK in FAULT (codes: log 24). -/
def handOverRefused (s : State) (index : Nat) : Option Nat :=
  match s.tables.bridgeScript.seen[index]? with
  | none => some 6
  | some e => if e.device ∉ s.tables.bridgeAllow.seen then some 5 else if s.bridge.state = .fault then some 4 else none

/-- These indices have been handed to the bridge, one after another: those that end at their hand-over are reported, up to the first
whose entry waits for the bus as the SCRIPT claim, and those behind it are still to be handed over. -/
def scriptsPresented (indices : List Nat) (s : State) : State :=
  let ends := fun index => (handOverRefused s index).isSome
  let told := (indices.takeWhile ends).foldl (fun u index =>
    queueReport .scriptResult [byteOf s.seq.step, byteOf index, byteOf ((handOverRefused s index).getD 0), 0#8] u) s
  match indices.dropWhile ends with
  | [] => { told with seq.scriptLeft := [] }
  | index :: after => { told with
      seq.scriptLeft := after,
      bridge.waitingScript := (s.tables.bridgeScript.seen[index]?).map fun e =>
        { claimant := .script s.seq.step index true, device := e.device, reg := e.reg, access := .write e.data } }

/-! ### The bus is served (R150, R151, R153) -/

/-- The claimant is told that its transaction ended with the outcome of this code: of the three, a script entry is reported at
once (R157). -/
def claimEnded (transaction : Transaction) (code : Byte) (s : State) : State :=
  match transaction.claimant with
  | .script step index _ => queueReport .scriptResult [byteOf step, byteOf index, code, 0#8] s
  | _ => s

/-- The line is still low behind the recovery for this transaction, and the bridge is in FAULT: the claimant is told BUS_STUCK,
BRIDGE_FAULT is reported, and every claim waiting fails with BUS_STUCK, the POLL, the SCRIPT, the relays, whose replies are due, or
are discarded while Link Out is unlocked (R151, R171). The script's indices that were still to be handed over fail at their hand-over,
last (log 31). -/
def faultEntered (transaction : Transaction) (s : State) : State :=
  let claimant : Byte := match transaction.claimant with
    | .poll _ _ _ => 0#8
    | .script _ _ _ => 1#8
    | .relay => 2#8
  let told := queueReport .bridgeFault [claimant, byteOf transaction.device] (claimEnded transaction 4#8
    { recovered s with freeSeq := s.freeSeq + 1, bridge.state := .fault, bridge.inFlight := none })
  let failed := match s.bridge.waitingScript with
    | some waiting => claimEnded waiting 4#8 told
    | none => told
  scriptsPresented s.seq.scriptLeft { failed with
    bridge.waitingPoll := none, bridge.waitingScript := none,
    bridge.relays := if s.out.locked
      then s.bridge.relays.map fun q => if q.state = .waiting then { q with state := .replyWaiting .busStuck [] } else q
      else s.bridge.relays.filter fun q => decide (q.state ≠ .waiting) }

/-- This transaction has been selected for a free bus: it is on the bus in the last state, or, where the line stays low, the bridge
has entered FAULT from the first (R151). -/
def busGiven (transaction : Transaction) (claimed goes : State) : State :=
  match Config.dataLine claimed.freeSeq with
  | .stuck => faultEntered transaction claimed
  | _ => onBus transaction goes

/-- The bus of the first state is served, and the second one is what that leaves. A bus that is not IDLE is not given to anyone; an
IDLE one is given to the POLL, then the SCRIPT, then the oldest relay, the last two passed over in READOUT, and where none of them
may start nothing changes (R153). A claim whose address is no longer allowed ends BLOCKED at its selection, the bus stays free, and
the bus is served again at once: the POLL is withdrawn, the script entry is reported and the next index handed over, the relay's
reply is due (R150, R155, R157; code: log 24), or discarded while Link Out is unlocked (R171). -/
inductive BusServed : State → State → Prop
  | kept {s : State} (taken : s.bridge.state ≠ .idle) : BusServed s s
  | unclaimed {s : State} (free : s.bridge.state = .idle) (poll : s.bridge.waitingPoll = none)
      (others : s.seq.phase = .readout ∨ s.bridge.waitingScript = none ∧ ∀ q ∈ s.bridge.relays, q.state ≠ .waiting) :
      BusServed s s
  | poll {s : State} {p : Transaction} (free : s.bridge.state = .idle) (claim : s.bridge.waitingPoll = some p)
      (allowed : p.device ∈ s.tables.bridgeAllow.seen) :
      BusServed s (busGiven p { s with bridge.waitingPoll := none } { s with bridge.waitingPoll := none })
  | pollBlocked {s t : State} {p : Transaction} (free : s.bridge.state = .idle) (claim : s.bridge.waitingPoll = some p)
      (blocked : p.device ∉ s.tables.bridgeAllow.seen) (next : BusServed { s with bridge.waitingPoll := none } t) : BusServed s t
  | script {s : State} {p : Transaction} (free : s.bridge.state = .idle) (poll : s.bridge.waitingPoll = none)
      (gate : s.seq.phase ≠ .readout) (claim : s.bridge.waitingScript = some p) (allowed : p.device ∈ s.tables.bridgeAllow.seen) :
      BusServed s (busGiven p { s with bridge.waitingScript := none } { s with bridge.waitingScript := none })
  | scriptBlocked {s t : State} {p : Transaction} (free : s.bridge.state = .idle) (poll : s.bridge.waitingPoll = none)
      (gate : s.seq.phase ≠ .readout) (claim : s.bridge.waitingScript = some p) (blocked : p.device ∉ s.tables.bridgeAllow.seen)
      (next : BusServed (scriptsPresented s.seq.scriptLeft (claimEnded p 5#8 { s with bridge.waitingScript := none })) t) :
      BusServed s t
  | relay {s : State} {q : Relay} {before after : List Relay} (free : s.bridge.state = .idle) (poll : s.bridge.waitingPoll = none)
      (gate : s.seq.phase ≠ .readout) (script : s.bridge.waitingScript = none) (relays : s.bridge.relays = before ++ q :: after)
      (waits : q.state = .waiting) (oldest : ∀ b ∈ before, b.state ≠ .waiting) (allowed : q.device ∈ s.tables.bridgeAllow.seen) :
      BusServed s (busGiven { claimant := .relay, device := q.device, reg := q.reg, access := q.access } s
        { s with bridge.relays := before ++ { q with state := .onBus } :: after })
  | relayBlocked {s t : State} {q : Relay} {before after : List Relay} (free : s.bridge.state = .idle)
      (poll : s.bridge.waitingPoll = none) (gate : s.seq.phase ≠ .readout) (script : s.bridge.waitingScript = none)
      (relays : s.bridge.relays = before ++ q :: after) (waits : q.state = .waiting) (oldest : ∀ b ∈ before, b.state ≠ .waiting)
      (blocked : q.device ∉ s.tables.bridgeAllow.seen)
      (next : BusServed { s with
        bridge.relays := if s.out.locked then before ++ { q with state := .replyWaiting .blocked [] } :: after
          else before ++ after } t) : BusServed s t

/-- The bridge, the script run and the traffic queued are the same in t as in s. -/
structure SameBus (s t : State) : Prop where
  bridge : t.bridge = s.bridge
  indices : t.seq.scriptLeft = s.seq.scriptLeft
  queued : queuedTraffic t = queuedTraffic s
  lost : t.port.lostReports = s.port.lostReports

/-! ### WAIT, and an exposure that begins (R7 to R9) -/

/-- EXPOSE has been entered for this step, its poll still to be claimed (R9, R24, R37, R159). -/
def exposing (st : PlanStep) (s : State) : State :=
  { s with
    seq := { s.seq with
      phase := .expose, gapTimer := none, exposureTimer := some (s.now + st.exposure), exposureNumber := s.seq.exposureNumber + 1,
      exposeStart := s.now, pollDone := false,
      pollAt := if s.params.tempSource = .sensorRegister then some (s.now + (st.exposure - s.params.pollLead * 1000))
        else none },
    log.openRecord := some {
      index := s.log.closed.length + 1, kind := st.kind, step := s.seq.step, outcome := none, frameCounter := none,
      commandedUs := st.exposure, heldUs := 0, exposedUs := none, exposureSource := none, tempState := none,
      temperature := none, scale := none, admitted := 0, rejected := 0, saturated := 0, excluded := 0, lost := 0,
      outliers := 0, clamped := 0, extraLines := 0, trails := 0, unattributed := 0, vetoFull := false,
      trailQueueFull := false, scaleSaturated := false, feedbackMissing := false },
    meas := { armed := true, startCapture := none, endCapture := none } }

/-- No poll is claimed at the very entry to EXPOSE of this step (R159). -/
def pollLater (st : PlanStep) (s : State) : Prop :=
  s.params.tempSource = .sensorRegister → s.params.pollLead * 1000 < st.exposure

/-- The poll of the exposure of s has been claimed, and v is what that leaves (R150, R153, R159). An earlier poll that still waits is
withdrawn. The claim ends at its presentation, BLOCKED where its address is not in BRIDGE_ALLOW and BUS_STUCK in FAULT, and else
waits for the bus, which is served. -/
def PollClaimed (s v : State) : Prop :=
  let withdrawn := { s with seq.pollAt := none, bridge.waitingPoll := none }
  let poll : Transaction :=
    { claimant := .poll s.seq.exposureNumber s.params.pollGain s.params.pollOffset, device := s.params.pollDevice,
      reg := s.params.pollRegister, access := .read 2 }
  if poll.device ∉ s.tables.bridgeAllow.seen ∨ s.bridge.state = .fault then v = withdrawn
  else BusServed { withdrawn with bridge.waitingPoll := some poll } v

/-- EXPOSE of this step has been entered from s, and v is what that leaves: its poll is claimed at once where its exposure is not
longer than poll_lead (R9, R159). -/
def ExposeEntered (st : PlanStep) (s v : State) : Prop :=
  (pollLater st s → v = exposing st s) ∧ (¬ pollLater st s → PollClaimed (exposing st s) v)

/-- WAIT of this step has been entered from s, and v is what that leaves: an EXTERNAL step waits for its trigger, an INTERNAL one for
its gap, and with a gap of 0 enters EXPOSE at once (R8). -/
def WaitEntered (st : PlanStep) (s v : State) : Prop :=
  match st.cadence with
  | .external => v = { s with seq.phase := .wait, seq.gapTimer := none }
  | .internal =>
    if st.gap = 0 then ExposeEntered st s v else v = { s with seq.phase := .wait, seq.gapTimer := some (s.now + st.gap) }

/-- The phase, its timers, the exposure and its poll stand in t as in s, and so do the bridge and the traffic queued. -/
structure SameRun (s t : State) : Prop where
  bus : SameBus s t
  phase : t.seq.phase = s.seq.phase
  gapTimer : t.seq.gapTimer = s.seq.gapTimer
  exposureTimer : t.seq.exposureTimer = s.seq.exposureTimer
  exposure : t.seq.exposureNumber = s.seq.exposureNumber ∧ t.seq.exposeStart = s.seq.exposeStart
  poll : t.seq.pollAt = s.seq.pollAt ∧ t.seq.pollDone = s.seq.pollDone

/-- STEP_START of this step has been entered from s, and its event has ended in t: the step's script indices, script_first on,
script_count of them, have been handed over, and v is what serving the bus has left. STEP_START stands while a script entry has not
ended; while it stands the bridge is as it is in v, and once it has been left WAIT has been entered from v, and EXPOSE for a gap of
0, its immediate poll claimed (R7, R8, R9, R150, R151, R153, R157, R159). -/
structure StepScripted (st : PlanStep) (s v t : State) : Prop where
  served : BusServed (scriptsPresented (List.range' st.scriptFirst st.scriptCount) { s with seq.phase := .stepStart }) v
  stands : scriptsEnded v = false → t.seq.phase = .stepStart
  same : t.seq.phase = .stepStart → SameBus v t
  leaves : t.seq.phase ≠ .stepStart → ∃ w, WaitEntered st v w ∧ SameRun w t
  queued : queuedTraffic v <+: queuedTraffic t

/-! ### The end of a transaction (R148) -/

/-- The claimant of the transaction in flight has been told how it ended, and u is what that leaves. A DONE poll sets the last good
temperature, its two bytes converted, rounded and clamped, and counts as the poll of its own exposure alone (R160, R161). A script
entry is reported unless DONE, and while its step waits for it the indices behind it are handed over (R157). The relay on the bus
has its outcome and the bytes read, and its reply is due, or is discarded while Link Out is unlocked (R155, R171). -/
def ClaimantTold (f : InFlight) (outcome : BusOutcome) (data : List Byte) (freed u : State) : Prop :=
  match f.transaction.claimant with
  | .poll k gain offset => u = if outcome = .done then { freed with
        bridge.lastGood := some (clampInt (-160) 340 (roundDiv (readSigned2 data 0 * gain) 256 + offset)),
        seq.pollDone := freed.seq.pollDone || decide (freed.seq.exposureNumber = k) }
      else freed
  | .script step index live =>
    let told := if outcome = .done then freed
      else queueReport .scriptResult [byteOf step, byteOf index, byteOf outcome.code, byteOf outcome.byteIndex] freed
    u = if live then scriptsPresented freed.seq.scriptLeft told else told
  | .relay =>
    (∀ before q after, freed.bridge.relays = before ++ q :: after → q.state = .onBus → (∀ b ∈ before, b.state ≠ .onBus) →
      u = { freed with bridge.relays :=
        if freed.out.locked then before ++ { q with state := .replyWaiting outcome data } :: after else before ++ after })
    ∧ ((∀ q ∈ freed.bridge.relays, q.state ≠ .onBus) → u = freed)

/-! ### The Line FIFO -/

/-- The entry has joined the Line FIFO (R58). Where that leaves the occupancy at the drop level or above with an entry PENDING, every
PENDING entry becomes ABANDONED, the frames that had one are truncated, and later lines of such a frame are not forwarded (R62).
Entries done with both consumers leave, oldest first (R60). -/
def pushed (e : FifoEntry) (s : State) : State :=
  let all := s.fifo.entries ++ [e]
  let waits := fun number : Nat => all.any fun x => decide (x.forward = .pending ∧ x.frame = some number)
  let drops : Prop := s.params.forwardDropLevel ≤ all.length ∧ ∃ x ∈ all, x.forward = .pending
  let left := if drops then all.map fun x => if x.forward = .pending then { x with forward := .abandoned } else x else all
  { s with
    fifo := { s.fifo with
      nextEntry := s.fifo.nextEntry + 1,
      entries := left.dropWhile fun x => x.ingestDone && decide (x.forward ≠ .pending),
      frames := if drops then s.fifo.frames.map fun g => if waits g.number then { g with truncated := true } else g
        else s.fifo.frames },
    link.forwarding := match s.link.forwarding with
      | .frame number => if drops ∧ waits number = true then .abandoned else .frame number
      | forwarding => forwarding }

/-- The entry of a line with these samples, or of a lost row: PENDING with its frame where its frame is forwarded and it has
samples, NOT_REQUESTED otherwise; a STRAY one has no ingest to wait for (R51, R53, R60, R61). -/
def lineEntry (row : Nat) (pixels : Option (List Nat)) (cls : LineClass) (s : State) : FifoEntry :=
  let frame := match s.link.forwarding with
    | .frame number => some number
    | _ => none
  { number := s.fifo.nextEntry, row := row, pixels := pixels, cls := cls, ingestDone := decide (cls = .stray),
    forward := if pixels.isSome && frame.isSome then .pending else .notRequested, frame := frame }

/-- These are what stood before, but that the first may have gone, its FRAME_END having begun on the lane (R61, R164). -/
def AtMostFirstEnded {α : Type} (inProgress : Option LanePacket) (before after : List α) : Prop :=
  after = before ∨ after = before.tail ∧ ∃ sent truncated, inProgress = some (.rawEnd sent truncated)

/-! ### A readout that opens and ends -/

/-- The plane has been granted to the ingest of the exposure of s, whose record is q and whose step is st, with this much time in HOLD
to add: EXPOSE is released, the record has its temperature, the readout is open with every row UNSEEN and its timer running, the
defect cursor stands at the first entry of DEFECTS that is not ignored, and the detector is open for a light subframe (R10 to R12,
R39, R54, R68, R69, R107, R114, R161). -/
structure ReadoutOpened (q : SubframeRecord) (st : PlanStep) (held : Nat) (s t : State) : Prop where
  seq : t.seq = { s.seq with
    phase := .readout, exposureTimer := none, extensionTimer := none, pollAt := none, holdStart := t.seq.holdStart,
    lineTime := q.commandedUs + q.heldUs + held, readoutTimer := some (t.now + s.params.readoutTimeout * 1000) }
  signals : signalExpose t = false ∧ signalReadout t = true
  arb : t.arb = { holder := .ingest, waiting := .none }
  link : t.link = { s.link with
    readout := some { kind := q.kind, forward := st.forward, seenFrame := false }, rowMap := [],
    forwarding := t.link.forwarding }
  log : t.log = { s.log with openRecord := some { q with
    heldUs := q.heldUs + held, temperature := sensorTemperature s, tempState := some (sensorTempState s) } }
  cursor : t.cal = { s.cal with cursor := (s.tables.defects.seen.takeWhile fun d =>
    decide (s.settings.height ≤ d.row ∨ s.settings.width ≤ d.column)).length }
  light : q.kind = .light → t.trails = { s.trails with current.index := some (subframeIndex s), counter := 1 }
  dark : q.kind = .dark → t.trails = s.trails
  plane : t.plane = s.plane

/-- The open record with its exposure decided: from the captures, or from LINE_TIME (R38). -/
def exposureDecided (lineTime : Nat) (s : State) (q : SubframeRecord) : SubframeRecord :=
  match feedbackTime s.meas with
  | some us => { q with exposedUs := some (exposedRange us), exposureSource := some .feedback }
  | none => { q with
      exposedUs := some (exposedRange lineTime), exposureSource := some .lineTime,
      feedbackMissing := hasFunction .expFeedback s.tables.lines.seen }

/-- READOUT has ended from s, and the bus has been served at its end, a claim passed over in READOUT among the others: it may start now.
The bridge is as it was where the bus is not free or no claim waits (R150, R153). -/
def ReadoutFreesBus (s t : State) : Prop := ∃ v, BusServed { s with seq.phase := .settle } v ∧ SameBus v t

/-- The readout of s has ended in t, and nothing else has happened but what a claim passed over in READOUT does when it is
selected now (R12, R38, R55, R61, R153). -/
structure ReadoutEnded (s t : State) : Prop where
  seq : t.seq = { s.seq with phase := .settle, readoutTimer := none, scriptLeft := t.seq.scriptLeft }
  link : t.link = { s.link with readout := none, lastRow := none, frame := .none, forwarding := .no }
  closes : ∀ g ∈ t.fifo.frames, s.link.forwarding = .frame g.number → g.isOpen = false
  meas : t.meas = { s.meas with armed := false }
  closed : t.log.closed = s.log.closed
  openRecord : t.log.openRecord = if s.meas.armed then s.log.openRecord.map (exposureDecided s.seq.lineTime s)
    else s.log.openRecord
  kept : t.fifo.entries = s.fifo.entries ∧ t.plane = s.plane ∧ t.arb = s.arb ∧ t.cal = s.cal ∧ t.trails = s.trails
    ∧ t.render.state = s.render.state ∧ t.temps = s.temps ∧ t.heater = s.heater ∧ t.tables = s.tables
    ∧ t.params = s.params ∧ t.settings = s.settings ∧ t.port.requests = s.port.requests ∧ t.now = s.now
  bus : ReadoutFreesBus s t

/-! ### One row through the Calibration Unit and the Accumulator -/

/-- What the entries at and behind the defect cursor say of a pixel; an entry outside the geometry says nothing (R68, R69). -/
def defectAt (s : State) (row column : Nat) : Option DefectMethod :=
  if row < s.settings.height then
    ((s.tables.defects.seen.drop s.cal.cursor).find? fun d => decide (d.row = row ∧ d.column = column)).map Defect.method
  else none

/-- The rounded mean of the raw samples two columns away, or the one there is (R70). -/
def neighbourMean (pixels : List Nat) (column : Nat) : Nat :=
  let near := (if 2 ≤ column then pixels[column - 2]?.toList else []) ++ pixels[column + 2]?.toList
  (2 * near.sum + near.length) / (2 * near.length)

/-- The raw value of a sample once it has passed the defect stage and the region stage, or none where one of them takes it out as
excluded (R70 to R72). -/
def passedSample (s : State) (row : Nat) (pixels : List Nat) (column : Nat) : Option Nat :=
  if defectAt s row column = some .exclude ∨ (pixelPolicy s.settings row column).mode = .exclude then none
  else if defectAt s row column = some .substitute then some (neighbourMean pixels column)
  else pixels[column]?

/-- The address of a pixel's record: row-major (R86). -/
def pixelAt (s : State) (row column : Nat) : Nat := row * s.settings.width + column

/-- The dark contribution to a light sample of this record (R82, R83). -/
def darkShare (s : State) (px : Pixel) : Int :=
  match s.cal.scale with
  | none => 0
  | some scale => if px.darkN = 0 then 0 else roundDiv (scale * max 0 (roundDiv (16 * px.darkSum) px.darkN)) 65536

/-- y before its clamp, of a sample x at a pixel (R83). -/
def unclampedValue (s : State) (row column x : Nat) : Int :=
  (x : Int) - s.params.blackLevel - darkShare s (readPixel s (pixelAt s row column))

/-- The visit a light sample x makes to its record: marked saturated, or with its clamped y (R73, R83, R84). -/
def lightVisit (s : State) (subframe row column x : Nat) : Visit :=
  let policy := pixelPolicy s.settings row column
  visitLight policy (isVetoed s.settings s.trails policy row column) subframe (readPixel s (pixelAt s row column))
    (if s.params.satLevel ≤ x then none else some (max (-4096) (min 16383 (unclampedValue s row column x))))

/-- Ingest has finished, oldest first, the entries of the subframe that were left in the first state, each as INGEST_ENTRY takes it, and
the second state is what that leaves: the first stage of SETTLE (R13, R59; log 13). -/
inductive IngestFinished : State → State → Prop
  | done {s : State} (finished : ∀ e ∈ s.fifo.entries, e.cls = .subframe → e.ingestDone = true) : IngestFinished s s
  | next {s u : State} {before after : List FifoEntry} {e : FifoEntry} (entries : s.fifo.entries = before ++ e :: after)
      (subframe : e.cls = .subframe) (left : e.ingestDone = false)
      (oldest : ∀ b ∈ before, b.cls = .subframe → b.ingestDone = true) (rest : IngestFinished (ingestNext s) u) :
      IngestFinished s u

/-- A peak once the pending value is settled: a value not vetoed and above the peak becomes the peak (R97). -/
def settledPeak (vetoed : Nat → Bool) (px : Pixel) : Option Int :=
  match px.pending with
  | none => px.peak
  | some (v, subframe) => if vetoed subframe = false ∧ (∀ peak ∈ px.peak, peak < v) then some v else px.peak

/-- The segment of a group of flagged columns, leftmost first (R117). -/
def spanOf (group : List (Nat × Region)) : Segment :=
  { left := (group.head?.map Prod.fst).getD 0, right := (group.getLast?.map Prod.fst).getD 0, flagged := group.length,
    sky := group.any fun f => decide (f.2 = .sky), ground := group.any fun f => decide (f.2 = .ground) }

/-! ### Invariants -/

/-- The queues, the lists and the counters that no plan bounds stay within theirs: R15, R24, R51, R58, R112, R121, R123 to R125,
R130, R154, R164, R166, R173. -/
structure WithinBounds (s : State) : Prop where
  fifo : s.fifo.entries.length ≤ 48
  outQueue : s.out.queue.length ≤ 16
  rawRun : s.out.rawRun ≤ 32
  requests : s.port.requests.length ≤ 8
  relays : s.bridge.relays.length ≤ 4
  openTrails : s.trails.openTrails.length ≤ 16
  currentVeto : s.trails.current.boxes.length ≤ 16
  previousVeto : s.trails.previous.boxes.length ≤ 16
  trailQueue : s.trails.queue.length ≤ 32
  trailNumber : s.trails.counter ≤ 256
  strays : s.link.strayCount ≤ 65535
  frameIds : s.render.nextId ≤ 65535 ∧ s.render.frameId ≤ 65535
  autoCount : s.seq.autoCount = 0 ∨ s.seq.autoCount < s.params.autoPreview
  unattributed : ∀ q ∈ s.log.records, q.unattributed ≤ 4095

/-- The dark records of a list. -/
def darkRecords (records : List SubframeRecord) : Nat := records.countP fun q => decide (q.kind = .dark)

/-- From TAKE_START until the take ends, PLAN stands closed, and what it still asks for beyond the position fits the log behind what
is closed (R2, R4, R14, R66, R75, R179). -/
structure PlanUnderWay (s : State) : Prop where
  loaded : s.tables.plan.state ≠ .loading
  within : ∀ st, s.tables.plan.seen[s.seq.step]? = some st → s.seq.count < st.count
  room : s.log.closed.length + plannedSubframes (s.tables.plan.seen.drop s.seq.step) ≤ 4096 + s.seq.count
  darkRoom : darkRecords s.log.closed + plannedDarks (s.tables.plan.seen.drop s.seq.step)
    ≤ 255 + if ∃ st, s.tables.plan.seen[s.seq.step]? = some st ∧ st.kind = .dark then s.seq.count else 0
  summaries : s.cal.darkCount ≤ darkRecords s.log.closed

/-- The plan position, the Subframe Log, the dark count and the heater duty stay in their ranges, an open record is of the kind of its
step, and a take under way leaves room for the rest of its plan: R2, R23, R24, R43, R75. -/
structure TakeWithinPlan (s : State) : Prop where
  position : s.seq.step ≤ 16 ∧ s.seq.count ≤ 4095
  log : s.log.records.length ≤ 4096
  darks : darkRecords s.log.records ≤ 255
  darkCount : s.cal.darkCount ≤ 255
  duty : s.heater.duty ≤ 256
  opened : ∀ q, s.log.openRecord = some q → ∃ st, s.tables.plan.seen[s.seq.step]? = some st ∧ q.kind = st.kind
  underWay : s.seq.takeState ∉ [.noTake, .aborted, .finished] → PlanUnderWay s

/-- The ranges of the table of 10.4 and of R158. -/
structure Params.InRange (p : Params) : Prop where
  width : 256 ≤ p.width ∧ p.width ≤ 8192 ∧ p.width % 2 = 0
  height : 128 ≤ p.height ∧ p.height ≤ 6144 ∧ p.height % 2 = 0
  blackLevel : p.blackLevel ≤ 4095
  satLevel : 1 ≤ p.satLevel ∧ p.satLevel ≤ 16383
  gapCols : p.gapCols ≤ 7
  segMin : 1 ≤ p.segMin ∧ p.segMin ≤ 64
  gapRows : p.gapRows ≤ 7
  margin : p.margin ≤ 16
  minExtent : 16 ≤ p.minExtent ∧ p.minExtent ≤ 4096
  pedestal : p.pedestal ≤ 4095
  readoutTimeout : 50 ≤ p.readoutTimeout ∧ p.readoutTimeout ≤ 5000
  maxExtension : p.maxExtension ≤ 60000000
  forwardDropLevel : 16 ≤ p.forwardDropLevel ∧ p.forwardDropLevel ≤ 48
  autoPreview : p.autoPreview ≤ 255
  shutterSettle : p.shutterSettle ≤ 10000
  pollDevice : p.pollDevice ≤ 127
  pollRegister : p.pollRegister.fits = true
  pollGain : -32768 ≤ p.pollGain ∧ p.pollGain ≤ 32767
  pollOffset : -160 ≤ p.pollOffset ∧ p.pollOffset ≤ 340
  pollLead : 1 ≤ p.pollLead ∧ p.pollLead ≤ 1000
  bridgeSpeed : p.bridgeSpeed = 100 ∨ p.bridgeSpeed = 400

/-- The recorded frame settings hold a width, a height and a margin that the parameters can have (R183, 10.4). -/
structure TakeSettings.InRange (t : TakeSettings) : Prop where
  width : 256 ≤ t.width ∧ t.width ≤ 8192 ∧ t.width % 2 = 0
  height : 128 ≤ t.height ∧ t.height ≤ 6144 ∧ t.height % 2 = 0
  margin : t.margin ≤ 16

/-- A table holds at most its capacity, nothing while EMPTY, and something while READY (R178). -/
structure Table.Sound {α : Type} (capacity : Nat) (t : Table α) : Prop where
  length : t.entries.length ≤ capacity
  empty : t.state = .empty → t.entries = []
  ready : t.state = .ready → t.entries ≠ []

/-- What the entry checks of the eleven tables keep true of what they hold (R3, R25, R42, R67, R78, R89, R91, R149, R156). -/
structure Tables.Sound (t : Tables) : Prop where
  plan : Table.Sound 16 t.plan ∧ ∀ e ∈ t.plan.entries, e.inRange = true
  defects : Table.Sound 4096 t.defects ∧ (∀ e ∈ t.defects.entries, e.inRange = true)
    ∧ t.defects.entries.Pairwise (fun p e => p.less e = true)
  horizon : Table.Sound 64 t.horizon ∧ (∀ e ∈ t.horizon.entries, e.inRange = true)
    ∧ t.horizon.entries.Pairwise (fun p e => p.column < e.column) ∧ ∀ v ∈ t.horizon.entries.head?, v.column = 0
  regions : Table.Sound 2 t.regions ∧ (∀ e ∈ t.regions.entries, e.inRange = true)
    ∧ t.regions.entries.Pairwise (fun p e => p.region ≠ e.region)
  darkModel : Table.Sound 16 t.darkModel ∧ (∀ e ∈ t.darkModel.entries, darkPointInRange e = true)
    ∧ t.darkModel.entries.Pairwise (fun p e => p.x < e.x)
  lines : Table.Sound 6 t.lines ∧ (∀ e ∈ t.lines.entries, e.inRange = true)
    ∧ t.lines.entries.Pairwise (fun p e => p.clash e = false)
  heaterCurve : Table.Sound 8 t.heaterCurve ∧ (∀ e ∈ t.heaterCurve.entries, heaterPointInRange e = true)
    ∧ t.heaterCurve.entries.Pairwise (fun p e => p.x < e.x)
  adcCurve0 : Table.Sound 16 t.adcCurve0 ∧ (∀ e ∈ t.adcCurve0.entries, adcPointInRange e = true)
    ∧ t.adcCurve0.entries.Pairwise (fun p e => p.x < e.x)
  adcCurve1 : Table.Sound 16 t.adcCurve1 ∧ (∀ e ∈ t.adcCurve1.entries, adcPointInRange e = true)
    ∧ t.adcCurve1.entries.Pairwise (fun p e => p.x < e.x)
  bridgeAllow : Table.Sound 8 t.bridgeAllow ∧ (∀ a ∈ t.bridgeAllow.entries, a ≤ 127) ∧ t.bridgeAllow.entries.Nodup
  bridgeScript : Table.Sound 32 t.bridgeScript ∧ ∀ e ∈ t.bridgeScript.entries, e.inRange = true

/-- The sparse arrays are in their canonical form, so that equal contents are equal data. -/
structure MemoryWf (s : State) : Prop where
  plane : Memory.wf Pixel.cleared s.plane = true
  rowMap : Memory.wf RowState.unseen s.link.rowMap = true

/-- While Link Out is unlocked nothing waits to be sent, no request is held, no render is in hand, and no line waits to be
forwarded (R170, R171, R134). -/
structure QuietWhileUnlocked (s : State) : Prop where
  queue : s.out.locked = false → s.out.queue = []
  inProgress : s.out.locked = false → s.out.inProgress = none
  renderQueue : s.out.locked = false → s.out.renderQueue = []
  flow : s.out.locked = false → s.out.flowWaiting = none
  hold : s.out.locked = false → s.out.held = false
  requests : s.out.locked = false → s.port.requests = []
  mark : s.out.locked = false → s.port.waiting = none
  frames : s.out.locked = false → s.fifo.frames = []
  render : s.out.locked = false → s.render.state = .idle
  claim : s.out.locked = false → s.arb.waiting ≠ .render
  entries : s.out.locked = false → ∀ e ∈ s.fifo.entries, e.forward ≠ .pending
  forwarding : s.out.locked = false → ∀ n, s.link.forwarding ≠ .frame n

/-- The plane of a take state: valid or not by the table of 1.1. -/
def TakeState.planeValid : TakeState → Bool
  | .running => true | .paused => true | .complete => true | .finishing => true | .finished => true | _ => false

/-- The ranges of the table of 5.1 that hold of each record by itself (R85, R94). -/
structure Pixel.InRange (px : Pixel) : Prop where
  n : px.n ≤ 4095
  sat : px.sat ≤ 4095
  mean : -65536 ≤ px.m16 ∧ px.m16 ≤ 262128
  unfolded : px.n = 0 → px.m16 = 0 ∧ px.m2 = 0
  peak : ∀ v ∈ px.peak, -4096 ≤ v ∧ v ≤ 16383
  pending : ∀ v ∈ px.pending, -4096 ≤ v.1 ∧ v.1 ≤ 16383

/-- Every record of the plane is in its ranges, and the recorded fades are in theirs (R85, R91, R183). -/
structure PlaneSound (s : State) : Prop where
  tables : Tables.Sound s.tables
  fades : (1 ≤ s.settings.sky.fade ∧ s.settings.sky.fade ≤ 255) ∧ (1 ≤ s.settings.ground.fade ∧ s.settings.ground.fade ≤ 255)
  records : ∀ e ∈ s.plane, e.2.InRange

/-- No source has a packet due: no RAW packet, no queued one, no render packet (R163). -/
def NothingOffered (s : State) : Prop :=
  s.out.queue = [] ∧ s.out.renderQueue = [] ∧ ∀ g ∈ s.fifo.frames.head?, g.startBegun = true ∧ g.truncated = false
    ∧ g.isOpen = true ∧ ∀ e ∈ s.fifo.entries, ¬ (e.forward = .pending ∧ e.frame = some g.number)

/-- Link Out is LOCKED, the hold is CLEAR and no packet is in progress. -/
def LaneIdle (s : State) : Prop := s.out.locked = true ∧ s.out.held = false ∧ s.out.inProgress = none

def RenderPacket.isLine : RenderPacket → Bool
  | .line _ _ _ => true
  | _ => false

/-- How many LINEs of the render in hand are at the Output Scheduler or on the lane. -/
def handedLines (s : State) : Nat := s.out.renderQueue.countP RenderPacket.isLine + boolCode (lineInProgress s)

/-- The Sequencer, the Plane Arbiter, the Render Unit and the Link Receiver agree on where the take stands. -/
structure Coherent (s : State) : Prop where
  /-- R1: the phase is NONE in every state but RUNNING. -/
  phase : s.seq.phase = .none ↔ s.seq.takeState ≠ .running
  /-- 1.1: the plane is valid in five of the eight take states. -/
  planeValid : s.seq.planeValid = s.seq.takeState.planeValid
  /-- R16: SHUTTER and STEP_LEVEL are inactive outside RUNNING and PAUSED. -/
  levels : s.seq.takeState.keepsLevels = false → s.seq.shutter = false ∧ s.seq.stepLevel = false
  /-- A phase timer runs only in its phase (R7 to R12). -/
  settleTimer : s.seq.settleTimer ≠ none → s.seq.phase = .stepStart
  gapTimer : s.seq.gapTimer ≠ none → s.seq.phase = .wait
  exposureTimer : s.seq.exposureTimer ≠ none → s.seq.phase = .expose
  extensionTimer : s.seq.extensionTimer ≠ none → s.seq.phase = .hold
  readoutTimer : s.seq.readoutTimer ≠ none → s.seq.phase = .readout
  /-- R12, R55: a readout is open exactly in READOUT. -/
  readout : s.link.readout ≠ none ↔ s.seq.phase = .readout
  /-- R13, R24: a record is open from EXPOSE entry to its close. -/
  openRecord : s.log.openRecord ≠ none ↔
    s.seq.phase = .expose ∨ s.seq.phase = .hold ∨ s.seq.phase = .readout ∨ s.seq.phase = .settle
  /-- R107: ingest holds the plane through READOUT and SETTLE. -/
  ingest : s.arb.holder = .ingest ↔ s.seq.phase = .readout ∨ s.seq.phase = .settle
  /-- R11: an ingest waits exactly in HOLD. -/
  held : s.arb.waiting = .ingest ↔ s.seq.phase = .hold
  /-- R105: CLEARING holds the plane in CLEARING. -/
  clearing : s.arb.holder = .clearing ↔ s.seq.takeState = .clearing
  /-- R130, R134: a render is ACTIVE when it holds the plane, and PENDING when its claim waits. -/
  active : s.render.state = .active ↔ s.arb.holder = .render
  pending : s.render.state = .pending ↔ s.arb.waiting = .render
  /-- R108: a waiting render is behind an ingest, and a waiting ingest behind a render. -/
  behindIngest : s.arb.waiting = .render → s.arb.holder = .ingest
  behindRender : s.arb.waiting = .ingest → s.arb.holder = .render
  /-- R133: a FINAL request is held only in FINISHING, behind a PREVIEW in hand. -/
  finalHeld : s.seq.finalHeld = true → s.seq.takeState = .finishing ∧ s.render.state ≠ .idle ∧ s.render.kind = .preview
  /-- R132, R133: a FINAL render is in hand only in FINISHING and FINISHED. -/
  finalInHand : s.render.state ≠ .idle → s.render.kind = .final → s.seq.takeState = .finishing ∨ s.seq.takeState = .finished
  /-- R20: FINISHING lasts as long as its FINAL request is held or its render is in hand. -/
  finishing : s.seq.takeState = .finishing → s.seq.finalHeld = true ∨ (s.render.state ≠ .idle ∧ s.render.kind = .final)
  /-- R48, R55: the subframe frame is in progress only within an open readout. -/
  subframe : s.link.frame = .subframe → s.link.readout ≠ none
  /-- R37: the capture window is open between EXPOSE entry and the end of the readout. -/
  armed : s.meas.armed = true → s.seq.phase = .expose ∨ s.seq.phase = .hold ∨ s.seq.phase = .readout
  /-- R140: at most one LINE is handed over, and only by an ACTIVE render. -/
  handed : handedLines s ≤ boolCode s.render.rowHanded
  handedActive : handedLines s ≠ 0 → s.render.state = .active

end Sys2Proof.Machine
end

