-- ==== Sys2Proof/Certificates/Slice0/Obligations.lean ====
section
/-! DEFINITION. The statements for the provers. Each docstring names the rules of spec/ a statement rests on, and the log entry
of any clause that is the model's choice. -/

section
open Sys2Proof Sys2Proof.Machine

/-! ### The block as a machine -/

/-- A step takes the command at the front of the queue and runs it with the queue's rest (the task's; log 37). On an empty
queue it is one tick of the 1 µs time base and nothing else (the model's choice, log 2). -/
def Obligations.StepRunsFrontCommand : Prop :=
  (∀ (c : Instr) (rest : List Instr) (s : State), s.pending = c :: rest → step s = exec c { s with pending := rest })
    ∧ ∀ s : State, s.pending = [] → step s = .next { s with now := s.now + 1 }

/-- Every command answers a next state in every state: no event stops the part (95: each step is whole; the stops the spec
knows are statuses of replies). That a command whose event cannot happen answers next too is the model's choice (log 4), and so
is that the commands that wait stay as they are (log 37), at POWER_ON and RESET_N as well (log 34). -/
def Obligations.EveryCommandAnswersNext : Prop :=
  ∀ (c : Instr) (s : State), ∃ t, exec c s = .next t ∧ t.pending = s.pending

/-! ### Power and reset -/

/-- POWER_ON and RESET_N leave what each chapter states of the part after them (R1, R2, R27, R40, R43, R64, R66, R104, R112,
R130, R146, R162, R178, R183, R185, table of 10.7), POWER_ON at the levels first sampled and RESET_N at the levels present.
That the commands that wait stay is the model's choice (log 34). -/
def Obligations.PowerOnAndResetNLeaveResetState : Prop :=
  ∀ (pins : BitVec 6) (s : State),
    (∃ t, exec (.powerOn pins) s = .next t ∧ AtPowerOn (fun l => pins.getLsbD l.val) t ∧ t.pending = s.pending)
    ∧ ∃ t, exec .resetN s = .next t ∧ AtPowerOn (fun l => (s.lines.get l).outside) t ∧ t.pending = s.pending

/-- The state after reset meets every invariant stated below, and what the spec states of reset. That State.reset takes every
pin as sampled low is the model's choice (log 11). -/
def Obligations.ResetMeetsInvariants : Prop :=
  AtPowerOn (fun _ => false) State.reset ∧ WithinBounds State.reset ∧ Coherent State.reset ∧ QuietWhileUnlocked State.reset
    ∧ Tables.Sound State.reset.tables ∧ Params.InRange State.reset.params ∧ MemoryWf State.reset ∧ PlaneSound State.reset
    ∧ TakeWithinPlan State.reset ∧ TakeSettings.InRange State.reset.settings

/-! ### Invariants of every step -/

/-- The Line FIFO, the queues of Link Out, requests, relays and trails, the open trails, the veto lists, the raw-run, trail,
stray, frame id, auto-preview and unattributed counts keep their bounds in every state (R15, R24, R51, R58, R112, R121, R123 to
R125, R130, R154, R164, R166, R173). So do the plan position, the Subframe Log of at most 4096 records, 255 of them dark, the
count of contributing darks and the heater duty, where the blocks agree on the take and the tables hold what their checks let
in: a take under way always leaves room in the log for the rest of its plan (R2, R4, R14, R23, R43, R75). -/
def Obligations.StepKeepsBounds : Prop :=
  (∀ s t : State, WithinBounds s → step s = .next t → WithinBounds t)
  ∧ ∀ s t : State, Coherent s → Tables.Sound s.tables → TakeWithinPlan s → step s = .next t → TakeWithinPlan t

/-- The take state, the phase, the timers, the open record, the plane's holder and waiting claim, the readout and the render
stay in step with one another (1.1, R1, R12, R16, R20, R104 to R108, R130, R133, R140). -/
def Obligations.StepKeepsCoherence : Prop := ∀ s t : State, Coherent s → step s = .next t → Coherent t

/-- While Link Out is unlocked nothing waits to be sent, no request is held and no render is in hand (R134, R170, R171). -/
def Obligations.StepKeepsQuietWhileUnlocked : Prop :=
  ∀ s t : State, Coherent s → QuietWhileUnlocked s → step s = .next t → QuietWhileUnlocked t

/-- Every table holds what its entry checks let in, in its order and within its capacity, and every parameter its range (R178,
R184 and the entry rules R3, R25, R42, R67, R78, R89, R91, R149, R156); and so do the width, the height and the margin that a
take has recorded (R183). -/
def Obligations.StepKeepsTablesAndParameters : Prop :=
  ∀ s t : State, Tables.Sound s.tables → Params.InRange s.params → step s = .next t →
    Tables.Sound t.tables ∧ Params.InRange t.params
      ∧ (TakeSettings.InRange s.settings → TakeSettings.InRange t.settings)

/-- The plane and the row-visited map keep their canonical form (log 10). -/
def Obligations.StepKeepsMemoryCanonical : Prop := ∀ s t : State, MemoryWf s → step s = .next t → MemoryWf t

/-- Every pixel record keeps the ranges of 5.1: n, sat, m16, peak and pending (R85, R94, R99, R101). -/
def Obligations.StepKeepsPixelRanges : Prop := ∀ s t : State, PlaneSound s → step s = .next t → PlaneSound t

/-! ### Requests: arrival and taking -/

/-- A whole request joins the Request Queue behind the newest, its CRC matching, its length field true and at most 60, and the
queue short of 8; raising the occupancy to 6 with the flag clear hands over HOLD_REQ, sent at once on a lane without a packet
in progress and waiting otherwise. Any other request leaves no trace, nor does one while Link Out is unlocked (R168, R173, R174
and 9.4). The CRC gives the two checks of R192. -/
def Obligations.RequestArrivalJoinsQueue : Prop :=
  (crc16 [0x00#8] = 0xE1F0#16
    ∧ crc16 [0x31#8, 0x32#8, 0x33#8, 0x34#8, 0x35#8, 0x36#8, 0x37#8, 0x38#8, 0x39#8] = 0x29B1#16)
  ∧ ∀ (tag kind length : Byte) (payload : List Byte) (crc : Half) (s : State),
    let whole := s.out.locked = true ∧ crc16 (requestBytes tag kind length payload) = crc ∧ length.toNat = payload.length
      ∧ length.toNat ≤ 60 ∧ s.port.requests.length < 8
    let joined := { s with port.requests := s.port.requests ++ [{ tag := tag, kind := kind, payload := payload }] }
    let marks := s.port.requests.length = 5 ∧ s.port.holdReqSent = false
    (whole → ∃ t, exec (.requestArrival tag kind length payload crc) s = .next t ∧ Ends joined t
        ∧ (marks → t.port.holdReqSent = true
          ∧ (s.out.inProgress = none → t.out.sent = .symbol .holdReq :: s.out.sent)
          ∧ (s.out.inProgress ≠ none → t.out.sent = s.out.sent ∧ t.out.flowWaiting = some .holdReq))
        ∧ (¬ marks → t.port.holdReqSent = s.port.holdReqSent ∧ t.out.sent = s.out.sent
          ∧ t.out.flowWaiting = s.out.flowWaiting))
      ∧ (¬ whole → exec (.requestArrival tag kind length payload crc) s = .next s)

/-- A taking that lowers the occupancy to 2 with the HOLD_REQ flag set hands over GO_REQ and clears the flag; no other taking
touches the flag or a flow symbol (R168, R174). A request of an unknown kind is taken like any other. -/
def Obligations.TakingHandsOverGoReq : Prop :=
  ∀ (c : Instr) (s : State) (r : Request), CanTake s r.kind.toNat r →
    (c, r.kind.toNat) ∈ requestRows ∨ c = .requestUnknownKind ∧ (r.kind.toNat = 0 ∨ 23 < r.kind.toNat) →
    let marks := s.port.requests.length = 3 ∧ s.port.holdReqSent = true
    ∃ t, exec c s = .next t ∧ t.port.requests = s.port.requests.tail
      ∧ (marks → t.port.holdReqSent = false
        ∧ (s.out.inProgress = none → t.out.sent = .symbol .goReq :: s.out.sent)
        ∧ (s.out.inProgress ≠ none → t.out.sent = s.out.sent ∧ t.out.flowWaiting = some .goReq))
      ∧ (¬ marks → t.port.holdReqSent = s.port.holdReqSent ∧ t.out.sent = s.out.sent ∧ t.out.flowWaiting = s.out.flowWaiting)

/-- A request is not taken while an older one of another kind is at the head, while a reply waits, or while the Outgoing Packet
Queue is full; a request of an unknown kind, 0 or above 23, waits as one of a known kind does, and so does a PART_RESET of a
wrong length, while one of the right length is taken whatever waits (R175, R176). That the command then changes nothing is the
model's choice (log 4, log 5), and that only a well-formed PART_RESET goes ahead is its reading (log 22). -/
def Obligations.RequestWaitsItsTurn : Prop :=
  ∀ s : State,
    let shut := s.port.waiting ≠ none ∨ 16 ≤ s.out.queue.length
    (∀ row ∈ requestRows, (∀ r, s.port.requests.head? = some r → r.kind.toNat = row.2 → shut) → exec row.1 s = .next s)
    ∧ ((∀ r, s.port.requests.head? = some r → r.kind.toNat = 0 ∨ 23 < r.kind.toNat → shut) →
      exec .requestUnknownKind s = .next s)
    ∧ ((∀ r, s.port.requests.head? = some r → r.kind.toNat = 23 → r.payload ≠ [] ∧ shut) → exec .partReset s = .next s)

/-- A taken request of an unknown kind is answered UNKNOWN_KIND, and one of a known kind whose payload is not as long as its
kind asks, or too short to hold the fields that fix its length, BAD_LENGTH; nothing else changes (R176). -/
def Obligations.UnknownKindAndWrongLengthRefused : Prop :=
  (∀ (s : State) (r : Request), CanTake s r.kind.toNat r → r.kind.toNat = 0 ∨ 23 < r.kind.toNat →
      ∃ t, exec .requestUnknownKind s = .next t ∧ Ends (replied r .unknownKind [] s) t)
    ∧ (∀ row ∈ fixedLengthRows, ∀ (s : State) (r : Request), CanTake s row.2.1 r → r.payload.length ≠ row.2.2 →
      ∃ t, exec row.1 s = .next t ∧ Ends (replied r .badLength [] s) t)
    ∧ (∀ (s : State) (r : Request), CanTake s 2 r → r.payload.length < 2 →
      ∃ t, exec .tableAppend s = .next t ∧ Ends (replied r .badLength [] s) t)
    ∧ ∀ (s : State) (r : Request), CanTake s 18 r → r.payload.length < 5 →
      ∃ t, exec .bridgeWrite s = .next t ∧ Ends (replied r .badLength [] s) t

/-! ### Tables -/

/-- TABLE_OPEN removes every entry of the table, sets it LOADING and answers OK with length 0; an unknown table is BAD_ARG and
a take-fixed one BAD_STATE outside NO_TAKE, ABORTED and FINISHED (R179). Opening LINES makes every line an unlisted INPUT, its
USER level inactive, its timers cancelled and its accepted level the pin's (R26, R30). -/
def Obligations.TableOpenEmptiesTable : Prop :=
  ∀ (s : State) (r : Request), CanTake s 1 r → r.payload.length = 1 → ∃ t, exec .tableOpen s = .next t
    ∧ match TableName.ofCode (read1 r.payload 0) with
      | none => Ends (replied r .badArg [] s) t
      | some n =>
        if n ∈ takeFixedTables ∧ s.seq.takeState ∉ [.noTake, .aborted, .finished] then Ends (replied r .badState [] s) t
        else
          let released : LineBank := s.lines.map fun _ x =>
            { x with user := false, accepted := x.outside, debounceTimer := none }
          Ends { replied r .ok [1#8, 0#8, 0#8] s with
              tables := s.tables.opened n, lines := if n = .lines then released else s.lines } t
            ∧ t.tables.stateOf n = .loading ∧ t.tables.lengthOf n = 0
            ∧ (∀ m, m ≠ n → t.tables.stateOf m = s.tables.stateOf m ∧ t.tables.entryBytes m = s.tables.entryBytes m)
            ∧ (n = .lines → ∀ l, lineSetup t l = LineSetup.unlisted ∧ (t.lines.get l).minTimer = none)

/-- TABLE_APPEND to a LOADING table takes its entries in packet order up to the first that fails: those before it are appended
as they were sent, byte for byte, the reply gives the failing status and position (0 when none fails), the number appended and
the length, and no other table changes (R180). -/
def Obligations.TableAppendTakesEntries : Prop :=
  ∀ (s : State) (r : Request) (n : TableName) (entries : List (List Byte)), CanTake s 2 r → 2 ≤ r.payload.length →
    TableName.ofCode (read1 r.payload 0) = some n → 1 ≤ read1 r.payload 1 → read1 r.payload 1 ≤ 15 →
    splitEntries n (read1 r.payload 1) (r.payload.drop 2) = some entries → s.tables.stateOf n = .loading →
    ∃ t status k, exec .tableAppend s = .next t ∧ k ≤ entries.length
      ∧ (k = entries.length ↔ status = .ok) ∧ status ∈ [.ok, .tableFull, .tableRange, .tableOrder, .tableConflict]
      ∧ (∀ b, entries[k]? = some b → appendEntry n b t.tables = .error status)
      ∧ Ends { replied r status (byteOf (if k = entries.length then 0 else k + 1) :: byteOf k
            :: bytes2 (s.tables.lengthOf n + k)) s with tables := t.tables } t
      ∧ t.tables.entryBytes n = s.tables.entryBytes n ++ entries.take k
      ∧ t.tables.stateOf n = .loading ∧ t.tables.lengthOf n = s.tables.lengthOf n + k
      ∧ ∀ m, m ≠ n → t.tables.stateOf m = s.tables.stateOf m ∧ t.tables.entryBytes m = s.tables.entryBytes m

/-- TABLE_APPEND refused as a whole: an unknown table or a count outside 1 to 15 is BAD_ARG, then a payload whose length
disagrees with the count and the sizes is BAD_LENGTH, then a table that is not LOADING is TABLE_NOT_OPEN; no entry is appended
(R180 steps 1 to 3). A payload agrees with them when it is that many entries one behind another, each as long as 11.4 says. -/
def Obligations.TableAppendRefusedWhole : Prop :=
  (∀ (n : TableName) (count : Nat) (b : List Byte) (entries : List (List Byte)),
    splitEntries n count b = some entries ↔ entries.length = count ∧ entries.flatten = b ∧ ∀ e ∈ entries, Sized n e)
  ∧ ∀ (s : State) (r : Request), CanTake s 2 r → 2 ≤ r.payload.length → ∃ t, exec .tableAppend s = .next t
    ∧ match TableName.ofCode (read1 r.payload 0) with
      | none => Ends (replied r .badArg [] s) t
      | some n =>
        (read1 r.payload 1 < 1 ∨ 15 < read1 r.payload 1 → Ends (replied r .badArg [] s) t)
          ∧ (1 ≤ read1 r.payload 1 → read1 r.payload 1 ≤ 15 →
              (splitEntries n (read1 r.payload 1) (r.payload.drop 2) = none → Ends (replied r .badLength [] s) t)
              ∧ ∀ entries, splitEntries n (read1 r.payload 1) (r.payload.drop 2) = some entries →
                s.tables.stateOf n ≠ .loading → Ends (replied r .tableNotOpen [] s) t)

/-- TABLE_CLOSE sets a LOADING table READY when it holds an entry and EMPTY when it holds none, and answers OK with the new
state and the length; an unknown table is BAD_ARG and one not LOADING TABLE_NOT_OPEN (R181). Closing LINES sets up the lines it
lists: an OUTPUT is driven at its source's level with no timer, an INPUT accepts its pin level with no edge (R26). Bit 0 of an
entry's flags is the line's invert, bit 1 its notify (11.4); that the others are not read is the model's choice (log 26). -/
def Obligations.TableCloseSetsState : Prop :=
  ∀ (s : State) (r : Request), CanTake s 3 r → r.payload.length = 1 → ∃ t, exec .tableClose s = .next t
    ∧ match TableName.ofCode (read1 r.payload 0) with
      | none => Ends (replied r .badArg [] s) t
      | some n =>
        if s.tables.stateOf n ≠ .loading then Ends (replied r .tableNotOpen [] s) t
        else
          let state : TableState := if s.tables.lengthOf n = 0 then .empty else .ready
          let setUp : LineBank := s.lines.map fun l x =>
            match s.tables.lines.entries.find? fun e => decide (e.line = l.val) with
            | none => x
            | some e => match e.use with
              | .input _ _ => { x with accepted := x.outside, debounceTimer := none }
              | .output _ _ => { x with debounceTimer := none }
          Ends { replied r .ok (byteOf state.code :: bytes2 (s.tables.lengthOf n)) s with
              tables := s.tables.closed n, lines := if n = .lines then setUp else s.lines } t
            ∧ t.tables.stateOf n = state ∧ (∀ m, t.tables.entryBytes m = s.tables.entryBytes m)
            ∧ (∀ m, m ≠ n → t.tables.stateOf m = s.tables.stateOf m)
            ∧ (n = .lines → ∀ l source minPulse, (lineSetup t l).use = .output source minPulse →
              (t.lines.get l).driven = sourceLevel t (t.lines.get l) source ∧ (t.lines.get l).minTimer = none)
            ∧ (n = .lines → ∀ (l : LineNo) e, s.tables.lines.entries.find? (fun e => decide (e.line = l.val)) = some e →
              lineSetup t l = { use := e.use, invert := e.flags.getLsbD 0, notify := e.flags.getLsbD 1 })

/-- TABLE_READ answers OK with the table's state, its length, the first index and the entries from it onward, up to the count
or the end of the table, as they were appended and in every state of the table; an unknown table, a count outside 1 to 15 or
a first index beyond the length is BAD_ARG. It changes nothing, and a reply has room for what it gives. The entries that a
table holds stand in their bytes field by field, as 11.4 lays them out (R182). That a LINES entry keeps its whole flags byte
is the model's choice (log 26). -/
def Obligations.TableReadReturnsEntries : Prop :=
  (∀ t : Tables, Tables.Sound t → TablesLaidOut t)
  ∧ ∀ (s : State) (r : Request), CanTake s 4 r → r.payload.length = 4 → ∃ t, exec .tableRead s = .next t
    ∧ match TableName.ofCode (read1 r.payload 0) with
      | none => Ends (replied r .badArg [] s) t
      | some n =>
        let first := read2 r.payload 1
        let count := read1 r.payload 3
        if count < 1 ∨ 15 < count ∨ s.tables.lengthOf n < first then Ends (replied r .badArg [] s) t
        else
          let payload := byteOf (s.tables.stateOf n).code :: bytes2 (s.tables.lengthOf n) ++ bytes2 first
            ++ (((s.tables.entryBytes n).drop first).take count).flatten
          Ends (replied r .ok payload s) t ∧ (first = s.tables.lengthOf n → payload.length = 5)
            ∧ (Tables.Sound s.tables → payload.length ≤ 1023)

/-- The entry rules of the eleven tables, each in its order: a full table is TABLE_FULL; then bytes that are no entry in the
layout of 11.4, or a value out of its range, are TABLE_RANGE; then an entry that stands against those the table holds is
TABLE_ORDER or TABLE_CONFLICT; and any other entry joins the table behind the newest (R25, R42, R67, R78, R89, R91, R149, R156,
R191). The layouts are stated field by field: a byte that is none of its named field's values gives no entry. The flags byte of
a LINES entry is no such field: one with bits beyond 0 and 1 set joins the table, kept as it was sent, which is the model's
choice (log 26). That PLAN's full table comes before its ranges (R3) is its reading (log 21). -/
def Obligations.EntryChecksInOrder : Prop :=
  (∀ (n : TableName) (b : List Byte) (t : Tables), n.capacity ≤ t.lengthOf n → appendEntry n b t = .error .tableFull)
    ∧ EntryRules .plan readPlanStep PlanLayout (·.plan) (fun t x => { t with plan := x })
      (fun e => 1 ≤ e.count ∧ e.count ≤ 4095 ∧ 1000 ≤ e.exposure ∧ e.exposure ≤ 3600000000 ∧ e.gap ≤ 3600000000
        ∧ e.scriptFirst ≤ 31 ∧ e.scriptCount ≤ 8 ∧ e.scriptFirst + e.scriptCount ≤ 32)
      (fun _ _ => False) .tableOrder
    ∧ EntryRules .defects readDefect DefectLayout (·.defects) (fun t x => { t with defects := x })
      (fun e => e.row ≤ 6143 ∧ e.column ≤ 8191)
      (fun held e => ∃ p ∈ held.getLast?, ¬ (p.row < e.row ∨ p.row = e.row ∧ p.column < e.column)) .tableOrder
    ∧ EntryRules .horizon readVertex VertexLayout (·.horizon) (fun t x => { t with horizon := x })
      (fun e => e.column ≤ 8191 ∧ e.row ≤ 6144)
      (fun held e => held = [] ∧ e.column ≠ 0 ∨ ∃ p ∈ held.getLast?, e.column ≤ p.column) .tableOrder
    ∧ EntryRules .regions readRegionEntry RegionLayout (·.regions) (fun t x => { t with regions := x })
      (fun e => 16 ≤ e.policy.kappa ∧ e.policy.kappa ≤ 255 ∧ 3 ≤ e.policy.warmup ∧ e.policy.warmup ≤ 64
        ∧ e.policy.sigmaFloor ≤ 255 ∧ 1 ≤ e.policy.fade ∧ e.policy.fade ≤ 255)
      (fun held e => ∃ p ∈ held, p.region = e.region) .tableConflict
    ∧ EntryRules .darkModel readTqPoint TqLayout (·.darkModel) (fun t x => { t with darkModel := x })
      (fun e => (-160 ≤ e.x ∧ e.x ≤ 340) ∧ 1 ≤ e.y ∧ e.y ≤ 65535) NotRising .tableOrder
    ∧ EntryRules .lines readLineEntry LineLayout (·.lines) (fun t x => { t with lines := x })
      (fun e => e.line ≤ 5 ∧ ∀ minPulse, e.use = .output .heater minPulse → minPulse = 0)
      (fun held e => ∃ p ∈ held, p.line = e.line
        ∨ ∃ f ∈ [LineFunction.expFeedback, .triggerIn], (∃ d, p.use = .input f d) ∧ ∃ d, e.use = .input f d) .tableConflict
    ∧ EntryRules .heaterCurve readTqPoint TqLayout (·.heaterCurve) (fun t x => { t with heaterCurve := x })
      (fun e => (-160 ≤ e.x ∧ e.x ≤ 340) ∧ 0 ≤ e.y ∧ e.y ≤ 256) NotRising .tableOrder
    ∧ EntryRules .adcCurve0 readCodePoint CodeLayout (·.adcCurve0) (fun t x => { t with adcCurve0 := x })
      (fun e => (0 ≤ e.x ∧ e.x ≤ 1023) ∧ -160 ≤ e.y ∧ e.y ≤ 340) NotRising .tableOrder
    ∧ EntryRules .adcCurve1 readCodePoint CodeLayout (·.adcCurve1) (fun t x => { t with adcCurve1 := x })
      (fun e => (0 ≤ e.x ∧ e.x ≤ 1023) ∧ -160 ≤ e.y ∧ e.y ≤ 340) NotRising .tableOrder
    ∧ EntryRules .bridgeAllow readAllow AllowLayout (·.bridgeAllow) (fun t x => { t with bridgeAllow := x })
      (fun a => a ≤ 127) (fun held a => a ∈ held) .tableConflict
    ∧ EntryRules .bridgeScript readScriptEntry ScriptLayout (·.bridgeScript) (fun t x => { t with bridgeScript := x })
      (fun e => e.device ≤ 127 ∧ e.reg.addr ≤ (if e.reg.wide then 65535 else 255) ∧ 1 ≤ e.data.length ∧ e.data.length ≤ 8)
      (fun _ _ => False) .tableOrder

/-! ### Parameters, log and status -/

/-- PARAM_SET stores the value R184 gives for the value sent, or refuses it: an unknown parameter is BAD_ARG, a take-fixed one
BAD_STATE outside NO_TAKE, ABORTED and FINISHED, a value that is none of a parameter's choices BAD_ARG. The reply gives the
stored value, OK when it is the value sent and OK_CLAMPED otherwise. Beside, auto-preview sets its counter to 0 (R15), a poll
setting makes the last good temperature absent (R158), and disabling TRAIL reports empties the Trail Queue (R128). What the
poll register's and report_mask's unread bits do is the model's choice (log 25). -/
def Obligations.ParamSetStoresValue : Prop :=
  ∀ (s : State) (r : Request), CanTake s 5 r → r.payload.length = 5 → ∃ t, exec .paramSet s = .next t
    ∧ match Param.ofCode (read1 r.payload 0) with
      | none => Ends (replied r .badArg [] s) t
      | some n =>
        let v := readSigned4 r.payload 1
        if n.takeFixed = true ∧ s.seq.takeState ∉ [.noTake, .aborted, .finished] then Ends (replied r .badState [] s) t
        else match n.stored v with
          | none => Ends (replied r .badArg [] s) t
          | some w =>
            let status : Status := if w = v then .ok else .okClamped
            let pollSetting : Bool := n = .pollDevice || n = .pollRegister || n = .pollGain || n = .pollOffset
            Ends { replied r status (byteOf (read1 r.payload 0) :: signed4 w) s with
                params := t.params,
                seq.autoCount := if n = .autoPreview then 0 else s.seq.autoCount,
                bridge.lastGood := if pollSetting then none else s.bridge.lastGood,
                trails.queue := if n = .reportMask ∧ w / 2 % 2 = 0 then [] else s.trails.queue } t
              ∧ t.params.value n = w ∧ ∀ m, m ≠ n → t.params.value m = s.params.value m

/-- PARAM_GET answers OK with the stored value, and an unknown name BAD_ARG (R185). LOG_READ answers OK with how many closed
records it holds and those records in full, from the first index onward, up to the count and the end of the closed records; a
count outside 1 to 4 and an index of 0, beyond the last closed record or of the open record are BAD_ARG (R23, R186). Both
change nothing. A record stands in its 63 bytes field by field, as 11.3 lays it out (a trails count beyond its field is an open
value: log 9); fields are coded high byte first, and named values by their order (R191; log 24). -/
def Obligations.ParamGetAndLogReadAnswer : Prop :=
  FieldsCoded ∧ NamesCoded ∧ (∀ r : SubframeRecord, RecordLayout r.bytes r)
  ∧ (∀ (s : State) (r : Request), CanTake s 6 r → r.payload.length = 1 → ∃ t, exec .paramGet s = .next t
      ∧ match Param.ofCode (read1 r.payload 0) with
        | none => Ends (replied r .badArg [] s) t
        | some n => Ends (replied r .ok (byteOf (read1 r.payload 0) :: signed4 (s.params.value n)) s) t)
    ∧ ∀ (s : State) (r : Request), CanTake s 16 r → r.payload.length = 3 → ∃ t, exec .logRead s = .next t
      ∧ let first := read2 r.payload 0
        let count := read1 r.payload 2
        if count < 1 ∨ 4 < count ∨ first = 0 ∨ s.log.closed.length < first then Ends (replied r .badArg [] s) t
        else
          ∃ records : List SubframeRecord, Ends (replied r .ok (byteOf records.length :: records.flatMap SubframeRecord.bytes) s) t
            ∧ records.length = min count (s.log.closed.length - (first - 1))
            ∧ ∀ k < records.length, records[k]? = s.log.closed[first - 1 + k]?

/-- STATUS_READ answers OK with the 33 bytes of 11.3, each as it stands when the reply is built, the Request Queue level
without the request itself and the Outgoing Packet Queue level with the reply; it changes nothing, the lost-reports flag
included (R2, R166, R173, R187). -/
def Obligations.StatusReadReportsPart : Prop :=
  ∀ (s : State) (r : Request), CanTake s 17 r → r.payload = [] → ∃ t p, exec .statusRead s = .next t
    ∧ Ends (replied r .ok p s) t ∧ p.length = 33
    ∧ field p 0 3 = [byteOf s.seq.takeState.code, byteOf s.seq.phase.code, byteOf s.seq.step]
    ∧ field p 3 2 = bytes2 (subframeIndex s)
    ∧ field p 5 5 = [byteOf s.fifo.entries.length, byteOf (s.port.requests.length - 1), byteOf (s.out.queue.length + 1),
        byteOf s.trails.queue.length, byteOf s.bridge.relays.length]
    ∧ (∀ n : TableName, field p (10 + n.code) 1 = [byteOf (s.tables.stateOf n).code])
    ∧ field p 21 1 = [byteOf s.bridge.state.code]
    ∧ field p 22 2 = tempBytes (match s.params.tempSource with
        | .sensorRegister => s.bridge.lastGood
        | .adcTh1 => s.temps.th1)
    ∧ field p 24 2 = tempBytes s.temps.th0 ∧ field p 26 2 = bytes2 s.heater.duty
    ∧ (∀ l : LineNo, (p.getD 28 0#8).getLsbD l.val = pinLevel s l)
    ∧ field p 29 2 = bytes2 s.link.strayCount
    ∧ field p 31 2 = [byteOf (boolCode s.link.locked), byteOf (boolCode s.port.lostReports)]

/-! ### Take commands -/

/-- TAKE_START in NO_TAKE, ABORTED or FINISHED, the Render Unit IDLE and the eight checks of R4 passed, is answered OK with the
subframes, the darks and the ignored defects; the log, the pending flags, the auto-preview counter, the plan position, the dark
summaries, S, the veto lists and the Trail Queue are reset, a Trail Queue that held a record sets the lost-reports flag, the
frame settings are recorded, the plane is invalid and held for the CLEARING pass, and the take is CLEARING, reported behind the
reply (R1, R5, R16, R66, R68, R105, R113, R183). -/
def Obligations.TakeStartBeginsClearing : Prop :=
  ∀ (s : State) (r : Request), CanTake s 7 r → r.payload = [] → s.seq.takeState ∈ [.noTake, .aborted, .finished] →
    s.render.state = .idle → Startable s.tables s.params → ∃ t, exec .takeStart s = .next t
      ∧ Ends (queueReport .takeState [1#8, 0#8, 0#8, 0#8, 0#8] { replied r .ok (bytes2 (plannedSubframes s.tables.plan.seen)
            ++ [byteOf (plannedDarks s.tables.plan.seen)]
            ++ bytes2 (s.tables.defects.seen.countP fun d => s.params.height ≤ d.row || s.params.width ≤ d.column)) s with
          seq := { s.seq with
            takeState := .clearing, phase := .none, planeValid := false, step := 0, count := 0, notStarted := false,
            pausePending := false, stopPending := false, finishPending := false, abortPending := false,
            closeAbandoned := false, autoCount := 0, shutter := false, stepLevel := false },
          log := { closed := [], openRecord := none },
          cal := { s.cal with darkCount := 0, darkExposure := 0, darkTempTotal := 0, darkTempCount := 0, scale := none },
          trails := { s.trails with current := VetoList.absent, previous := VetoList.absent, queue := [] },
          port.lostReports := s.port.lostReports || !s.trails.queue.isEmpty,
          settings := {
            width := s.params.width, height := s.params.height, vertices := s.tables.horizon.seen,
            sky := regionPolicy s.tables .sky, ground := regionPolicy s.tables .ground, margin := s.params.margin },
          arb.holder := .clearing }) t

/-- TAKE_START refused: BAD_STATE in any other take state, BUSY while the Render Unit is not IDLE, and otherwise the status,
reason and detail of the first check of R4 that fails; nothing else changes. -/
def Obligations.TakeStartRefusedByFirstCheck : Prop :=
  ∀ (s : State) (r : Request), CanTake s 7 r → r.payload = [] → ∃ t, exec .takeStart s = .next t
    ∧ let steps := s.tables.plan.seen
      let ready := s.seq.takeState ∈ [.noTake, .aborted, .finished]
      let refused := fun (status : Status) (payload : List Byte) => Ends (replied r status payload s) t
      (¬ ready → refused .badState [])
      ∧ (ready → s.render.state ≠ .idle → refused .busy [])
      ∧ (ready → s.render.state = .idle →
        (∀ n, FirstAt (fun m => s.tables.stateOf m = .loading) takeFixedTables n →
          ∀ m, takeFixedTables[n]? = some m → refused .planInvalid (0#8 :: bytes2 m.code))
        ∧ (NoneLoading s.tables →
          (steps = [] → refused .planInvalid [1#8, 0#8, 0#8])
          ∧ (∀ j, DarkAfterLightAt steps j → (∀ k < j, ¬ DarkAfterLightAt steps k) → refused .planInvalid (2#8 :: bytes2 j))
          ∧ (steps ≠ [] → DarksFirst steps →
            ((∀ st ∈ steps, st.kind = .dark) → refused .planInvalid [3#8, 0#8, 0#8])
            ∧ ((∃ st ∈ steps, st.kind = .light) →
              (4096 < plannedSubframes steps → refused .planInvalid (4#8 :: bytes2 (plannedSubframes steps)))
              ∧ (plannedSubframes steps ≤ 4096 → 255 < plannedDarks steps →
                refused .planInvalid (5#8 :: bytes2 (plannedDarks steps)))))
          ∧ (PlanSound steps → ¬ HasTrigger s.tables → ∀ i, FirstAt (fun st => st.cadence = .external) steps i →
            refused .planInvalid (6#8 :: bytes2 i))
          ∧ (PlanSound steps → ((∃ st ∈ steps, st.cadence = .external) → HasTrigger s.tables) →
            ∀ i, FirstAt (VertexOutside s.params) s.tables.horizon.seen i →
              refused .profileGeometry (0#8 :: bytes2 i))))

/-- TAKE_PAUSE in RUNNING acts at once in STEP_START and WAIT, cancelling their work and marking a step in STEP_START as not
started, and becomes pending in the other phases; in every other take state it is BAD_STATE. A script entry that waits for the
bus is withdrawn, and one on the bus runs on, its step no longer waiting for it (R1, R17, R157). -/
def Obligations.TakePauseActsByPhase : Prop :=
  ∀ (s : State) (r : Request), CanTake s 8 r → r.payload = [] → ∃ t, exec .takePause s = .next t
    ∧ (s.seq.takeState = .running → s.seq.phase ∈ [.stepStart, .wait] →
        Ends (queueReport .takeState (3#8 :: 0#8 :: byteOf s.seq.step :: bytes2 (subframeIndex s))
          { replied r .ok [] s with
            seq := { s.seq with
              takeState := .paused, phase := .none, notStarted := s.seq.notStarted || s.seq.phase = .stepStart,
              settleTimer := none, gapTimer := none, scriptLeft := [] },
            bridge.waitingScript := none, bridge.inFlight := s.bridge.inFlight.map InFlight.unawaited }) t)
    ∧ (s.seq.takeState = .running → s.seq.phase ∈ [.expose, .hold, .readout, .settle] →
        Ends { replied r .accepted [] s with seq.pausePending := true } t)
    ∧ (s.seq.takeState ≠ .running → Ends (replied r .badState [] s) t)

/-- TAKE_STOP in PAUSED, and in RUNNING at STEP_START and WAIT, makes the take COMPLETE at once, SHUTTER and STEP_LEVEL
inactive and the flags clear, a script entry that waits withdrawn and one on the bus running on by itself; in the other phases
of RUNNING it becomes pending; elsewhere it is BAD_STATE (R1, R16, R19, R157). -/
def Obligations.TakeStopCompletesTake : Prop :=
  ∀ (s : State) (r : Request), CanTake s 10 r → r.payload = [] → ∃ t, exec .takeStop s = .next t
    ∧ let report := fun u => queueReport .takeState (4#8 :: 0#8 :: byteOf s.seq.step :: bytes2 (subframeIndex s)) u
      (s.seq.takeState = .running → s.seq.phase ∈ [.stepStart, .wait] →
        Ends (report { replied r .ok [] s with
          seq := { s.seq with
            takeState := .complete, phase := .none, pausePending := false, stopPending := false, finishPending := false,
            shutter := false, stepLevel := false, settleTimer := none, gapTimer := none, scriptLeft := [] },
          bridge.waitingScript := none, bridge.inFlight := s.bridge.inFlight.map InFlight.unawaited }) t)
      ∧ (s.seq.takeState = .paused →
        Ends (report { replied r .ok [] s with
          seq := { s.seq with
            takeState := .complete, phase := .none, pausePending := false, stopPending := false, finishPending := false,
            shutter := false, stepLevel := false } }) t)
      ∧ (s.seq.takeState = .running → s.seq.phase ∈ [.expose, .hold, .readout, .settle] →
        Ends { replied r .accepted [] s with seq.stopPending := true } t)
      ∧ (s.seq.takeState ∉ [.running, .paused] → Ends (replied r .badState [] s) t)

/-- TAKE_FINISH makes the take FINISHING, through COMPLETE where it was RUNNING in STEP_START or WAIT or PAUSED, each change
reported, and asks for the FINAL render: it begins at once when the Render Unit is IDLE, and is held by the Sequencer
otherwise. In the other phases of RUNNING the stop and finish flags are set; elsewhere it is BAD_STATE. COMPLETE on the way
makes READY active and FINISHING inactive again (R16, R20, R35, R133, R134, R157): that both changes of this one event reach an
OUTPUT line of READY, so that one with a min_pulse goes active and holds that for min_pulse (R29), is the model's reading (log
14). -/
def Obligations.TakeFinishAsksFinalRender : Prop :=
  ∀ (s : State) (r : Request), Coherent s → CanTake s 11 r → r.payload = [] →
    ∃ t, exec .takeFinish s = .next t
      ∧ let say := fun (code : Byte) (u : State) =>
          queueReport .takeState (code :: 0#8 :: byteOf s.seq.step :: bytes2 (subframeIndex s)) u
        let asked := fun u : State =>
          let f := say 5#8 { u with
            seq := { u.seq with takeState := .finishing, phase := .none, shutter := false, stepLevel := false } }
          if s.render.state = .idle then renderBegun .final f else { f with seq.finalHeld := true }
        let complete := fun u : State => say 4#8 { u with
          seq := { u.seq with
            takeState := .complete, phase := .none, pausePending := false, stopPending := false, finishPending := false,
            shutter := false, stepLevel := false } }
        (s.seq.takeState = .running → s.seq.phase ∈ [.stepStart, .wait] →
          Ends (asked (complete { replied r .ok [] s with
            seq := { s.seq with settleTimer := none, gapTimer := none, scriptLeft := [] },
            bridge.waitingScript := none, bridge.inFlight := s.bridge.inFlight.map InFlight.unawaited })) t
          ∧ ∀ l minPulse, (lineSetup s l).use = .output .ready minPulse → 0 < minPulse → (s.lines.get l).driven = false →
            (s.lines.get l).minTimer = none →
            (t.lines.get l).driven = true ∧ (t.lines.get l).minTimer = some (s.now + minPulse))
        ∧ (s.seq.takeState = .paused → Ends (asked (complete (replied r .ok [] s))) t)
        ∧ (s.seq.takeState = .complete → Ends (asked (replied r .ok [] s)) t)
        ∧ (s.seq.takeState = .running → s.seq.phase ∈ [.expose, .hold, .readout, .settle] →
          Ends { replied r .accepted [] s with seq.stopPending := true, seq.finishPending := true } t)
        ∧ (s.seq.takeState ∉ [.running, .paused, .complete] → Ends (replied r .badState [] s) t)

/-- TAKE_RESUME in PAUSED makes the take RUNNING, reported: at WAIT, with the full gap of an INTERNAL step or a wait for the
trigger of an EXTERNAL one, and at EXPOSE when the gap is 0; or, where the step has not started, whole, at the beginning of its
STEP_START: its levels set, its settle timer running, and all its script indices handed over from script_first, the first that
passes its hand-over going on a free bus, or to FAULT on a stuck line, or waiting for a busy one (StepScripted); with nothing
to wait for it goes on at once. EXPOSE entered here claims its poll at once where its exposure is not longer than poll_lead
(WaitEntered). The reply and the TAKE_STATE report are the first packets queued. Elsewhere it is BAD_STATE (R1, R7, R8, R9,
R18, R150, R151, R153, R157, R159). That no settle timer runs for a shutter_settle of 0 is the model's reading (log 28), and so
are the codes of SCRIPT_RESULT (log 24) and the order of the reports at the entry to FAULT (log 31); that TAKE_STATE comes
before the reports of the step's script entries is its choice (log 30). -/
def Obligations.TakeResumeContinuesPlan : Prop :=
  ∀ (s : State) (r : Request), CanTake s 9 r → r.payload = [] → ∃ t, exec .takeResume s = .next t
    ∧ let running := fun (phase : Phase) (u : State) =>
        queueReport .takeState (2#8 :: byteOf phase.code :: byteOf s.seq.step :: bytes2 (subframeIndex s))
          { u with seq := { u.seq with takeState := .running, phase := phase } }
      let exposes := fun st : PlanStep => t.seq.phase = .expose ∧ t.seq.exposureTimer = some (s.now + st.exposure)
        ∧ t.log.openRecord = some (SubframeRecord.opening (s.log.closed.length + 1) s.seq.step st)
      (s.seq.takeState = .paused → s.seq.notStarted = false → ∀ st, s.tables.plan.seen[s.seq.step]? = some st →
        (∃ w, WaitEntered st (running .wait (replied r .ok [] s)) w ∧ Ends w t) ∧
        (st.cadence = .external →
          Ends { running .wait (replied r .ok [] s) with seq.gapTimer := none } t ∧ signalReady t = true)
        ∧ (st.cadence = .internal → 0 < st.gap →
          Ends { running .wait (replied r .ok [] s) with seq.gapTimer := some (s.now + st.gap) } t)
        ∧ (st.cadence = .internal → st.gap = 0 →
          queuedTraffic (running .wait (replied r .ok [] s)) <+: queuedTraffic t
            ∧ t.seq.takeState = .running ∧ exposes st))
      ∧ (s.seq.takeState = .paused → s.seq.notStarted = true → ∀ st, s.tables.plan.seen[s.seq.step]? = some st →
        queuedTraffic (running .stepStart (replied r .ok [] s)) <+: queuedTraffic t
          ∧ t.seq.takeState = .running ∧ t.seq.notStarted = false ∧ t.seq.shutter = decide (st.kind = .dark)
          ∧ t.seq.stepLevel = st.stepLevel
          ∧ (let settles := levelBefore s ≠ decide (st.kind = .dark) ∧ s.params.shutterSettle ≠ 0
            (t.seq.phase = .stepStart →
              t.seq.settleTimer = if settles then some (s.now + s.params.shutterSettle * 1000) else none)
            ∧ (settles → t.seq.phase = .stepStart)
            ∧ ∃ v, StepScripted st (running .stepStart (replied r .ok [] s)) v t
              ∧ (¬ settles → scriptsEnded v = true →
                (st.cadence = .external → t.seq.phase = .wait ∧ t.seq.gapTimer = none ∧ signalReady t = true)
                ∧ (st.cadence = .internal → 0 < st.gap → t.seq.phase = .wait ∧ t.seq.gapTimer = some (s.now + st.gap))
                ∧ (st.cadence = .internal → st.gap = 0 → exposes st))))
      ∧ (s.seq.takeState ≠ .paused → Ends (replied r .badState [] s) t)

/-- TAKE_ABORT by where the take stands (R21): NO_TAKE refuses it, ABORTED answers OK and nothing else, CLEARING, STEP_START,
WAIT, PAUSED, COMPLETE, FINISHING and FINISHED become ABORTED at once, the plane invalid and free, no render in hand; EXPOSE
and HOLD are released into a close (R107), and READOUT is ended, as ABANDONED subframes, and SETTLE goes on, each with the
abort pending. A render abandoned at the taking is reported with reason ABORT right behind the reply (R142, R143); in
STEP_START and WAIT a script entry that waits for the bus is withdrawn, and one on the bus runs on by itself (R157); the end of
READOUT serves the bus, a claim passed over in READOUT among the others (R153). A CLEARING pass stops at the record it has
reached: those before it are cleared, the others keep what they held (R88), and which record that is is an open value of the
model (log 8). The close in EXPOSE and HOLD finds every row UNSEEN (R54), and the detector open for a light subframe (R114).
That it stands in SETTLE is the model's choice (log 15), and so is the value of an exposed_us outside its range (log 27). In
what serving the bus leaves, the codes of SCRIPT_RESULT (log 24) and the order of the reports at the entry to FAULT (log 31)
are the model's reading. -/
def Obligations.TakeAbortInvalidatesTake : Prop :=
  ∀ (s : State) (r : Request), Coherent s → CanTake s 12 r → r.payload = [] → ∃ t, exec .takeAbort s = .next t
    ∧ let answered := fun (status : Status) => queuedTraffic s ++ [r.reply status []] <+: queuedTraffic t
      let told := fun (status : Status) =>
        (s.render.state ≠ .idle → s.params.reportMask.getLsbD 4 = true → s.out.queue.length < 15 →
          queuedTraffic s ++ [r.reply status [], .report .renderAbandoned s.port.lostReports [byteOf s.render.kind.code, 1#8]]
            <+: queuedTraffic t)
        ∧ (s.render.state ≠ .idle → s.params.reportMask.getLsbD 4 = true → s.out.queue.length = 15 → t.port.lostReports = true)
      let aborted := answered .ok ∧ told .ok ∧ t.seq.takeState = .aborted ∧ t.seq.phase = .none ∧ t.seq.planeValid = false
        ∧ t.arb = { holder := .none, waiting := .none } ∧ t.render.state = .idle ∧ t.seq.finalHeld = false
        ∧ t.seq.shutter = false ∧ t.seq.stepLevel = false ∧ signalReady t = false ∧ t.seq.pausePending = false
        ∧ t.seq.stopPending = false ∧ t.seq.finishPending = false ∧ t.seq.abortPending = false ∧ t.log = s.log
        ∧ t.link = s.link ∧ t.cal = s.cal ∧ t.trails = s.trails
      (t.temps = s.temps ∧ t.heater = s.heater ∧ t.tables = s.tables ∧ t.params = s.params ∧ t.settings = s.settings
          ∧ t.now = s.now ∧ t.fifo.entries.length ≤ s.fifo.entries.length
          ∧ (s.seq.takeState ≠ .clearing → t.plane = s.plane))
      ∧ (s.seq.takeState = .noTake → Ends (replied r .badState [] s) t)
      ∧ (s.seq.takeState = .aborted → Ends (replied r .ok [] s) t)
      ∧ (s.seq.takeState ∈ [.clearing, .paused, .complete, .finishing, .finished] → aborted)
      ∧ (s.seq.takeState = .clearing →
        let reached := min (Config.clearedRecords s.freeSeq) (s.settings.width * s.settings.height)
        ∀ a, readPixel t a = if a < reached then Pixel.cleared else readPixel s a)
      ∧ (s.seq.takeState = .running → s.seq.phase ∈ [.stepStart, .wait] → aborted
        ∧ t.seq.scriptLeft = [] ∧ t.seq.settleTimer = none ∧ t.seq.gapTimer = none
        ∧ t.bridge = { s.bridge with waitingScript := none, inFlight := s.bridge.inFlight.map InFlight.unawaited })
      ∧ (s.seq.takeState = .running → s.seq.phase ∈ [.expose, .hold] →
        answered .accepted ∧ told .accepted ∧ t.seq.takeState = .running ∧ t.seq.phase = .settle ∧ t.seq.abortPending = true
          ∧ t.seq.closeAbandoned = true ∧ signalExpose t = false ∧ t.arb = { holder := .ingest, waiting := .none }
          ∧ t.render.state = .idle ∧ t.meas.armed = false ∧ t.log.closed = s.log.closed
          ∧ t.link = { s.link with rowMap := [] } ∧ (∀ row, rowState t row = .unseen) ∧ t.cal = s.cal
          ∧ ∃ q q' : SubframeRecord, s.log.openRecord = some q ∧ t.log.openRecord = some q'
            ∧ (q.kind = .light → t.trails = { s.trails with current.index := some (subframeIndex s), counter := 1 })
            ∧ (q.kind = .dark → t.trails = s.trails)
            ∧ q'.heldUs = q.heldUs + (if s.seq.phase = .hold then s.now - s.seq.holdStart else 0)
            ∧ q'.temperature = sensorTemperature s ∧ q'.exposureSource ≠ none
            ∧ (feedbackTime s.meas = none → q'.exposedUs = some (exposedRange (s.now - s.seq.exposeStart))))
      ∧ (s.seq.takeState = .running → s.seq.phase = .readout →
        answered .accepted ∧ t.seq.phase = .settle ∧ t.seq.abortPending = true ∧ t.seq.closeAbandoned = true
          ∧ t.link.readout = none ∧ signalReadout t = false ∧ ReadoutFreesBus (replied r .accepted [] s) t)
      ∧ (s.seq.takeState = .running → s.seq.phase = .settle →
        Ends { replied r .accepted [] s with seq.abortPending := true } t)

/-- TAKE_CLEAR in COMPLETE, FINISHED and ABORTED, the Render Unit IDLE, empties the log, marks the plane invalid, clears the
pending flags and the plan position, and makes the take NO_TAKE, reported behind the OK; it is BUSY while the Render Unit is
not IDLE, and BAD_STATE in the other take states (R1, R2, R22). -/
def Obligations.TakeClearForgetsTake : Prop :=
  ∀ (s : State) (r : Request), CanTake s 13 r → r.payload = [] → ∃ t, exec .takeClear s = .next t
    ∧ let clears := s.seq.takeState ∈ [.complete, .finished, .aborted]
      (clears → s.render.state = .idle →
        Ends (queueReport .takeState [0#8, 0#8, 0#8, 0#8, 0#8] { replied r .ok [] s with
          seq := { s.seq with
            takeState := .noTake, phase := .none, planeValid := false, step := 0, count := 0, pausePending := false,
            stopPending := false, finishPending := false, abortPending := false, shutter := false, stepLevel := false },
          log := { closed := [], openRecord := none } }) t)
      ∧ (clears → s.render.state ≠ .idle → Ends (replied r .busy [] s) t)
      ∧ (¬ clears → Ends (replied r .badState [] s) t)

/-! ### Render requests -/

/-- RENDER_PREVIEW and RENDER_REPEAT, judged in the order of R131 and R132: INVALID_PLANE in ABORTED; BAD_STATE in NO_TAKE,
CLEARING and FINISHING, for a repeat in every state but FINISHED; BUSY while the Render Unit is not IDLE; and otherwise taken
and answered ACCEPTED with its frame id, beginning at once on a free plane and waiting PENDING behind an ingest (R134). -/
def Obligations.RenderRequestsJudgedInOrder : Prop :=
  (∀ (s : State) (r : Request), CanTake s 14 r → r.payload = [] → ∃ t, exec .renderPreview s = .next t
    ∧ if s.seq.takeState = .aborted then Ends (replied r .invalidPlane [] s) t
      else if s.seq.takeState ∈ [.noTake, .clearing, .finishing] then Ends (replied r .badState [] s) t
      else if s.render.state ≠ .idle then Ends (replied r .busy [] s) t
      else if s.arb.holder = .none then Ends (renderBegun .preview (replied r .accepted (bytes2 s.render.nextId) s)) t
      else Ends (renderWaiting .preview (replied r .accepted (bytes2 s.render.nextId) s)) t)
  ∧ ∀ (s : State) (r : Request), CanTake s 15 r → r.payload = [] → ∃ t, exec .renderRepeat s = .next t
    ∧ if s.seq.takeState = .aborted then Ends (replied r .invalidPlane [] s) t
      else if s.seq.takeState ≠ .finished then Ends (replied r .badState [] s) t
      else if s.render.state ≠ .idle then Ends (replied r .busy [] s) t
      else if s.arb.holder = .none then Ends (renderBegun .final (replied r .accepted (bytes2 s.render.nextId) s)) t
      else Ends (renderWaiting .final (replied r .accepted (bytes2 s.render.nextId) s)) t

/-! ### The sensor bus -/

/-- BRIDGE_WRITE and BRIDGE_READ refused in the order of R154: BAD_ARG for a field out of range, then BAD_LENGTH for a write
whose payload disagrees with its data count, BLOCKED, BUS_STUCK in FAULT, and BUSY at four relays; nothing else changes. That
these replies have an empty payload is the model's reading (log 23). -/
def Obligations.RelayRequestsRefusedInOrder : Prop :=
  ∀ (s : State) (r : Request),
    let p := r.payload
    let listed := read1 p 0 ∈ s.tables.bridgeAllow.seen
    let judged := fun (sized : Prop) (t : State) =>
      (¬ relayFieldsGood p → Ends (replied r .badArg [] s) t)
      ∧ (relayFieldsGood p → ¬ sized → Ends (replied r .badLength [] s) t)
      ∧ (relayFieldsGood p → sized → ¬ listed → Ends (replied r .blocked [] s) t)
      ∧ (relayFieldsGood p → sized → listed → s.bridge.state = .fault → Ends (replied r .busStuck [] s) t)
      ∧ (relayFieldsGood p → sized → listed → s.bridge.state ≠ .fault → 4 ≤ s.bridge.relays.length →
        Ends (replied r .busy [] s) t)
    (CanTake s 18 r → 5 ≤ p.length → ∃ t, exec .bridgeWrite s = .next t ∧ judged (p.length = 5 + read1 p 4) t)
      ∧ (CanTake s 19 r → p.length = 5 → ∃ t, exec .bridgeRead s = .next t ∧ judged True t)

/-- A relay that passes its checks joins the Relay Queue without a reply. On a busy bus, and in READOUT, it waits, in READOUT
behind whatever relays and script entry wait there already; on an idle bus with no other claim it starts at once when the
data line is high or freed, and when the line is stuck the bridge goes to FAULT, reported, and the relay ends BUS_STUCK
(R151, R153, R154). What the bridge does on the bus from the start is what R147 says, byte by byte; on a line found low, nine
clock pulses and a stop condition go before it (R151). What the line is, is a free value (log 7). -/
def Obligations.RelayWaitsOrStarts : Prop :=
  ∀ (s : State) (r : Request), relayFieldsGood r.payload → read1 r.payload 0 ∈ s.tables.bridgeAllow.seen →
    s.bridge.state ≠ .fault → s.bridge.relays.length < 4 → StepStartStands s →
    let joined := fun (state : RelayState) (u : State) => { u with bridge.relays := u.bridge.relays ++ [relayOf r state] }
    let taken := { s with port.requests := s.port.requests.tail }
    let served := fun t : State =>
      (s.bridge.state = .busy → Ends (joined .waiting taken) t)
      ∧ (s.bridge.state = .idle → s.bridge.waitingPoll = none → s.seq.phase = .readout → Ends (joined .waiting taken) t)
      ∧ (s.bridge.state = .idle → QuietBus s → s.seq.phase ≠ .readout →
        match Config.dataLine s.freeSeq with
        | .stuck => Ends (queueReport .bridgeFault [2#8, byteOf (read1 r.payload 0)]
            (joined (.replyWaiting .busStuck []) { recovered taken with freeSeq := s.freeSeq + 1, bridge.state := .fault })) t
        | _ =>
          let q := relayOf r .waiting
          Ends (joined .onBus (onBus { claimant := .relay, device := q.device, reg := q.reg, access := q.access } taken)) t)
    (CanTake s 18 r → r.payload.length = 5 + read1 r.payload 4 → ∃ t, exec .bridgeWrite s = .next t ∧ served t)
      ∧ (CanTake s 19 r → r.payload.length = 5 → ∃ t, exec .bridgeRead s = .next t ∧ served t)

/-- BRIDGE_RECOVER is BAD_STATE outside FAULT, and in FAULT starts a pulse train at the present speed and holds the port under
the reply-waiting mark. At its end nine pulses and a stop have been sent; the bridge is IDLE when the line is high, and the
reply OK with FREED, or still in FAULT, and the reply BUS_STUCK; the reply is queued where an entry is free and waits
otherwise. A train whose request is gone, Link Out locked or not, ends without a reply (R151, R152, R170, R175). That a train
asked for while such a one runs follows it, the bridge in FAULT until the last one's look, is the model's reading (log 31). -/
def Obligations.BridgeRecoverRunsPulseTrain : Prop :=
  (∀ (s : State) (r : Request), CanTake s 20 r → r.payload = [] → ∃ t, exec .bridgeRecover s = .next t
      ∧ let held := { s with port.requests := s.port.requests.tail, port.waiting := some (.train r.tag r.kind) }
        (s.bridge.state ≠ .fault → Ends (replied r .badState [] s) t)
        ∧ (s.bridge.state = .fault → s.bridge.train = none →
          Ends { held with bridge.train := some s.params.bridgeSpeed } t)
        ∧ (s.bridge.state = .fault → s.bridge.train ≠ none →
          Ends { held with bridge.trainsWaiting := s.bridge.trainsWaiting + 1 } t))
    ∧ ∀ (s : State) (high : Bool) (speed : Nat), s.bridge.train = some speed →
      ∃ t, exec (.bridgeRecoverDone high) s = .next t
        ∧ let sent := { s with bridge.bus := ninePulses speed :: s.bridge.bus }
          let ended := { sent with bridge.train := none, bridge.state := if high then .idle else .fault }
          (∀ left, s.bridge.trainsWaiting = left + 1 →
            Ends { sent with bridge.train := some s.params.bridgeSpeed, bridge.trainsWaiting := left } t)
          ∧ (s.bridge.trainsWaiting = 0 → s.port.waiting = none → Ends ended t)
          ∧ (s.bridge.trainsWaiting = 0 → s.out.locked = true → ∀ tag kind, s.port.waiting = some (.train tag kind) →
            let reply : QueuedPacket := if high then .reply tag kind .ok [0#8] else .reply tag kind .busStuck []
            (s.out.queue.length < 16 → Ends { ended with port.waiting := none, out.queue := s.out.queue ++ [reply] } t)
              ∧ (16 ≤ s.out.queue.length → Ends { ended with port.waiting := some (.due reply) } t))

/-- The poll claim, and the two ends of a transaction on a bus that no other claim waits for. A POLL claim takes the place of
an earlier one that still waits; it is BLOCKED or BUS_STUCK at its presentation, waits for a busy bus, and else starts, as an
immediate one at EXPOSE entry does (PollClaimed). A transaction that ends has been on the bus whole when DONE; at a NACK the
stop follows at once behind the address or byte refused, no later byte sent; at a TIMEOUT the lines are released with no stop,
at a place that is an open value (log 36). A POLL that ends DONE converts its two bytes, rounded and clamped, into the last
good temperature, and counts as the poll of its own exposure alone; in any other outcome it leaves the value alone. A relay
gets its outcome and the bytes read, and its reply waits, but leaves the queue at once while Link Out is unlocked; TIMEOUT is
an outcome like the others. A SCRIPT entry is reported unless DONE; in STEP_START its end hands the next index over, which
starts on the bus, or is reported with NO_ENTRY or BLOCKED, and the last entry's end, with no settle timer running, leads to
WAIT, and to EXPOSE for a gap of 0 (R7, R8, R147, R148, R150, R153, R155, R157, R159, R160, R171). That POLL_CLAIM moves the
clock to at least its time is the model's choice (log 3); the codes of SCRIPT_RESULT (log 24) and the order of the reports at
FAULT (log 31) are its reading. -/
def Obligations.BusTransactionsEndWithOutcome : Prop :=
  (∀ (s : State) (d : Nat), s.seq.pollAt = some d → ∃ t v, exec .pollClaim s = .next t
    ∧ PollClaimed { s with now := max s.now d } v ∧ Ends v t
    ∧ let claimed := { s with now := max s.now d, seq.pollAt := none, bridge.waitingPoll := none }
      let poll : Transaction :=
        { claimant := .poll s.seq.exposureNumber s.params.pollGain s.params.pollOffset, device := s.params.pollDevice,
          reg := s.params.pollRegister, access := .read 2 }
      (s.params.pollDevice ∉ s.tables.bridgeAllow.seen ∨ s.bridge.state = .fault → Ends claimed t)
      ∧ (s.params.pollDevice ∈ s.tables.bridgeAllow.seen → s.bridge.state = .busy →
        Ends { claimed with bridge.waitingPoll := some poll } t)
      ∧ (s.params.pollDevice ∈ s.tables.bridgeAllow.seen → s.bridge.state = .idle → QuietBus claimed →
        match Config.dataLine s.freeSeq with
        | .stuck => Ends (queueReport .bridgeFault [0#8, byteOf s.params.pollDevice]
            { recovered claimed with freeSeq := s.freeSeq + 1, bridge.state := .fault }) t
        | _ => Ends (onBus poll claimed) t))
  ∧ ∀ (s : State) (f : InFlight) (c : Instr) (outcome : BusOutcome) (data : List Byte),
    s.bridge.inFlight = some f → s.bridge.waitingPoll = none → s.bridge.waitingScript = none → s.seq.scriptLeft = [] →
    (∀ q ∈ s.bridge.relays, q.isWaiting = false) → s.seq.phase ≠ .stepStart →
    ∀ freed, EndsTransaction s f c outcome data freed →
    ∃ t, exec c s = .next t
      ∧ (∀ k gain offset, f.transaction.claimant = .poll k gain offset →
          (outcome = .done → Ends { freed with
            bridge.lastGood := some (clampInt (-160) 340 (roundDiv (readSigned2 data 0 * gain) 256 + offset)),
            seq.pollDone := s.seq.pollDone || decide (s.seq.exposureNumber = k) } t)
          ∧ (outcome ≠ .done → Ends freed t))
        ∧ (∀ step index live, f.transaction.claimant = .script step index live →
          (outcome = .done → Ends freed t)
          ∧ (outcome ≠ .done → Ends (queueReport .scriptResult
            [byteOf step, byteOf index, byteOf outcome.code, byteOf outcome.byteIndex] freed) t))
        ∧ (f.transaction.claimant = .relay → ∀ before q after, s.bridge.relays = before ++ q :: after → q.state = .onBus →
          (∀ b ∈ before, b.state ≠ .onBus) →
          (s.out.locked = true →
            Ends { freed with bridge.relays := before ++ { q with state := .replyWaiting outcome data } :: after } t)
          ∧ (s.out.locked = false → Ends { freed with bridge.relays := before ++ after } t))
  ∧ ∀ (s : State) (f : InFlight) (c : Instr) (outcome : BusOutcome) (step index : Nat),
    s.bridge.inFlight = some f → f.transaction.claimant = .script step index true → s.seq.phase = .stepStart →
    s.bridge.waitingPoll = none → s.bridge.waitingScript = none → (∀ q ∈ s.bridge.relays, q.isWaiting = false) →
    ∀ data freed, EndsTransaction s f c outcome data freed →
    ∃ t, exec c s = .next t
      ∧ let scripted := fun (step index code byteIndex : Byte) (u : State) =>
          queueReport .scriptResult [step, index, code, byteIndex] u
        let told := if outcome = .done then freed
          else scripted (byteOf step) (byteOf index) (byteOf outcome.code) (byteOf outcome.byteIndex) freed
        (s.seq.scriptLeft = [] →
          (s.seq.settleTimer ≠ none → Ends told t)
          ∧ (s.seq.settleTimer = none → ∀ st, s.tables.plan.seen[s.seq.step]? = some st →
            (∃ w, WaitEntered st told w ∧ Ends w t)
            ∧ (st.cadence = .external → Ends { told with seq := { s.seq with phase := .wait, gapTimer := none } } t)
            ∧ (st.cadence = .internal → 0 < st.gap →
              Ends { told with seq := { s.seq with phase := .wait, gapTimer := some (s.now + st.gap) } } t)
            ∧ (st.cadence = .internal → st.gap = 0 → pollLater st s → Ends (exposing st told) t)))
        ∧ (∀ next rest e, s.seq.scriptLeft = next :: rest → s.tables.bridgeScript.seen[next]? = some e →
          e.device ∈ s.tables.bridgeAllow.seen →
          match Config.dataLine freed.freeSeq with
          | .stuck => t.bridge.state = .fault ∧ t.bridge.inFlight = none ∧ t.seq.scriptLeft = []
            ∧ t.bridge.bus = ninePulses s.params.bridgeSpeed :: freed.bridge.bus
          | _ => Ends (onBus
              { claimant := .script s.seq.step next true, device := e.device, reg := e.reg, access := .write e.data }
              { told with seq.scriptLeft := rest }) t)
        ∧ ∀ next, s.seq.scriptLeft = [next] → s.seq.settleTimer ≠ none →
          (s.tables.bridgeScript.seen[next]? = none →
            Ends (scripted (byteOf s.seq.step) (byteOf next) 6#8 0#8 { told with seq.scriptLeft := [] }) t)
          ∧ ∀ e, s.tables.bridgeScript.seen[next]? = some e → e.device ∉ s.tables.bridgeAllow.seen →
            Ends (scripted (byteOf s.seq.step) (byteOf next) 5#8 0#8 { told with seq.scriptLeft := [] }) t

/-- When a transaction ends, in any way it can, its claimant is told (ClaimantTold): a DONE poll's bytes become the last good
temperature; a script entry is reported unless DONE, and in STEP_START the step's next index is handed over; a relay's reply is
due. Then the bus is served (BusServed): the next transaction goes on it in the order POLL, SCRIPT, oldest relay, the last two
passed over in READOUT, at the present speed and in the order of R147, and the claims not selected go on waiting. A waiting
claim whose address is no longer in BRIDGE_ALLOW when it is selected ends BLOCKED, the bus stays free, and the next claim is
served. A claimant whose line is found stuck sends the bridge to FAULT, and no claim waits on; nine clock pulses and a stop are
sent on a line found low (R147, R148, R150, R151, R153, R155, R157, R160, R171). Nothing else happens, but that a STEP_START
left with no script entry and no settle timer goes on to WAIT, and to EXPOSE for a gap of 0, its immediate poll claimed (R7,
R8, R9, R159). A transaction that a TIMEOUT ends stands in the record up to a place that is an open value (log 36). The codes
of SCRIPT_RESULT are the model's reading (log 24), and so is the order of the reports at FAULT (log 31). -/
def Obligations.BusServesPollThenScriptThenRelay : Prop :=
  ∀ (s : State) (f : InFlight) (c : Instr) (outcome : BusOutcome) (data : List Byte) (freed : State),
    s.bridge.inFlight = some f → EndsTransaction s f c outcome data freed →
    ∃ t u v, exec c s = .next t ∧ ClaimantTold f outcome data freed u ∧ BusServed u v
      ∧ (s.seq.phase ≠ .stepStart ∨ s.seq.settleTimer ≠ none ∨ scriptsEnded v = false → Ends v t)
      ∧ (s.seq.phase = .stepStart → s.seq.settleTimer = none → scriptsEnded v = true →
        ∀ st, s.tables.plan.seen[s.seq.step]? = some st → ∃ w, WaitEntered st v w ∧ Ends w t)

/-! ### Lines -/

/-- LINE_LEVEL sets the USER level of an OUTPUT line with source USER, which follows it at once where no minimum-pulse timer
runs; any other line and any level but 0 and 1 is BAD_ARG (R29, R30). LINE_READ gives three bytes for each line, L0 first: its
direction, its source or function, and its invert flag, pin level, logical level and timer or pending flag (R34). -/
def Obligations.LineRequestsSetAndRead : Prop :=
  (∀ (s : State) (r : Request), CanTake s 21 r → r.payload.length = 2 → ∃ t, exec .lineLevel s = .next t
    ∧ let user := fun l : LineNo => (lineSetup s l).use matches .output .user _
      let level := read1 r.payload 1
      (∀ l : LineNo, l.val = read1 r.payload 0 → level ≤ 1 → user l = true →
        Ends { replied r .ok [] s with
          lines := s.lines.set l { s.lines.get l with user := decide (level = 1) } } t
        ∧ ((s.lines.get l).minTimer = none → (t.lines.get l).driven = decide (level = 1)))
      ∧ (1 < level ∨ (∀ l : LineNo, l.val = read1 r.payload 0 → user l = false) → Ends (replied r .badArg [] s) t))
  ∧ ∀ (s : State) (r : Request), CanTake s 22 r → r.payload = [] → ∃ t p, exec .lineRead s = .next t
    ∧ Ends (replied r .ok p s) t ∧ p.length = 18
    ∧ ∀ l : LineNo,
      let x := s.lines.get l
      let setup := lineSetup s l
      field p (3 * l.val) 3 = match setup.use with
        | .input function _ => [0#8, byteOf function.code,
            packBits setup.invert x.outside (x.accepted ^^ setup.invert) (decide (x.outside ≠ x.accepted))]
        | .output source _ => [1#8, byteOf source.code,
            packBits setup.invert (x.driven ^^ setup.invert) x.driven x.minTimer.isSome]

/-! ### PART_RESET -/

/-- PART_RESET at the head of the queue is taken whatever waits, and leaves the blocks as R190 says: its OK is the first
packet queued, then the report of a render it abandoned, then that of a take state it changed; the queue and the request
queue are otherwise empty, the take is NO_TAKE, the lines are driven afresh with their USER levels inactive, and tables,
parameters and the locks stay. On Link Out the hold is clear, the raw-run count 0, and the packet in progress stays, a render
packet as one of no render in hand; with none in progress the OK starts at once, or a render's packet that the same event
makes available with it: which of the two is a free value (R165, log 40). Of a render that is ACTIVE what has not begun is
withdrawn, and once its FRAME_START has begun a FRAME_END with ABANDONED set and its count of LINEs, the one in progress
included, follows; a FRAME_END of an earlier render stays. A CLEARING pass stops at the record it has reached: those before
it are cleared, the others keep what they held, and which record that is is an open value (log 8) (R1, R27, R43, R64, R66,
R88, R104, R112, R130, R142, R145, R146, R162, R190). The Sequencer fields that no rule gives a value there, the times of
EXPOSE and HOLD entry and LINE_TIME, are the model's choice (log 12), as is its number of the exposure (log 29); the codes of
the reports are its reading (log 24). GO_REQ is handed over where the HOLD_REQ flag was set (R168, R174), and a transaction
or a pulse train on the bus is cut by a stop condition (R146) and stands so in the model's record (log 29); the place of the
cut is an open value (log 36). -/
def Obligations.PartResetLeavesResetState : Prop :=
  ∀ (s : State) (r : Request), s.port.requests.head? = some r → r.kind.toNat = 23 → r.payload = [] → s.out.locked = true →
    (s.seq.takeState = .clearing ↔ s.arb.holder = .clearing) → ∃ t, exec .partReset s = .next t
      ∧ t.seq = Sequencer.reset ∧ t.log = SubframeLog.empty ∧ t.meas = MeasurementTimer.reset ∧ t.cal = Calibration.reset
      ∧ t.trails = TrailDetector.reset ∧ t.bridge = { SensorBridge.reset with bus := t.bridge.bus } ∧ t.arb = Arbiter.reset
      ∧ (∀ f, s.bridge.inFlight = some f → ∃ k ≤ f.actions.length - 1,
        t.bridge.bus = { speed := f.speed, actions := f.actions.take k ++ [.stop] } :: s.bridge.bus)
      ∧ (∀ speed, s.bridge.inFlight = none → s.bridge.train = some speed → ∃ k ≤ 9,
        t.bridge.bus = { speed := speed, actions := (ninePulses speed).actions.take k ++ [.stop] } :: s.bridge.bus)
      ∧ (s.bridge.inFlight = none → s.bridge.train = none → t.bridge.bus = s.bridge.bus)
      ∧ (s.port.holdReqSent = true → s.out.inProgress = none → t.out.sent = .symbol .goReq :: s.out.sent)
      ∧ (s.port.holdReqSent = true → s.out.inProgress ≠ none →
        t.out.sent = s.out.sent ∧ t.out.flowWaiting = some .goReq)
      ∧ (s.port.holdReqSent = false → t.out.sent = s.out.sent ∧ t.out.flowWaiting = s.out.flowWaiting)
      ∧ t.link = { LinkReceiver.reset with locked := s.link.locked } ∧ t.fifo.entries = [] ∧ t.fifo.frames = []
      ∧ t.render.state = .idle ∧ t.render.nextId = 0
      ∧ t.heater = { s.heater with duty := 0 } ∧ t.temps = s.temps
      ∧ t.port = { requests := [], holdReqSent := false, waiting := none, lostReports := false }
      ∧ t.out.locked = true ∧ t.out.held = false ∧ t.out.rawRun = 0
      ∧ (let left := if s.render.state = .active
          then s.out.renderQueue.filter RenderPacket.isFrameEnd ++ (if s.render.startBegun
            then [.frameEnd s.render.kind (s.render.linesSent + boolCode (lineInProgress s)) true] else [])
          else s.out.renderQueue
        let begins := fun (p : LanePacket) (behind : List RenderPacket) =>
          t.out.inProgress = some p ∧ t.out.renderQueue = behind
        (∀ p, s.out.inProgress = some p → begins (if s.render.state = .active then p.detach else p) left)
        ∧ (s.out.inProgress = none → left = [] → begins (.queued (r.reply .ok [])) [])
        ∧ (s.out.inProgress = none → ∀ p behind, left = p :: behind →
          if Config.idleLaneChoice s.out.choices % 2 = 0 then begins (.queued (r.reply .ok [])) left
          else begins (.render p true) behind))
      ∧ t.tables = s.tables ∧ t.params = s.params ∧ t.settings = s.settings ∧ t.now = s.now
      ∧ (s.arb.holder ≠ .clearing → t.plane = s.plane)
      ∧ (s.arb.holder = .clearing →
        let reached := min (Config.clearedRecords s.freeSeq) (s.settings.width * s.settings.height)
        ∀ a, readPixel t a = if a < reached then Pixel.cleared else readPixel s a)
      ∧ (∀ l : LineNo, (t.lines.get l).user = false ∧ (t.lines.get l).debounceTimer = none
        ∧ (t.lines.get l).minTimer = none
        ∧ match (lineSetup t l).use with
          | .output source _ => (t.lines.get l).driven = sourceLevel t (t.lines.get l) source
          | .input _ _ => (t.lines.get l).accepted = (s.lines.get l).outside)
      ∧ queuedTraffic t = (begunPackets s).filterMap LanePacket.queuedPart ++ r.reply .ok []
        :: ((if s.render.state ≠ .idle ∧ s.params.reportMask.getLsbD 4
              then [QueuedPacket.report .renderAbandoned false [byteOf s.render.kind.code, 3#8]] else [])
          ++ if s.seq.takeState ≠ .noTake ∧ s.params.reportMask.getLsbD 2
              then [QueuedPacket.report .takeState false [0#8, 0#8, 0#8, 0#8, 0#8]] else [])

/-! ### Link Out -/

/-- A report of an enabled kind joins the Outgoing Packet Queue with the lost-reports flag as its LOST_BEFORE, and clears the
flag; at a full queue, and while Link Out is unlocked, it is lost and sets the flag; one of a disabled kind is not formed
(R166, R171, R188, R189). A held reply, a relay's reply and the oldest trail record leave their own queues for a free entry,
and wait at a full queue; a relay's reply is discarded while Link Out is unlocked (R128, R155, R171, R175). The layout of a
relay's payload is the model's reading (log 23). A trail record stands in its 17 bytes (11.3) and every packet in the bytes of
11.2, field by field, with its CRC (R191, R192); a count of lines sent beyond its field is an open value (log 38), and the
numbers of kinds and statuses are by the order of their lists (log 24). -/
def Obligations.ReportsAndWaitingTrafficJoinQueue : Prop :=
  (∀ r : TrailRecord, TrailLayout r.bytes r) ∧ (∀ p : LanePacket, PacketLayout p.bytes p)
  ∧ (∀ (kind : ReportKind) (payload : List Byte) (s : State),
    let enabled := s.params.reportMask.getLsbD (kind.code - 1)
    let room := s.out.locked = true ∧ s.out.queue.length < 16
    (enabled = true → room → queueReport kind payload s = { s with
        out.queue := s.out.queue ++ [.report kind s.port.lostReports payload], port.lostReports := false })
      ∧ (enabled = true → ¬ room → queueReport kind payload s = { s with port.lostReports := true })
      ∧ (enabled = false → queueReport kind payload s = s))
  ∧ (∀ (s : State) (reply : QueuedPacket), s.port.waiting = some (.due reply) → s.out.locked = true →
    (s.out.queue.length < 16 → ∃ t, exec .waitingReplyQueued s = .next t
        ∧ Ends { s with port.waiting := none, out.queue := s.out.queue ++ [reply] } t)
      ∧ (16 ≤ s.out.queue.length → exec .waitingReplyQueued s = .next s))
  ∧ (∀ (s : State) (before after : List Relay) (q : Relay) (outcome : BusOutcome) (data : List Byte),
    s.bridge.relays = before ++ q :: after → q.state = .replyWaiting outcome data → (∀ b ∈ before, b.isAnswered = false) →
    let left := { s with bridge.relays := before ++ after }
    let kind : Byte := match q.access with
      | .write _ => 18#8
      | .read _ => 19#8
    (s.out.locked = true → s.out.queue.length < 16 → ∃ t, exec .relayReplyQueued s = .next t
        ∧ Ends { left with out.queue := s.out.queue ++ [.reply q.tag kind outcome.status
            (byteOf outcome.byteIndex :: if outcome = .done then data else [])] } t)
      ∧ (s.out.locked = false → ∃ t, exec .relayReplyQueued s = .next t ∧ Ends left t)
      ∧ (s.out.locked = true → 16 ≤ s.out.queue.length → exec .relayReplyQueued s = .next s))
  ∧ ∀ (s : State) (record : TrailRecord) (rest : List TrailRecord), s.trails.queue = record :: rest →
    (s.out.locked = true → s.out.queue.length < 16 → s.params.reportMask.getLsbD 1 = true →
        ∃ t, exec .trailQueueDrain s = .next t ∧ Ends { s with
          trails.queue := rest, out.queue := s.out.queue ++ [.report .trail s.port.lostReports record.bytes],
          port.lostReports := false } t)
      ∧ (s.out.locked = false ∨ 16 ≤ s.out.queue.length → exec .trailQueueDrain s = .next s)

/-- HOLD_OUT sets the hold, under which no packet starts; GO_OUT clears it, and a lane without a packet in progress starts
the next at once: a queued packet where the raw-run count is at 32, else the due packet of the oldest forwarded frame (its
FRAME_START, then its oldest waiting line, or its FRAME_END once it is truncated, or closed with no line left), else a queued
packet, else a render packet. A RAW packet adds to the raw-run count, any other sets it to 0; that the count moves as the
packet begins is the model's choice (log 43). While Link Out is unlocked neither symbol arrives. Whatever a command makes
available starts at once on an idle lane: no command leaves the lane idle with a packet due. On an idle lane with nothing
due, the reply of a render request and the FRAME_START of its render become available together: either may start, by a free
value (log 40), and the other waits (R61, R134, R140, R163 to R165, R167 and 9.4). -/
def Obligations.LaneServesSourcesInOrder : Prop :=
  (∀ (c : Instr) (s t : State), (LaneIdle s → NothingOffered s) → exec c s = .next t → LaneIdle t → NothingOffered t)
  ∧ (∀ (s : State) (r : Request), LaneIdle s → NothingOffered s → r.payload = [] → s.render.state = .idle →
    s.arb.holder = .none →
    let reply := r.reply .accepted (bytes2 s.render.nextId)
    let started := fun (kind : RenderKind) (t : State) =>
      let start := RenderPacket.frameStart kind s.render.nextId s.settings.width s.settings.height
      if Config.idleLaneChoice s.out.choices % 2 = 0
      then t.out.inProgress = some (.queued reply) ∧ t.out.queue = [] ∧ t.out.renderQueue = [start]
      else t.out.inProgress = some (.render start true) ∧ t.out.queue = [reply] ∧ t.out.renderQueue = []
    (CanTake s 14 r → s.seq.takeState ∉ [.aborted, .noTake, .clearing, .finishing] →
      ∃ t, exec .renderPreview s = .next t ∧ started .preview t)
    ∧ (CanTake s 15 r → s.seq.takeState = .finished → ∃ t, exec .renderRepeat s = .next t ∧ started .final t))
  ∧ ∀ s : State, (s.out.locked = false → exec .holdOut s = .next s ∧ exec .goOut s = .next s)
    ∧ (s.out.locked = true → ∃ t, exec .holdOut s = .next t ∧ Ends { s with out.held := true } t
      ∧ t.out = { s.out with held := true } ∧ t.fifo = s.fifo)
    ∧ (s.out.locked = true → ∃ t, exec .goOut s = .next t ∧ Ends { s with out.held := false } t
      ∧ let started := fun (p : LanePacket) (run : Nat) =>
          t.out.inProgress = some p ∧ t.out.rawRun = run ∧ t.out.sent = s.out.sent
        let rawNext := fun p : LanePacket => started p (min 32 (s.out.rawRun + 1)) ∧ t.out.queue = s.out.queue
          ∧ t.out.renderQueue = s.out.renderQueue
        let lines := fun (g : ForwardedFrame) (e : FifoEntry) => e.forward = .pending ∧ e.frame = some g.number
        let rawQuiet := ∀ g ∈ s.fifo.frames.head?, g.startBegun = true ∧ g.truncated = false ∧ g.isOpen = true
          ∧ ∀ e ∈ s.fifo.entries, ¬ lines g e
        (s.out.inProgress ≠ none → t.out = { s.out with held := false })
        ∧ (s.out.inProgress = none →
          (∀ q rest, s.out.queue = q :: rest → s.out.rawRun = 32 ∨ rawQuiet →
            started (.queued q) 0 ∧ t.out.queue = rest ∧ t.out.renderQueue = s.out.renderQueue ∧ t.fifo = s.fifo)
          ∧ (s.out.queue = [] ∨ s.out.rawRun ≠ 32 → ∀ g later, s.fifo.frames = g :: later →
            (g.startBegun = false → rawNext (.rawStart g.number g.frameId g.width g.height)
              ∧ ∀ f ∈ t.fifo.frames, f.number = g.number → f.startBegun = true)
            ∧ (g.startBegun = true → g.truncated = true → rawNext (.rawEnd g.linesSent true) ∧ t.fifo.frames = later)
            ∧ (g.startBegun = true → g.truncated = false →
              (∀ before e after, s.fifo.entries = before ++ e :: after → lines g e → (∀ b ∈ before, ¬ lines g b) →
                rawNext (.rawLine g.number e.number e.row (e.pixels.getD [])) ∧ t.fifo = s.fifo)
              ∧ ((∀ e ∈ s.fifo.entries, ¬ lines g e) → g.isOpen = false →
                rawNext (.rawEnd g.linesSent false) ∧ t.fifo.frames = later)))
          ∧ (s.out.queue = [] → rawQuiet → ∀ p rest, s.out.renderQueue = p :: rest →
            started (.render p true) 0 ∧ t.out.renderQueue = rest ∧ t.fifo = s.fifo)
          ∧ (s.out.queue = [] → rawQuiet → s.out.renderQueue = [] → t.out = { s.out with held := false })))

/-- The loss of Link Out lock cuts the packet in progress, empties the queues and the Request Queue, clears the hold, the
raw-run count and a waiting flow symbol, gives up every forwarded frame, and abandons a render in hand with LINK_DOWN, by which
a FINISHING take returns to COMPLETE and an exposure in HOLD goes to READOUT (ReadoutOpened); the take otherwise goes on.
Reports in the queue are lost (R1, R11, R20, R63, R108, R134, R144, R170). At the regain a TAKE_STATE report is the first
packet queued, whatever report_mask says (R172). That the first lock after power-on counts as a regain (log 41), that a relay
whose reply waits at the regain leaves its queue unanswered (log 42), and that a poll not yet claimed at the release of an
exposure is not made (log 35), are the model's reading. -/
def Obligations.LinkOutLossAndRegain : Prop :=
  (∀ s : State, Coherent s → s.out.locked = true → ∃ t, exec .linkOutLockLoss s = .next t
    ∧ t.out = {
        locked := false, held := false, inProgress := none, rawRun := 0, queue := [], renderQueue := [], flowWaiting := none,
        choices := s.out.choices, sent := (s.out.inProgress.map LaneItem.cut).toList ++ s.out.sent }
    ∧ t.port = { requests := [], holdReqSent := false, waiting := none, lostReports := t.port.lostReports }
    ∧ (s.port.lostReports = true ∨ (∃ p ∈ s.out.queue, p.isReport = true) → t.port.lostReports = true)
    ∧ t.fifo.frames = [] ∧ (∀ e ∈ t.fifo.entries, e.forward ≠ .pending) ∧ (∀ n, t.link.forwarding ≠ .frame n)
    ∧ t.render.state = .idle ∧ t.seq.finalHeld = false
    ∧ t.seq.takeState = (if s.seq.takeState = .finishing then .complete else s.seq.takeState)
    ∧ (s.seq.phase = .hold → t.seq.phase = .readout ∧ t.arb.holder = .ingest ∧ ∀ q st, s.log.openRecord = some q →
      s.tables.plan.seen[s.seq.step]? = some st → ReadoutOpened q st (s.now - s.seq.holdStart) s t)
    ∧ (s.seq.phase ≠ .hold → t.seq.phase = s.seq.phase ∧ t.log = s.log)
    ∧ t.seq.step = s.seq.step ∧ t.seq.count = s.seq.count ∧ t.log.closed = s.log.closed ∧ t.plane = s.plane
    ∧ t.trails.queue = s.trails.queue ∧ t.bridge = s.bridge ∧ t.tables = s.tables ∧ t.params = s.params
    ∧ t.settings = s.settings)
  ∧ ∀ s : State, s.out.locked = false → s.out.queue = [] → ∃ t, exec .linkOutLockRegain s = .next t
    ∧ Ends { s with
        out.locked := true, port.lostReports := false, bridge.relays := s.bridge.relays.filter fun q => !q.isAnswered,
        out.queue := [.report .takeState s.port.lostReports (byteOf s.seq.takeState.code :: byteOf s.seq.phase.code
          :: byteOf s.seq.step :: bytes2 (subframeIndex s))] } t

/-- The packet in progress has left: a waiting flow symbol follows it, and its source moves on. A RAW LINE makes its entry
SENT, frees what is finished and counts in its frame; a render LINE moves the row cursor, and the last one completes the
render: the FRAME_END, the RENDER_DONE report, the plane free or granted to an ingest in HOLD (ReadoutOpened), for the
Sequencer's FINAL the take FINISHED, and for a PREVIEW behind which the Sequencer holds a FINAL request that render begun.
Then the lane starts the next packet, the one R164 chooses (R11, R60, R61, R108, R133, R140, R141, R164, R168). That a RAW
LINE in progress when the drop level abandoned its frame also becomes SENT and counts (log 17), and that a poll not yet
claimed at the release of an exposure is not made (log 35), are the model's reading; the order within the event is its choice
(log 18). -/
def Obligations.PacketEndMovesItsSource : Prop :=
  ∀ (s : State) (p : LanePacket), Coherent s → s.out.locked = true → s.out.inProgress = some p →
    let done := { s with
      out.inProgress := none, out.flowWaiting := none,
      out.sent := (s.out.flowWaiting.map LaneItem.symbol).toList ++ .sent p :: s.out.sent }
    (∀ frame entry row pixels, p = .rawLine frame entry row pixels → exec .linkOutPacketEnd s = .next (endBoundary { done with
        fifo.frames := s.fifo.frames.map fun g => if g.number = frame then { g with linesSent := g.linesSent + 1 } else g,
        fifo.entries := (s.fifo.entries.map fun e => if e.number = entry then { e with forward := .sent } else e).dropWhile
          fun e => e.ingestDone && decide (e.forward ≠ .pending) }))
    ∧ ((p matches .rawLine _ _ _ _) = false → (p matches .render (.line _ _ _) true) = false →
      exec .linkOutPacketEnd s = .next (endBoundary done))
    ∧ (∀ kind row values, p = .render (.line kind row values) true →
      (s.render.row + 1 < s.settings.height → exec .linkOutPacketEnd s = .next (endBoundary { done with
        render.linesSent := s.render.linesSent + 1, render.rowHanded := false, render.row := s.render.row + 1 }))
      ∧ (s.settings.height ≤ s.render.row + 1 → ∃ t, exec .linkOutPacketEnd s = .next t
        ∧ let completed := queueReport .renderDone (byteOf s.render.kind.code :: bytes2 s.render.frameId ++ bytes2 s.render.lights
              ++ bytes4 s.render.holes ++ bytes4 s.render.fullScale) { done with
            render := { s.render with state := .idle, linesSent := s.render.linesSent + 1, rowHanded := false },
            arb.holder := .none,
            out.renderQueue := s.out.renderQueue ++ [.frameEnd s.render.kind s.settings.height false] }
          (s.arb.waiting = .none → s.seq.finalHeld = false →
            (s.render.kind = .final → s.seq.takeState = .finishing →
              Ends (queueReport .takeState (6#8 :: 0#8 :: byteOf s.seq.step :: bytes2 (subframeIndex s)) { completed with
                seq := { s.seq with takeState := .finished, phase := .none, shutter := false, stepLevel := false } }) t)
            ∧ (¬ (s.render.kind = .final ∧ s.seq.takeState = .finishing) → Ends completed t))
          ∧ (s.seq.finalHeld = true → Ends (renderBegun .final { completed with seq.finalHeld := false }) t)
          ∧ (s.arb.waiting = .ingest → t.render.state = .idle ∧ t.arb = { holder := .ingest, waiting := .none }
            ∧ t.seq.phase = .readout ∧ signalExpose t = false ∧ queuedTraffic t = queuedTraffic completed
            ∧ renderTraffic t = renderTraffic completed ∧ ∀ q st, s.log.openRecord = some q →
              s.tables.plan.seen[s.seq.step]? = some st → ReadoutOpened q st (s.now - s.seq.holdStart) s t)))

/-! ### Link In -/

/-- A control symbol that is none of the four, and a packet of Link In that is none of the three or has a wrong length, are
discarded and change nothing (R45, R193); and nor does anything that arrives while Link In is unlocked (R45, R56). Gaining lock
takes packets in again (R47); losing it ends the frame in progress and an open readout, whether or not its frame has begun
(R56), which serves the bus (R153) and else leaves the bridge alone. The bytes of a packet pick its command: type 0x01 with a
counter, 0x02 with row, count, pixel words and CRC, 0x03 with a line count, each field high byte first; any other type, and a
FRAME_START or FRAME_END of another length, is discarded (R45, R191, R192). That a LINE is read by its count, bytes behind its
CRC unread, and has no CRC where it ends too soon is the model's reading (log 39). That an exposed_us decided there is held to
its range is the model's reading (log 27), and that losing a lock not held changes nothing its choice (log 4). In what serving
the bus leaves, the codes of SCRIPT_RESULT (log 24) and the order of the reports at the entry to FAULT (log 31) are the model's
reading. -/
def Obligations.LinkInLockAndDiscardedInput : Prop :=
  (∀ h l : Byte, linkInCommand [0x01#8, h, l] = .frameStart (h ++ l) ∧ linkInCommand [0x03#8, h, l] = .frameEnd (h ++ l))
  ∧ (∀ (row : Half) (words : List Half) (crc : Half) (surplus : List Byte), words.length ≤ 65535 →
    linkInCommand (0x02#8 :: bytes2 row.toNat ++ bytes2 words.length ++ words.flatMap (fun w => bytes2 w.toNat)
      ++ bytes2 crc.toNat ++ surplus) = .line row words (some crc))
  ∧ (∀ rest : List Byte, rest.length < 6 + 2 * read2 rest 2 → ∃ row words,
    linkInCommand (0x02#8 :: rest) = .line row words none)
  ∧ (∀ (type : Byte) (rest : List Byte), type ∉ [0x01#8, 0x02#8, 0x03#8] ∨ type ∈ [0x01#8, 0x03#8] ∧ rest.length ≠ 2 →
    linkInCommand (type :: rest) = .linkInPacketDiscard)
  ∧ ∀ s : State, exec .controlSymbolUnknown s = .next s ∧ exec .linkInPacketDiscard s = .next s
    ∧ exec .linkInLockGained s = .next { s with link.locked := true }
    ∧ (s.link.locked = false → exec .linkInLockLost s = .next s ∧ (∀ counter, exec (.frameStart counter) s = .next s)
      ∧ (∀ row words crc, exec (.line row words crc) s = .next s) ∧ ∀ lines, exec (.frameEnd lines) s = .next s)
    ∧ (s.link.locked = true → ∃ t, exec .linkInLockLost s = .next t
      ∧ t.link.locked = false ∧ t.link.frame = .none ∧ t.link.readout = none ∧ t.link.strayCount = s.link.strayCount
      ∧ t.link.rowMap = s.link.rowMap ∧ t.fifo.entries = s.fifo.entries ∧ t.plane = s.plane ∧ t.arb = s.arb
      ∧ t.log.closed = s.log.closed
      ∧ (s.link.readout = none → t.seq = s.seq ∧ t.log = s.log ∧ t.meas = s.meas ∧ SameBus s t)
      ∧ (s.link.readout ≠ none → ∃ u, ReadoutEnded s u ∧ t.seq = u.seq ∧ t.log = u.log ∧ t.meas = u.meas ∧ SameBus u t))

/-- FRAME_START outside a readout, or within one that has seen its frame, begins a stray frame, counted modulo 65536 and
forwarded when stray_forward is on; the second one ends the readout first (R48, R51), which serves the bus (R153); no other
touches the bridge. The first FRAME_START of a readout begins the subframe frame: its counter goes into the record; for a light
subframe the exposure is decided and S computed; it is forwarded when the step says so, and abandoned at once while Link Out is
unlocked (R38, R48, R61, R76, R171). A frame that is forwarded opens behind the others, with its frame id, the width and height
recorded at TAKE_START (log 20), no line sent and not truncated; its own FRAME_START packet may begin at this event, and so may
the last FRAME_END of the oldest frame, which then leaves (R61, R164). The forwarded frame of a frame that this FRAME_START
ends closes to new lines (R48, R51, R61). That an exposed_us outside 1..4,294,967,295 takes the nearer end, S with it, is the
model's reading (log 27). In what serving the bus leaves, the codes of SCRIPT_RESULT (log 24) and the order of the reports at
the entry to FAULT (log 31) are the model's reading. -/
def Obligations.FrameStartBeginsFrame : Prop :=
  ∀ (s : State) (counter : Half), s.link.locked = true → ∃ t, exec (.frameStart counter) s = .next t
    ∧ let forwarded : Forwarding := if s.out.locked then .frame s.fifo.nextFrame else .abandoned
      let opens := fun asked : Bool =>
        let opened := asked && s.out.locked
        t.fifo.nextFrame = s.fifo.nextFrame + boolCode opened
        ∧ AtMostFirstEnded t.out.inProgress (s.fifo.frames.map ForwardedFrame.number ++ if opened then [s.fifo.nextFrame] else [])
          (t.fifo.frames.map ForwardedFrame.number)
        ∧ (opened = true → ∃ begun, t.fifo.frames.getLast? = some {
            number := s.fifo.nextFrame, frameId := counter.toNat, width := s.settings.width, height := s.settings.height,
            startBegun := begun, linesSent := 0, isOpen := true, truncated := false }
          ∧ (begun = true → ∃ frameId width height, t.out.inProgress = some (.rawStart s.fifo.nextFrame frameId width height)))
      let stray := t.link.frame = .stray ∧ t.link.strayCount = (s.link.strayCount + 1) % 65536 ∧ t.link.readout = none
        ∧ t.link.forwarding = (if s.params.strayForward then forwarded else .no) ∧ t.link.rowMap = s.link.rowMap
        ∧ t.fifo.entries = s.fifo.entries ∧ opens s.params.strayForward
      t.plane = s.plane ∧ t.arb = s.arb ∧ t.trails = s.trails ∧ t.tables = s.tables ∧ t.log.closed = s.log.closed
      ∧ (∀ g ∈ t.fifo.frames, s.link.forwarding = .frame g.number → g.number < s.fifo.nextFrame → g.isOpen = false)
      ∧ (s.link.readout = none → stray ∧ t.seq = s.seq ∧ t.log = s.log ∧ SameBus s t)
      ∧ (∀ rd, s.link.readout = some rd → rd.seenFrame = true →
        stray ∧ t.seq.phase = .settle ∧ t.seq.readoutTimer = none ∧ t.link.lastRow = none ∧ ReadoutFreesBus s t)
      ∧ (∀ rd, s.link.readout = some rd → rd.seenFrame = false →
        t.link = { s.link with
          frame := .subframe, lastRow := none, readout := some { rd with seenFrame := true },
          forwarding := if rd.forward then forwarded else .no }
        ∧ t.seq = s.seq ∧ t.fifo.entries = s.fifo.entries ∧ SameBus s t ∧ opens rd.forward ∧ ∀ q, s.log.openRecord = some q →
          let counted := { q with frameCounter := some counter }
          (rd.kind = .dark → t.log.openRecord = some counted ∧ t.meas = s.meas)
          ∧ (rd.kind = .light →
            let timed := if s.meas.armed then exposureDecided s.seq.lineTime s counted else counted
            t.meas.armed = false ∧ t.log.openRecord = some { timed with
              scale := scaleOf s.tables.darkModel.seen s.cal (timed.exposedUs.getD 0) timed.temperature,
              scaleSaturated :=
                scaleSaturates s.tables.darkModel.seen s.cal (timed.exposedUs.getD 0) timed.temperature }))

/-- A LINE of the subframe frame, by the first case of R52 that applies: a bad CRC loses the next row; a row out of order or
beyond the frame is an extra line; a row in order loses the rows it skips, each without an entry, and is lost itself for a
wrong pixel count. A lost row adds width samples to lost. A row settled here enters the Line FIFO, GOOD with its 14-bit samples
or as a lost-row marker, or is lost for want of room; row height - 1 ends the readout, which serves the bus (R45, R52, R53,
R153). A GOOD row enters PENDING with its frame where its frame is forwarded, a marker NOT_REQUESTED (R53); a push that leaves
the occupancy at the drop level or above with an entry PENDING abandons every PENDING entry, truncates the frames that had one,
and forwards no later line of them; what is finished is then freed, oldest first (R58, R60, R61, R62). A LINE of no frame is an
extra line of an open readout; one of a stray frame is pushed in the same way when it is forwarded and whole and there is room,
and discarded otherwise (R49, R51). A LINE that ends before its CRC has a bad one (log 39), one of a stray frame whose
forwarding has been abandoned is still pushed, NOT_REQUESTED (log 19), and a stray LINE is whole by the width recorded at
TAKE_START (log 20): the model's reading. In what serving the bus leaves, the codes of SCRIPT_RESULT (log 24) and the order of
the reports at the entry to FAULT (log 31) are the model's reading. -/
def Obligations.LineSettlesItsRow : Prop :=
  ∀ (s : State) (row : Half) (words : List Half) (crc : Option Half), s.link.locked = true →
    let good := crc = some (crc16 (lineBytes row words))
    let next := (s.link.lastRow.map fun r => r + 1).getD 0
    let extra := { s with log.openRecord := s.log.openRecord.map fun q => { q with extraLines := q.extraLines + 1 } }
    let samples := words.map fun w => w.toNat % 16384
    let settles := fun (at_ skipped : Nat) (pixels : Option (List Nat)) =>
      let room := s.fifo.entries.length < 48
      let lostRows := skipped + (if pixels = none ∨ ¬ room then 1 else 0)
      let placed := if room then pushed (lineEntry at_ pixels .subframe s) s else s
      let key := fun g : ForwardedFrame => (g.number, g.truncated)
      ∃ t, exec (.line row words crc) s = .next t
        ∧ (∀ q, s.log.openRecord = some q →
            ∃ q', t.log.openRecord = some q' ∧ q'.lost = q.lost + lostRows * s.settings.width ∧ q'.extraLines = q.extraLines)
        ∧ (∀ k, rowState t k = if k = at_ then (if room then .queued else .lost)
            else if next ≤ k ∧ k < at_ then .lost else rowState s k)
        ∧ (room → ∃ e : FifoEntry, t.fifo.entries.getLast? = some e ∧ e.row = at_ ∧ e.pixels = pixels ∧ e.cls = .subframe
            ∧ e.ingestDone = false ∧ t.fifo.entries.length ≤ s.fifo.entries.length + 1)
        ∧ t.fifo.entries = placed.fifo.entries ∧ t.fifo.nextEntry = placed.fifo.nextEntry
        ∧ AtMostFirstEnded t.out.inProgress (placed.fifo.frames.map key) (t.fifo.frames.map key)
        ∧ (at_ + 1 ≠ s.settings.height → t.link.lastRow = some at_ ∧ t.seq = s.seq ∧ t.link.readout = s.link.readout
            ∧ t.link.forwarding = placed.link.forwarding ∧ SameBus s t)
        ∧ (at_ + 1 = s.settings.height → t.seq.phase = .settle ∧ t.link.readout = none ∧ t.link.frame = .none
            ∧ t.link.forwarding = .no ∧ ReadoutFreesBus s t)
        ∧ t.plane = s.plane ∧ t.arb = s.arb ∧ t.cal = s.cal ∧ t.trails = s.trails
    (s.link.frame = .subframe →
      (¬ good → settles next 0 none)
      ∧ (good → row.toNat < next ∨ s.settings.height ≤ row.toNat → exec (.line row words crc) s = .next (endEvent extra))
      ∧ (good → next ≤ row.toNat → row.toNat < s.settings.height →
        settles row.toNat (row.toNat - next) (if words.length = s.settings.width then some samples else none)))
    ∧ (s.link.frame = .none →
      exec (.line row words crc) s = .next (endEvent (if s.link.readout = none then s else extra)))
    ∧ (s.link.frame = .stray →
      (¬ good ∨ words.length ≠ s.settings.width ∨ s.link.forwarding = .no ∨ 48 ≤ s.fifo.entries.length →
        exec (.line row words crc) s = .next (endEvent s))
      ∧ (good → words.length = s.settings.width → s.link.forwarding ≠ .no → s.fifo.entries.length < 48 →
        exec (.line row words crc) s = .next (endEvent (pushed (lineEntry row.toNat (some samples) .stray s) s))))

/-- FRAME_END ends a stray frame, closing its forwarding, and ends the readout of the subframe frame, whatever its line count;
it changes nothing where no frame is in progress (R50, R51). The readout timer's expiry ends the readout in the same way,
whatever frame is in progress (R12, R55). The end of the readout serves the bus: a SCRIPT or RELAY claim passed over in READOUT
is selected on a free bus, goes on it, or finds it stuck, or is BLOCKED when its address is no longer allowed; and the bridge
stays as it was where the bus is not free or no claim waits (R150, R151, R153; ReadoutEnded.bus). That an expiry moves the
clock to at least the time the timer ends is the model's choice (log 3); that a stray frame in progress then ends (log 16) and
the value of an exposed_us outside its range (log 27) are its reading. In what serving the bus leaves, the codes of
SCRIPT_RESULT (log 24) and the order of the reports at the entry to FAULT (log 31) are the model's reading. -/
def Obligations.FrameEndAndTimeoutEndReadout : Prop :=
  ∀ (s : State) (lines : Half),
    (s.link.locked = true → s.link.frame = .subframe → ∃ t, exec (.frameEnd lines) s = .next t ∧ ReadoutEnded s t)
    ∧ (s.link.locked = true → s.link.frame = .stray → ∃ t, exec (.frameEnd lines) s = .next t
      ∧ Ends { s with link.frame := .none, link.forwarding := .no } t
      ∧ ∀ g ∈ t.fifo.frames, s.link.forwarding = .frame g.number → g.isOpen = false)
    ∧ (s.link.frame = .none → exec (.frameEnd lines) s = .next s)
    ∧ ∀ d, s.seq.readoutTimer = some d →
      ∃ t, exec .readoutTimerExpiry s = .next t ∧ ReadoutEnded { s with now := max s.now d } t

/-! ### The Sequencer's events -/

/-- The end of the CLEARING pass leaves every record of the geometry cleared and no other record changed, the plane free and
valid and the take RUNNING, reported, at STEP_START of the step: SHUTTER and STEP_LEVEL at its levels, the settle timer running
when SHUTTER changes, and the step's script indices handed over from script_first: the first that passes its hand-over goes on
a free bus, or to FAULT on a stuck line, or waits for a busy one, and those before it are reported, NO_ENTRY where the table
lacks the index, BLOCKED where the address is not allowed, BUS_STUCK in FAULT (StepScripted). A step with nothing to wait for
goes on at once, and an EXPOSE entered here claims its poll at once where its exposure is not longer than poll_lead (R1, R6 to
R9, R86, R87, R150, R151, R153, R157, R159). That the TAKE_STATE report comes before the reports of the step's script entries
is the model's choice (log 30); the codes of SCRIPT_RESULT (log 24), the order of the reports at the entry to FAULT (log 31),
and that no settle timer runs for a shutter_settle of 0 (log 28) are its reading. -/
def Obligations.ClearingPassStartsFirstStep : Prop :=
  ∀ (s : State) (st : PlanStep), MemoryWf s → s.seq.takeState = .clearing → s.arb.holder = .clearing →
    s.tables.plan.seen[s.seq.step]? = some st → ∃ t v, exec .clearingPassComplete s = .next t
      ∧ t.seq.takeState = .running ∧ t.seq.planeValid = true ∧ t.arb = { s.arb with holder := .none }
      ∧ (∀ a < s.settings.width * s.settings.height, readPixel t a = Pixel.cleared)
      ∧ (∀ a, s.settings.width * s.settings.height ≤ a → readPixel t a = readPixel s a)
      ∧ t.seq.shutter = decide (st.kind = .dark) ∧ t.seq.stepLevel = st.stepLevel ∧ t.seq.step = s.seq.step
      ∧ t.log.closed = s.log.closed ∧ t.tables = s.tables ∧ t.settings = s.settings ∧ t.cal = s.cal
      ∧ (s.out.locked = true → s.out.queue.length < 16 → s.params.reportMask.getLsbD 2 = true →
        queuedTraffic s ++ [.report .takeState s.port.lostReports (2#8 :: 1#8 :: byteOf s.seq.step
          :: bytes2 (subframeIndex s))] <+: queuedTraffic t)
      ∧ StepScripted st (queueReport .takeState (2#8 :: 1#8 :: byteOf s.seq.step :: bytes2 (subframeIndex s)) s) v t
      ∧ (let settles := s.seq.shutter ≠ decide (st.kind = .dark) ∧ s.params.shutterSettle ≠ 0
        (settles → t.seq.phase = .stepStart ∧ t.seq.settleTimer = some (s.now + s.params.shutterSettle * 1000))
        ∧ (¬ settles → scriptsEnded v = false → t.seq.settleTimer = none)
        ∧ (¬ settles → scriptsEnded v = true →
          (st.cadence = .external → t.seq.phase = .wait ∧ signalReady t = true)
          ∧ (st.cadence = .internal → 0 < st.gap → t.seq.phase = .wait ∧ t.seq.gapTimer = some (s.now + st.gap))
          ∧ (st.cadence = .internal → st.gap = 0 →
            t.seq.phase = .expose ∧ t.seq.exposureTimer = some (s.now + st.exposure))))

/-- The settle timer's expiry leaves STEP_START for WAIT once every script entry has ended, READY active for an EXTERNAL step
and the gap timer running for an INTERNAL one, whose gap of 0 begins the exposure; the gap timer's expiry begins the exposure:
the record opens, the exposure timer runs, the Measurement Timer is armed and the poll is scheduled, or, where the exposure is
not longer than poll_lead, claimed at once: BLOCKED or BUS_STUCK at its presentation, in the place of an earlier one that
waits, and the bus served (ExposeEntered, PollClaimed; R7 to R9, R24, R37, R150, R151, R153, R159). That an expiry moves the
clock to at least the time the timer ends is the model's choice (log 3). In what serving the bus leaves, the codes of
SCRIPT_RESULT (log 24) and the order of the reports at the entry to FAULT (log 31) are its reading. -/
def Obligations.SettleAndGapTimersLeadToExposure : Prop :=
  ∀ (s : State) (d : Nat) (st : PlanStep), s.tables.plan.seen[s.seq.step]? = some st →
    let late := { s with now := max s.now d }
    (s.seq.settleTimer = some d → s.seq.phase = .stepStart →
      (scriptsEnded s = false →
        exec .shutterSettleExpiry s = .next (endEvent { late with seq.settleTimer := none }))
      ∧ (scriptsEnded s = true →
        (∃ t w, exec .shutterSettleExpiry s = .next t ∧ WaitEntered st { late with seq.settleTimer := none } w ∧ Ends w t)
        ∧ (st.cadence = .external → ∃ t, exec .shutterSettleExpiry s = .next t
          ∧ Ends { late with seq := { s.seq with settleTimer := none, gapTimer := none, phase := .wait } } t
          ∧ (s.seq.takeState = .running → signalReady t = true))
        ∧ (st.cadence = .internal → 0 < st.gap → exec .shutterSettleExpiry s = .next (endEvent { late with
          seq := { s.seq with settleTimer := none, gapTimer := some (max s.now d + st.gap), phase := .wait } }))
        ∧ (st.cadence = .internal → st.gap = 0 → pollLater st s →
          exec .shutterSettleExpiry s = .next (endEvent (exposing st { late with seq.settleTimer := none })))))
    ∧ (s.seq.gapTimer = some d →
      (∃ t w, exec .gapTimerExpiry s = .next t ∧ ExposeEntered st late w ∧ Ends w t)
      ∧ (pollLater st s → exec .gapTimerExpiry s = .next (endEvent (exposing st late)))
      ∧ (¬ pollLater st s → ∃ t, exec .gapTimerExpiry s = .next t ∧ t.seq.phase = .expose
        ∧ t.seq.exposureTimer = some (max s.now d + st.exposure) ∧ t.seq.pollAt = none
        ∧ t.log = (exposing st late).log ∧ t.meas = (exposing st late).meas))

/-- The exposure timer's expiry on a free plane releases EXPOSE (ReadoutOpened): ingest holds the plane, the readout is open
with every row UNSEEN and its timer running, LINE_TIME is commanded_us + held_us, the record has its temperature, the defect
cursor stands at the first entry that is not ignored, and the detector is open for a light subframe. Behind a render it becomes
HOLD, with the extension timer running, or with max_extension 0 the render is abandoned at once. The extension timer's expiry
abandons the render with EXTENSION_LIMIT, reported, its frame closed by a FRAME_END with ABANDONED set once its FRAME_START has
begun; the plane goes to the ingest, and the time in HOLD joins held_us (R10, R11, R12, R39, R54, R68, R69, R107, R108, R114,
R142, R143, R161). That an expiry moves the clock to at least the time the timer ends is the model's choice (log 3); that a
poll not yet claimed at the release is not made (log 35) and the codes of the report (log 24) are its reading. -/
def Obligations.ExposureEndClaimsPlane : Prop :=
  ∀ (s : State) (d : Nat) (q : SubframeRecord) (st : PlanStep), Coherent s → s.log.openRecord = some q →
    s.tables.plan.seen[s.seq.step]? = some st →
    let now := max s.now d
    let reads := fun (t : State) (held : Nat) => ReadoutOpened q st held s t ∧ t.link.forwarding = s.link.forwarding
      ∧ t.fifo.entries = s.fifo.entries ∧ t.now = now
    let abandoned := fun t : State => t.render.state = .idle
      ∧ (s.out.locked = true → s.out.queue.length < 16 → s.params.reportMask.getLsbD 4 = true →
        queuedTraffic t = queuedTraffic s ++ [.report .renderAbandoned s.port.lostReports [byteOf s.render.kind.code, 0#8]])
      ∧ renderTraffic t = (begunPackets s).filterMap LanePacket.renderPart
          ++ s.out.renderQueue.filter (fun p => p matches .frameEnd _ _ _)
          ++ if s.render.startBegun
            then [.frameEnd s.render.kind (s.render.linesSent + if lineInProgress s then 1 else 0) true] else []
    (s.seq.exposureTimer = some d → ∃ t, exec .exposureTimerExpiry s = .next t
      ∧ (s.arb.holder = .none → reads t 0)
      ∧ (s.arb.holder ≠ .none → s.params.maxExtension ≠ 0 → Ends { s with
          now := now, arb.waiting := .ingest,
          seq := { s.seq with
            exposureTimer := none, phase := .hold, holdStart := now,
            extensionTimer := some (now + s.params.maxExtension) } } t)
      ∧ (s.arb.holder ≠ .none → s.params.maxExtension = 0 → reads t 0 ∧ abandoned t))
    ∧ (s.seq.extensionTimer = some d → ∃ t, exec .extensionTimerExpiry s = .next t
      ∧ reads t (now - s.seq.holdStart) ∧ abandoned t)

/-- Ingest of the oldest subframe entry not yet done. Every sample of a GOOD row is counted once: excluded by an EXCLUDE defect
or region, or, with a SUBSTITUTE defect's value in its place, summed into its dark fields, or visiting its record with its
corrected value; a saturated one is no dark sum. A lost-row marker counts none, and in a light subframe settles the pending
values of its row. The flagged columns go to the Trail Detector; the row becomes INGESTED, the cursor passes its defects, the
entry is done, and finished entries leave the FIFO (R54, R59, R60, R65, R69 to R74, R82 to R84, R95, R102). The detector closes
the stale trails, then takes the row's segments left to right: one opens a trail, joins the oldest it matches with the others
merged into it, or at 16 open trails is unattributed. A trail that closes is too small, or is numbered and offered to the veto
list and the Trail Queue, or comes after the 255th (R115 to R121, R123 to R125). A record leaves the Trail Queue as it enters
while TRAIL reports are disabled (R128). -/
def Obligations.IngestCountsEverySample : Prop :=
  (∀ (s : State) (before after : List FifoEntry) (e : FifoEntry) (q : SubframeRecord), MemoryWf s → s.arb.holder = .ingest →
    0 < s.settings.width → s.fifo.entries = before ++ e :: after → e.cls = .subframe → e.ingestDone = false →
    (∀ b ∈ before, b.cls = .subframe → b.ingestDone = true) → s.log.openRecord = some q →
    (∀ pixels, e.pixels = some pixels → pixels.length = s.settings.width) → ∃ t q', exec .ingestEntry s = .next t
      ∧ t.log = { s.log with openRecord := some q' } ∧ q'.lost = q.lost ∧ q'.extraLines = q.extraLines
      ∧ q'.index = q.index ∧ q'.kind = q.kind
      ∧ q'.admitted + q'.rejected + q'.saturated + q'.excluded = q.admitted + q.rejected + q.saturated + q.excluded
          + (if e.pixels = none then 0 else s.settings.width)
      ∧ (q.kind = .dark → q'.rejected = q.rejected ∧ q'.outliers = q.outliers ∧ q'.clamped = q.clamped ∧ t.trails = s.trails)
      ∧ rowState t e.row = .ingested ∧ (∀ k, k ≠ e.row → rowState t k = rowState s k)
      ∧ (∀ a, a / s.settings.width ≠ e.row → readPixel t a = readPixel s a)
      ∧ (q.kind = .dark → ∀ a, readPixel t a = { readPixel s a with
          darkN := (readPixel t a).darkN, darkSum := (readPixel t a).darkSum })
      ∧ (q.kind = .light → ∀ a, (readPixel t a).darkN = (readPixel s a).darkN ∧ (readPixel t a).darkSum = (readPixel s a).darkSum)
      ∧ t.fifo.entries = (s.fifo.entries.map fun f => if f.number = e.number then { f with ingestDone := true } else f).dropWhile
          fun f => f.ingestDone && decide (f.forward ≠ .pending)
      ∧ t.seq = s.seq ∧ t.arb = s.arb ∧ t.bridge = s.bridge ∧ t.tables = s.tables ∧ t.settings = s.settings
      ∧ (256 ≤ s.settings.width → e.row < s.settings.height → Tables.Sound s.tables →
        let columns := List.range s.settings.width
        let before := fun c => readPixel s (pixelAt s e.row c)
        let after := fun c => readPixel t (pixelAt s e.row c)
        (∀ d ∈ s.tables.defects.seen.drop t.cal.cursor, e.row < d.row ∨ s.settings.width ≤ d.column)
        ∧ (∀ pixels, e.pixels = some pixels →
          let passed := passedSample s e.row pixels
          let excluded := columns.countP fun c => decide (passed c = none)
          (q.kind = .dark →
            let summed := fun c => (passed c).filter fun x => decide (x < s.params.satLevel)
            (∀ c < s.settings.width, after c = match summed c with
              | none => before c
              | some x => { before c with
                  darkN := (before c).darkN + 1, darkSum := (before c).darkSum + ((x : Int) - s.params.blackLevel) })
            ∧ q' = { q with
                excluded := q.excluded + excluded,
                saturated := q.saturated + columns.countP fun c => (passed c).any fun x => decide (s.params.satLevel ≤ x),
                admitted := q.admitted + columns.countP fun c => (summed c).isSome })
          ∧ (q.kind = .light →
            let visit := fun c => (passed c).map (lightVisit s q.index e.row c)
            let tallied := fun k : Tally => columns.countP fun c => (visit c).any fun v => decide (v.tally = k)
            let clamps := fun c => (passed c).any fun x =>
              let y := unclampedValue s e.row c x
              decide (x < s.params.satLevel) && (decide (y < -4096) || decide (16383 < y))
            let counted := { q with
              admitted := q.admitted + tallied .admitted, rejected := q.rejected + tallied .rejected,
              saturated := q.saturated + tallied .saturated, excluded := q.excluded + excluded,
              outliers := q.outliers + columns.countP fun c => (visit c).any Visit.outlier,
              clamped := q.clamped + columns.countP clamps }
            let flagged := (columns.filter fun c => (visit c).any Visit.flagged).map fun c => (c, regionOf s.settings e.row c)
            let detected := detectRow e.row flagged { s with log.openRecord := some counted }
            (∀ c < s.settings.width, after c = ((visit c).map Visit.pixel).getD (before c))
              ∧ t.trails = detected.trails ∧ t.log = detected.log))
        ∧ (e.pixels = none →
          (q.kind = .dark → t.plane = s.plane ∧ q' = q)
          ∧ (q.kind = .light →
            let policy := pixelPolicy s.settings e.row
            (∀ c < s.settings.width, after c =
              if (policy c).mode = .peak ∨ (policy c).mode = .peakFade then { before c with
                peak := settledPeak (isVetoed s.settings s.trails (policy c) e.row c) (before c), pending := none }
              else before c)
            ∧ t.trails = (detectRow e.row [] s).trails ∧ t.log = (detectRow e.row [] s).log))))
  ∧ (∀ (row : Nat) (flags : List (Nat × Region)) (s : State),
    let stale := fun t : OpenTrail => decide (t.lastRow + 1 + s.params.gapRows < row)
    let columns := flags.filter fun f => match f.2 with
      | .sky => s.settings.sky.trailDetect
      | .ground => s.settings.ground.trailDetect
    let groups := columns.splitBy fun a b => decide (b.1 ≤ a.1 + s.params.gapCols + 1)
    let segments := (groups.map spanOf).filter fun g => decide (s.params.segMin ≤ g.right - g.left + 1)
    detectRow row flags s = segments.foldl (fun u g => takeSegment row g u)
      ((s.trails.openTrails.filter stale).foldl (fun u t => closeTrail t u)
        { s with trails.openTrails := s.trails.openTrails.filter fun t => !stale t }))
  ∧ (∀ (row : Nat) (g : Segment) (s : State),
    let hit := fun t : OpenTrail => decide (row ≤ t.lastRow + 1 + s.params.gapRows ∧ t.spanLeft ≤ g.right + s.params.margin
      ∧ g.left ≤ t.spanRight + s.params.margin)
    ((∀ t ∈ s.trails.openTrails, hit t = false) →
      (s.trails.openTrails.length < 16 → takeSegment row g s = { s with
        trails.openTrails := s.trails.openTrails ++ [{
          firstRow := row, lastRow := row, minCol := g.left, maxCol := g.right, spanLeft := g.left, spanRight := g.right,
          flagged := g.flagged, sky := g.sky, ground := g.ground }] })
      ∧ (16 ≤ s.trails.openTrails.length → takeSegment row g s = { s with
        log.openRecord := s.log.openRecord.map fun q => { q with unattributed := min 4095 (q.unattributed + 1) } }))
    ∧ ∀ before t after, s.trails.openTrails = before ++ t :: after → (∀ u ∈ before, hit u = false) → hit t = true →
      let hits := t :: after.filter hit
      let fed := hits.filter fun u => decide (u.lastRow = row)
      let least := fun (l : List OpenTrail) (f : OpenTrail → Nat) (start : Nat) => l.foldl (fun k u => min k (f u)) start
      let most := fun (l : List OpenTrail) (f : OpenTrail → Nat) (start : Nat) => l.foldl (fun k u => max k (f u)) start
      takeSegment row g s = { s with
        trails.openTrails := before ++ {
          firstRow := least hits OpenTrail.firstRow row, lastRow := row,
          minCol := least hits OpenTrail.minCol g.left, maxCol := most hits OpenTrail.maxCol g.right,
          spanLeft := least fed OpenTrail.spanLeft g.left, spanRight := most fed OpenTrail.spanRight g.right,
          flagged := g.flagged + (hits.map OpenTrail.flagged).sum, sky := g.sky || hits.any OpenTrail.sky,
          ground := g.ground || hits.any OpenTrail.ground } :: after.filter fun u => !hit u })
  ∧ ∀ (t : OpenTrail) (s : State),
    let box : TrailBox := { firstRow := t.firstRow, lastRow := t.lastRow, minCol := t.minCol, maxCol := t.maxCol }
    let extent := max (t.lastRow - t.firstRow + 1) (t.maxCol - t.minCol + 1)
    let listed := decide (s.trails.current.boxes.length < 16)
    let queued := decide (s.trails.queue.length < 32)
    (extent < s.params.minExtent → closeTrail t s = s)
    ∧ (s.params.minExtent ≤ extent → 255 < s.trails.counter → closeTrail t s = { s with
      log.openRecord := s.log.openRecord.map fun q => { q with
        trails := q.trails + 1, vetoFull := true, trailQueueFull := true } })
    ∧ (s.params.minExtent ≤ extent → s.trails.counter ≤ 255 → closeTrail t s = { s with
      trails := { s.trails with
        counter := s.trails.counter + 1,
        current.boxes := s.trails.current.boxes ++ (if listed then [box] else []),
        queue := s.trails.queue ++ (if queued && s.params.reportMask.getLsbD 1 then [{
          subframe := subframeIndex s, number := s.trails.counter, box := box, flagged := t.flagged, sky := t.sky,
          ground := t.ground, vetoing := listed }] else []) },
      log.openRecord := s.log.openRecord.map fun q => { q with
        trails := q.trails + 1, vetoFull := q.vetoFull || !listed, trailQueueFull := q.trailQueueFull || !queued } })

/-- INGEST_ENTRY takes the oldest entry left. The end of SETTLE first finishes what it has left, oldest first, as it would
(IngestFinished; that the close does so is log 13), and goes on from there. Of a light subframe, every record of a PEAK or
PEAK_FADE region in a row left LOST or UNSEEN first gets its commit-only visit, and no other record changes (R57, R102). The
record is closed with width lost samples for every row still UNSEEN and its outcome by R24, joins the log and, as a
contributing dark, the dark summaries; the open trails of a light subframe close, oldest first, each as a trail that closes
during ingest does, and its current veto list, its boxes and its index, becomes the previous one; the plan position advances;
and the first case of R14 that applies follows: an abort pending, the stop flag or the end of the plan (with the finish flag
to FINISHING), a pause pending, or the take goes on: within a step at WAIT, and at a new step at STEP_START, its levels set,
the not-started mark clear, the settle timer running when SHUTTER changes (none for a shutter_settle of 0: log 28) and its
script indices handed over (StepScripted; codes: log 24; at FAULT: log 31); with nothing to wait for it goes on at once, and
with a gap of 0 to EXPOSE, its poll claimed at once where its exposure is not longer than poll_lead. A render PENDING is
granted the plane, but where the abort is pending: it is ACTIVE, with the light subframes closed counted, and hands over its
FRAME_START. The auto-preview counter moves at a light close that does not abort or finish, and at its mark a PREVIEW is
taken. The first packet the event queues is the SUBFRAME_CLOSED report of the closed record. The premise on the recorded
width holds in every run (R183; StepKeepsTablesAndParameters) (R7 to R9, R13 to R15, R24, R57, R59, R75, R102, R108, R122,
R126, R133 to R135, R140, R150, R151, R153, R157, R159). -/
def Obligations.SettleEndClosesSubframe : Prop :=
  (∀ s : State, s.arb.holder = .ingest → exec .ingestEntry s = .next (endEvent (ingestNext s)))
  ∧ ∀ (s : State) (st : PlanStep), Coherent s → MemoryWf s → 0 < s.settings.width → s.seq.phase = .settle →
    s.tables.plan.seen[s.seq.step]? = some st →
    ∃ u q t q', IngestFinished s u ∧ u.log.openRecord = some q ∧ exec .settleEnd s = .next t ∧ t.log.closed = s.log.closed ++ [q']
      ∧ (let lost := q.lost
            + ((List.range s.settings.height).countP fun k => decide (rowState u k = .unseen)) * s.settings.width
        q'.lost = lost ∧ q'.outcome = some (if s.seq.closeAbandoned then .abandoned
            else if q.frameCounter = none then .missing else if lost = 0 then .integrated else .partialFrame)
          ∧ q'.index = q.index ∧ q'.kind = q.kind ∧ q'.admitted = q.admitted ∧ q'.rejected = q.rejected
          ∧ q'.saturated = q.saturated ∧ q'.excluded = q.excluded ∧ q'.exposedUs = q.exposedUs
          ∧ (q.kind = .dark → q' = { q with lost := lost, outcome := q'.outcome }))
      ∧ (let enabled := s.params.reportMask.getLsbD 0 = true
        let room := s.out.locked = true ∧ s.out.queue.length < 16
        (enabled → room →
          queuedTraffic s ++ [.report .subframeClosed s.port.lostReports q'.bytes] <+: queuedTraffic t)
        ∧ (enabled → ¬ room → t.port.lostReports = true))
      ∧ (q.kind = .light →
        (∀ row < s.settings.height, ∀ column < s.settings.width,
          let policy := pixelPolicy s.settings row column
          let px := readPixel u (pixelAt s row column)
          (rowState u row ∈ [.lost, .unseen] → policy.mode ∈ [.peak, .peakFade] →
            readPixel t (pixelAt s row column) = { px with
              pending := none, peak := settledPeak (isVetoed s.settings u.trails policy row column) px })
          ∧ (rowState u row = .ingested ∨ policy.mode ∉ [.peak, .peakFade] → readPixel t (pixelAt s row column) = px))
        ∧ ∀ a, s.settings.width * s.settings.height ≤ a → readPixel t a = readPixel u a)
      ∧ (q.kind = .light →
        let closed := u.trails.openTrails.foldl (fun v trail => closeTrail trail v) u
        t.cal = u.cal ∧ t.trails = { closed.trails with
            openTrails := [], previous := closed.trails.current, current := { index := none, boxes := [] } }
        ∧ closed.trails.current.index = u.trails.current.index
        ∧ u.trails.current.boxes <+: closed.trails.current.boxes ∧ u.trails.queue <+: closed.trails.queue
        ∧ ∃ r, closed.log.openRecord = some r ∧ q' = { r with lost := q'.lost, outcome := q'.outcome })
      ∧ (q.kind = .dark → t.trails = u.trails ∧ t.plane = u.plane
        ∧ t.cal = if s.seq.closeAbandoned = false ∧ q.frameCounter ≠ none then { u.cal with
            darkCount := u.cal.darkCount + 1, darkExposure := u.cal.darkExposure + q.exposedUs.getD 0,
            darkTempTotal := u.cal.darkTempTotal + q.temperature.getD 0,
            darkTempCount := u.cal.darkTempCount + if q.temperature = none then 0 else 1 } else u.cal)
      ∧ (let moved : Bool := st.count ≤ s.seq.count + 1
        let step := if moved then s.seq.step + 1 else s.seq.step
        let isOver := s.tables.plan.seen.length ≤ step ∨ s.seq.stopPending = true
        t.seq.step = step ∧ t.seq.count = (if moved then 0 else s.seq.count + 1)
        ∧ (s.seq.abortPending = true ∨ isOver ∨ s.seq.pausePending = true → t.bridge = s.bridge)
        ∧ (s.seq.abortPending = true → t.seq.takeState = .aborted ∧ t.seq.planeValid = false ∧ t.render.state = .idle)
        ∧ (s.seq.abortPending = false → isOver → s.seq.finishPending = false →
          t.seq.takeState = .complete ∧ t.seq.stopPending = false ∧ t.seq.pausePending = false)
        ∧ (s.seq.abortPending = false → isOver → s.seq.finishPending = true →
          t.seq.takeState = if s.out.locked = true ∨ s.render.state ≠ .idle then .finishing else .complete)
        ∧ (s.seq.abortPending = false → ¬ isOver → s.seq.pausePending = true →
          t.seq.takeState = .paused ∧ t.seq.pausePending = false ∧ t.seq.notStarted = moved)
        ∧ (s.seq.abortPending = false → ¬ isOver → s.seq.pausePending = false →
          t.seq.takeState = .running ∧ ∀ next, s.tables.plan.seen[step]? = some next →
            let waits := (next.cadence = .external → t.seq.phase = .wait ∧ t.seq.gapTimer = none ∧ signalReady t = true)
              ∧ (next.cadence = .internal → 0 < next.gap →
                t.seq.phase = .wait ∧ t.seq.gapTimer = some (s.now + next.gap) ∧ signalReady t = false)
              ∧ (next.cadence = .internal → next.gap = 0 →
                t.seq.phase = .expose ∧ t.seq.exposureTimer = some (s.now + next.exposure)
                ∧ t.log.openRecord = some (SubframeRecord.opening (s.log.closed.length + 2) step next))
            let settles := s.seq.shutter ≠ decide (next.kind = .dark) ∧ s.params.shutterSettle ≠ 0
            (moved = false → waits
              ∧ (∃ w, WaitEntered next (queueReport .subframeClosed q'.bytes u) w ∧ SameRun w t)
              ∧ t.seq.shutter = s.seq.shutter ∧ t.seq.stepLevel = s.seq.stepLevel ∧ t.seq.notStarted = s.seq.notStarted)
            ∧ (moved = true → t.seq.shutter = decide (next.kind = .dark) ∧ t.seq.stepLevel = next.stepLevel
              ∧ t.seq.notStarted = false
              ∧ (t.seq.phase = .stepStart → t.seq.settleTimer
                = if settles then some (s.now + s.params.shutterSettle * 1000) else none)
              ∧ (settles → t.seq.phase = .stepStart)
              ∧ ∃ v, StepScripted next (queueReport .subframeClosed q'.bytes { u with seq.step := step }) v t
                ∧ (¬ settles → scriptsEnded v = true → waits))))
      ∧ (s.seq.abortPending = false → s.render.state = .pending →
        t.render.state = .active ∧ t.arb = { holder := .render, waiting := .none }
        ∧ t.render.kind = s.render.kind ∧ t.render.frameId = s.render.frameId ∧ t.render.nextId = s.render.nextId
        ∧ t.render.pedestal = s.render.pedestal ∧ t.render.lights = t.log.closed.countP (fun c => decide (c.kind = .light))
        ∧ t.render.row = 0 ∧ t.render.rowHanded = false ∧ t.render.linesSent = 0
        ∧ renderTraffic t = renderTraffic s
          ++ [.frameStart s.render.kind s.render.frameId s.settings.width s.settings.height])
      ∧ (let counted := q.kind = .light ∧ s.seq.abortPending = false ∧ s.seq.finishPending = false
          ∧ s.params.autoPreview ≠ 0
        (¬ counted → t.seq.autoCount = s.seq.autoCount)
        ∧ (counted → s.seq.autoCount + 1 ≠ s.params.autoPreview → t.seq.autoCount = s.seq.autoCount + 1)
        ∧ (counted → s.seq.autoCount + 1 = s.params.autoPreview → t.seq.autoCount = 0
          ∧ (s.out.locked = true → s.render.state = .idle → t.render.state = .active ∧ t.render.kind = .preview
            ∧ t.render.frameId = s.render.nextId ∧ t.render.nextId = (s.render.nextId + 1) % 65536)))

/-! ### Pins and temperatures -/

/-- The minimum-pulse timer's expiry lets an OUTPUT line follow its source again (R29). A pin that moves starts the debounce of
an INPUT line again, and an OUTPUT line takes no input; a level that is stable, at once with a debounce of 0, is accepted,
reported when notify is on, and delivered as an edge of the logical level: to the Measurement Timer while it is armed, as a
trigger in WAIT of an EXTERNAL step, or as a pause or a stop of the take, the LINE_CHANGE report queued before the TAKE_STATE
report of the change, or before what an immediate poll, claimed at the trigger, reports (ExposeEntered, PollClaimed; R1, R8,
R9, R17, R19, R31, R32, R33, R36, R37, R150, R153, R157, R159). That an expiry moves the clock to at least the time the timer
ends (log 3), and that a pin change to the level the pin has changes nothing (log 4), are the model's choice; in what serving
the bus leaves, codes (log 24) and the order of reports at FAULT (log 31) are its reading. -/
def Obligations.PinsAndEdges : Prop :=
  ∀ (s : State) (l : LineNo),
    (∀ d, (s.lines.get l).minTimer = some d → ∃ t, exec (.minPulseExpiry l) s = .next t
      ∧ Ends { s with now := max s.now d } t
      ∧ ∀ source minPulse, (lineSetup s l).use = .output source minPulse →
        (t.lines.get l).driven = sourceLevel t (t.lines.get l) source
        ∧ (t.lines.get l).minTimer = (if sourceLevel s (s.lines.get l) source = (s.lines.get l).driven ∨ minPulse = 0
            then none else some (max s.now d + minPulse)))
    ∧ (exec (.inputPinChange l (s.lines.get l).outside) s = .next s)
    ∧ (∀ high source minPulse, (lineSetup s l).use = .output source minPulse → (s.lines.get l).outside ≠ high →
      exec (.inputPinChange l high) s = .next (endEvent { s with
        lines := s.lines.set l { s.lines.get l with outside := high } }))
    ∧ (∀ high f debounce, (lineSetup s l).use = .input f debounce → 0 < debounce → (s.lines.get l).outside ≠ high →
      exec (.inputPinChange l high) s = .next (endEvent { s with
        lines := s.lines.set l { s.lines.get l with outside := high, debounceTimer := some (s.now + debounce) } }))
    ∧ (∀ high f, (lineSetup s l).use = .input f 0 → (s.lines.get l).outside ≠ high → (s.lines.get l).accepted = high →
      exec (.inputPinChange l high) s = .next (endEvent { s with
        lines := s.lines.set l { s.lines.get l with outside := high } }))
    ∧ (∀ d f debounce, (lineSetup s l).use = .input f debounce → (s.lines.get l).debounceTimer = some d →
      (s.lines.get l).outside = (s.lines.get l).accepted → exec (.debounceExpiry l) s = .next (endEvent { s with
        now := max s.now d, lines := s.lines.set l { s.lines.get l with debounceTimer := none } }))
    ∧ ∀ (c : Instr) (u : State) (f : LineFunction) (debounce : Nat), (lineSetup s l).use = .input f debounce →
      ((∃ high, c = .inputPinChange l high ∧ debounce = 0 ∧ (s.lines.get l).outside ≠ high
          ∧ (s.lines.get l).accepted ≠ high
          ∧ u = { s with lines := s.lines.set l { s.lines.get l with outside := high, accepted := high } })
        ∨ ∃ d, c = .debounceExpiry l ∧ (s.lines.get l).debounceTimer = some d
          ∧ (s.lines.get l).outside ≠ (s.lines.get l).accepted
          ∧ u = { s with
              now := max s.now d,
              lines := s.lines.set l { s.lines.get l with
                accepted := (s.lines.get l).outside, debounceTimer := none } }) →
      let active := (u.lines.get l).outside ^^ (lineSetup s l).invert
      let told := if (lineSetup s l).notify
        then queueReport .lineChange [byteOf l.val, byteOf f.code, byteOf (boolCode (u.lines.get l).outside),
          byteOf (boolCode active)] u
        else u
      let changed := fun (code : Byte) (u : State) =>
        queueReport .takeState (code :: 0#8 :: byteOf s.seq.step :: bytes2 (subframeIndex s)) u
      let completed := { s.seq with
        takeState := .complete, phase := .none, pausePending := false, stopPending := false, finishPending := false,
        shutter := false, stepLevel := false }
      (f = .none → exec c s = .next (endEvent told))
      ∧ (f = .expFeedback →
        (s.meas.armed = true → active = true → s.meas.startCapture = none →
          exec c s = .next (endEvent { told with meas.startCapture := some u.now }))
        ∧ (s.meas.armed = true → active = false → s.meas.startCapture ≠ none → s.meas.endCapture = none →
          exec c s = .next (endEvent { told with meas.endCapture := some u.now }))
        ∧ (s.meas.armed = false ∨ (active = true ∧ s.meas.startCapture ≠ none)
            ∨ (active = false ∧ (s.meas.startCapture = none ∨ s.meas.endCapture ≠ none)) →
          exec c s = .next (endEvent told)))
      ∧ (f = .triggerIn →
        let awaited := s.seq.takeState = .running ∧ s.seq.phase = .wait
          ∧ ∃ st, s.tables.plan.seen[s.seq.step]? = some st ∧ st.cadence = .external
        (active = true → awaited → ∀ st, s.tables.plan.seen[s.seq.step]? = some st →
          (∃ t w, exec c s = .next t ∧ ExposeEntered st told w ∧ Ends w t)
          ∧ (pollLater st s → exec c s = .next (endEvent (exposing st told)))
          ∧ (¬ pollLater st s → ∃ t, exec c s = .next t ∧ t.seq.phase = .expose
            ∧ t.seq.exposureTimer = some (u.now + st.exposure)
            ∧ t.seq.pollAt = none ∧ t.log = (exposing st told).log ∧ t.meas = (exposing st told).meas
            ∧ queuedTraffic told <+: queuedTraffic t))
        ∧ (active = false ∨ ¬ awaited → exec c s = .next (endEvent told)))
      ∧ (f = .pauseIn ∨ f = .stopIn → active = false → exec c s = .next (endEvent told))
      ∧ (f = .pauseIn → active = true → ∃ t, exec c s = .next t
        ∧ (s.seq.takeState ≠ .running → Ends told t)
        ∧ (s.seq.takeState = .running → s.seq.phase ∈ [.expose, .hold, .readout, .settle] →
          Ends { told with seq.pausePending := true } t)
        ∧ (s.seq.takeState = .running → s.seq.phase ∈ [.stepStart, .wait] →
          Ends (changed 3#8 { told with
            seq := { s.seq with
              takeState := .paused, phase := .none, notStarted := s.seq.notStarted || s.seq.phase = .stepStart,
              settleTimer := none, gapTimer := none, scriptLeft := [] },
            bridge.waitingScript := none, bridge.inFlight := s.bridge.inFlight.map InFlight.unawaited }) t))
      ∧ (f = .stopIn → active = true → ∃ t, exec c s = .next t
        ∧ (s.seq.takeState ∉ [.running, .paused] → Ends told t)
        ∧ (s.seq.takeState = .running → s.seq.phase ∈ [.expose, .hold, .readout, .settle] →
          Ends { told with seq.stopPending := true } t)
        ∧ (s.seq.takeState = .running → s.seq.phase ∈ [.stepStart, .wait] →
          Ends (changed 4#8 { told with
            seq := { completed with settleTimer := none, gapTimer := none, scriptLeft := [] },
            bridge.waitingScript := none, bridge.inFlight := s.bridge.inFlight.map InFlight.unawaited }) t)
        ∧ (s.seq.takeState = .paused → Ends (changed 4#8 { told with seq := completed }) t))

/-- TH0 and TH1 are converted in turn. A conversion replaces its channel's code and temperature, absent while the channel's
curve is empty; one of TH0 also sets the duty of the heater from the Heater Curve, 0 without a temperature or a curve (R40,
R41, R43). A PWM period follows the one before by 10,000 µs and is active for round(duty x 10,000 / 256) µs of the duty at its
start, whatever the duty becomes. The HEATER signal is active while the PWM is in its active part, heater_enable is on and
READOUT is inactive, and an OUTPUT line of HEATER follows it (R28, R44). That conversions and periods come when they are
commanded (log 32), that a period and the end of its active part move the clock to at least their times (log 3), and that a
conversion out of turn and an end of no active part change nothing (log 4), are the model's choice. -/
def Obligations.TemperaturesAndHeater : Prop :=
  ∀ s : State,
    (∀ code, s.temps.due = .th0 → exec (.adcConversion .th0 code) s = .next (endEvent { s with
        temps := { s.temps with
          due := .th1, code0 := some code, th0 := interpolate s.tables.adcCurve0.seen code.toNat },
        heater.duty := match interpolate s.tables.adcCurve0.seen code.toNat with
          | none => 0
          | some ambient => ((interpolate s.tables.heaterCurve.seen ambient).getD 0).toNat }))
    ∧ (∀ code, s.temps.due = .th1 → exec (.adcConversion .th1 code) s = .next (endEvent { s with
        temps := { s.temps with
          due := .th0, code1 := some code, th1 := interpolate s.tables.adcCurve1.seen code.toNat } }))
    ∧ (∀ channel code, s.temps.due ≠ channel → exec (.adcConversion channel code) s = .next s)
    ∧ (let start := s.heater.periodStart + 10000
      let active := (roundDiv (s.heater.duty * 10000) 256).toNat
      exec .heaterPwmPeriod s = .next (endEvent { s with
        now := max s.now start,
        heater := { s.heater with periodStart := start, activeUs := active, pwmActive := decide (0 < active) } }))
    ∧ (s.heater.pwmActive = true → s.heater.activeUs < 10000 → exec .pwmActiveEnd s = .next (endEvent { s with
        now := max s.now (s.heater.periodStart + s.heater.activeUs), heater.pwmActive := false }))
    ∧ (s.heater.pwmActive = false ∨ 10000 ≤ s.heater.activeUs → exec .pwmActiveEnd s = .next s)
    ∧ (signalHeater s = true ↔ s.heater.pwmActive = true ∧ s.params.heaterEnable = true ∧ s.seq.phase ≠ .readout)
    ∧ ∀ l minPulse, (lineSetup s l).use = .output .heater minPulse → (s.lines.get l).minTimer = none →
      (∃ t, exec .heaterPwmPeriod s = .next t ∧ (t.lines.get l).driven = signalHeater t
        ∧ pinLevel t l = (signalHeater t ^^ (lineSetup s l).invert))
      ∧ (s.heater.pwmActive = true → s.heater.activeUs < 10000 → ∃ t, exec .pwmActiveEnd s = .next t
        ∧ (t.lines.get l).driven = false ∧ pinLevel t l = (lineSetup s l).invert)
      ∧ ∀ d, s.seq.exposureTimer = some d → s.arb.holder = .none → ∃ t, exec .exposureTimerExpiry s = .next t
        ∧ signalHeater t = false ∧ (t.lines.get l).driven = false

/-! ### The values a render and a visit form -/

/-- An ACTIVE render with no LINE handed over forms the row at its cursor and hands over its LINE, width values in column
order: a MEAN_REJECT record gives Bo + round(m16 / 4) clamped, 65535 when it has only saturated samples; a PEAK or PEAK_FADE
record Bo + 4 x its effective value clamped; an EXCLUDE region Bo; and a hole the output two columns to the left, or Bo. Holes
and outputs at full scale are counted; no record changes (R135 to R140). -/
def Obligations.RenderFormsRowFromPlane : Prop :=
  ∀ s : State, s.render.state = .active → s.render.rowHanded = false → s.render.row < s.settings.height →
    let record := fun c : Nat => readPixel s (s.render.row * s.settings.width + c)
    let policy := fun c : Nat => pixelPolicy s.settings s.render.row c
    let clamp16 := fun x : Int => (clampInt 0 65535 x).toNat
    let effective : Nat → Option Int := fun c => match (record c).pending with
      | none => (record c).peak
      | some (v, sf) =>
        if isVetoed s.settings s.trails (policy c) s.render.row c sf = false ∧ (∀ p ∈ (record c).peak, p < v) then some v
        else (record c).peak
    let own : Nat → Option Nat := fun c => match (policy c).mode with
      | .exclude => none
      | .meanReject =>
        if 1 ≤ (record c).n then some (clamp16 (s.render.pedestal + roundDiv (record c).m16 4))
        else if 0 < (record c).sat then some 65535 else none
      | _ => (effective c).map fun v => clamp16 (s.render.pedestal + 4 * v)
    ∃ t, ∃ values : List Nat, exec .renderRowRead s = .next t ∧ values.length = s.settings.width
      ∧ (∀ c < s.settings.width,
        ((policy c).mode = .exclude → values[c]? = some s.render.pedestal)
        ∧ (∀ v, own c = some v → values[c]? = some v)
        ∧ ((policy c).mode ≠ .exclude → own c = none →
          values[c]? = if c < 2 then some s.render.pedestal else values[c - 2]?))
      ∧ Ends { s with
          render := { s.render with
            rowHanded := true,
            holes := s.render.holes + (List.range s.settings.width).countP fun c =>
              decide ((policy c).mode ≠ .exclude) && decide (own c = none),
            fullScale := s.render.fullScale + (List.range s.settings.width).countP fun c => decide (own c = some 65535) },
          out.renderQueue := s.out.renderQueue ++ [.line s.render.kind s.render.row values] } t

/-- What a light sample does to a record. MEAN_REJECT: the saturated mark counts in sat; a sample beyond the limit changes
nothing and is flagged; any other is folded in, the mean by round(d / (n + 1)) and M2 by d x (16y - m16), which is never
negative; at n = 4095 nothing is folded in. PEAK and PEAK_FADE: the pending value is settled, PEAK_FADE moves the peak toward
the mean, the sample is folded in and flagged when it is an outlier, and a candidate above the peak becomes pending. A pending
value is vetoed when its region's veto is on and a list of its own subframe has a box that, widened by margin and not clamped,
holds the pixel (R93, R94, R96 to R101, R127). -/
def Obligations.LightVisitUpdatesRecord : Prop :=
  (∀ (p : Policy) (vetoed : Nat → Bool) (subframe : Nat) (px : Pixel),
    let saturated := fun x : Pixel => { x with sat := min 4095 (x.sat + 1) }
    let outlier := fun (x : Pixel) (y : Int) => p.warmup ≤ x.n
      ∧ (p.kappa ^ 2 * max (x.m2 / (x.n - 1)) (256 * p.sigmaFloor ^ 2) : Int) < (16 * y - x.m16) ^ 2 * 256
    let folded := fun (x x' : Pixel) (y : Int) =>
      if 4095 ≤ x.n then x' = x
      else x' = { x with n := x.n + 1, m16 := x.m16 + roundDiv (16 * y - x.m16) (x.n + 1), m2 := x'.m2 }
        ∧ (x'.m2 : Int) = x.m2 + (16 * y - x.m16) * (16 * y - x'.m16)
    let visit := visitLight p vetoed subframe px
    (p.mode = .meanReject →
      visit none = { pixel := saturated px, tally := .saturated, flagged := false, outlier := false }
      ∧ ∀ y, (outlier px y → visit (some y) = { pixel := px, tally := .rejected, flagged := true, outlier := false })
        ∧ (¬ outlier px y → folded px (visit (some y)).pixel y ∧ (visit (some y)).tally = .admitted
          ∧ (visit (some y)).flagged = false ∧ (visit (some y)).outlier = false))
    ∧ (p.mode = .peak ∨ p.mode = .peakFade →
      let above := fun (v : Int) (peak : Option Int) => ∀ k ∈ peak, k < v
      let held := fun (v : Int) (x : Pixel) (peak : Option Int) (pending : Option (Int × Nat)) =>
        x.peak = peak ∧ (above v peak → x.pending = some (v, subframe)) ∧ (¬ above v peak → x.pending = pending)
      let settled := settledPeak vetoed px
      let faded : Option Int := if p.mode = .peakFade ∧ 1 ≤ px.n
        then settled.map fun k => roundDiv (px.m16 * 256 + (16 * k - px.m16) * p.fade) 4096 else settled
      let rest := { px with peak := faded, pending := none }
      held 16383 (visit none).pixel faded none ∧ (visit none).tally = .saturated ∧ (visit none).flagged = false
      ∧ (visit none).outlier = false
      ∧ { (visit none).pixel with pending := none } = { rest with sat := min 4095 (px.sat + 1) }
      ∧ ∀ y, held y (visit (some y)).pixel faded none ∧ (visit (some y)).tally = .admitted
        ∧ ((visit (some y)).flagged = true ↔ outlier px y) ∧ ((visit (some y)).outlier = true ↔ outlier px y)
        ∧ folded rest { (visit (some y)).pixel with pending := none } y))
  ∧ ∀ (set : TakeSettings) (det : TrailDetector) (p : Policy) (row column subframe : Nat),
    isVetoed set det p row column subframe = true ↔ p.veto = true
      ∧ ∃ v ∈ [det.current, det.previous], v.index = some subframe ∧ ∃ b ∈ v.boxes,
        (b.firstRow : Int) - set.margin ≤ row ∧ (row : Int) ≤ b.lastRow + set.margin
          ∧ (b.minCol : Int) - set.margin ≤ column ∧ (column : Int) ≤ b.maxCol + set.margin

/-- A curve holds its end values and steps between two points by the rounded share of the interval; no points give no value
(R41, R43, R79, R90). Rounding is to the nearest integer, ties away from zero (00 Conventions). The scale S is absent without a
contributing dark; otherwise it is the ratio of the exposures times the ratio of the dark-current factors, each ratio rounded,
the second 4096 with an empty model or a temperature absent, and is held at 65535 with SCALE_SATURATED (R76, R77, R80, R81). -/
def Obligations.CurvesInterpolateAndRound : Prop :=
  (∀ x, interpolate [] x = none)
  ∧ (∀ (p : CurvePoint) (rest : List CurvePoint) (x : Int), x ≤ p.x → interpolate (p :: rest) x = some p.y)
  ∧ (∀ (before : List CurvePoint) (p : CurvePoint) (x : Int), (before ++ [p]).Pairwise (fun a b => a.x < b.x) → p.x ≤ x →
    interpolate (before ++ [p]) x = some p.y)
  ∧ (∀ (before after : List CurvePoint) (p q : CurvePoint) (x : Int),
    (before ++ p :: q :: after).Pairwise (fun a b => a.x < b.x) → p.x ≤ x → x ≤ q.x →
    interpolate (before ++ p :: q :: after) x = some (p.y + roundDiv ((q.y - p.y) * (x - p.x)) (q.x - p.x)))
  ∧ (∀ a b : Int, 0 < b → 2 * |b * roundDiv a b - a| ≤ b ∧ (2 * |b * roundDiv a b - a| = b → |a| < |b * roundDiv a b|))
  ∧ ∀ (model : List CurvePoint) (c : Calibration) (exposed : Nat) (temp : Option Int),
    let ratio := roundDiv (4096 * exposed) (roundDiv c.darkExposure c.darkCount)
    let scaled := fun tq : Int =>
      let exact := roundDiv (ratio * tq) 4096
      scaleOf model c exposed temp = some (min 65535 exact.toNat) ∧ (scaleSaturates model c exposed temp = true ↔ 65535 < exact)
    (c.darkCount = 0 → scaleOf model c exposed temp = none ∧ scaleSaturates model c exposed temp = false)
    ∧ (0 < c.darkCount → model = [] ∨ temp = none ∨ c.darkTempCount = 0 → scaled 4096)
    ∧ (0 < c.darkCount → 0 < c.darkTempCount → ∀ t g h, temp = some t → interpolate model t = some g →
      interpolate model (roundDiv c.darkTempTotal c.darkTempCount) = some h → scaled (roundDiv (4096 * g) h))

/-! ### Rules of the whole part -/

/-- While the hold stands no packet starts, whatever is commanded: what was in progress goes on or ends (R167). -/
def Obligations.HeldLaneStartsNothing : Prop :=
  ∀ (c : Instr) (s t : State), exec c s = .next t → t.out.held = true →
    t.out.inProgress = none ∨ t.out.inProgress = s.out.inProgress
      ∨ t.out.inProgress = s.out.inProgress.map LanePacket.detach

/-- The plane changes only under the CLEARING pass and an ingest: no event but power and RESET_N changes a record while a
render holds the plane or none does (R86, R104, R105, R107, R135). -/
def Obligations.PlaneChangesOnlyUnderItsHolder : Prop :=
  ∀ (c : Instr) (s t : State), Coherent s → c ≠ .resetN → (∀ pins, c ≠ .powerOn pins) → exec c s = .next t →
    s.arb.holder = .none ∨ s.arb.holder = .render → t.plane = s.plane

/-- Closed records stay as they are until TAKE_START, TAKE_CLEAR, PART_RESET, power-on or RESET_N, and an event closes at most
one (R23). Tables change by TABLE_OPEN, TABLE_APPEND and TABLE_CLOSE, parameters by PARAM_SET, and the recorded settings by
TAKE_START, and by nothing else but power and RESET_N (R178, R183, R185). -/
def Obligations.LogAndSetupChangeOnlyByTheirRequests : Prop :=
  ∀ (c : Instr) (s t : State), c ≠ .resetN → (∀ pins, c ≠ .powerOn pins) → exec c s = .next t →
    (c ∉ [.takeStart, .takeClear, .partReset] → s.log.closed <+: t.log.closed
      ∧ t.log.closed.length ≤ s.log.closed.length + 1)
    ∧ (c ∉ [.tableOpen, .tableAppend, .tableClose] → t.tables = s.tables)
    ∧ (c ≠ .paramSet → t.params = s.params) ∧ (c ≠ .takeStart → t.settings = s.settings)

end
end

