-- ==== Sys2Proof/Laws/State.lean ====
section
/-! SUPPORT. One lemma per field per named update of the state, true by rfl, so that no later proof unfolds an update. -/

namespace Sys2Proof.Machine

/-! ### advanceTo -/

@[simp] theorem advanceTo_seq (t : Nat) (s : State) : (advanceTo t s).seq = s.seq := rfl
@[simp] theorem advanceTo_log (t : Nat) (s : State) : (advanceTo t s).log = s.log := rfl
@[simp] theorem advanceTo_lines (t : Nat) (s : State) : (advanceTo t s).lines = s.lines := rfl
@[simp] theorem advanceTo_meas (t : Nat) (s : State) : (advanceTo t s).meas = s.meas := rfl
@[simp] theorem advanceTo_temps (t : Nat) (s : State) : (advanceTo t s).temps = s.temps := rfl
@[simp] theorem advanceTo_heater (t : Nat) (s : State) : (advanceTo t s).heater = s.heater := rfl
@[simp] theorem advanceTo_link (t : Nat) (s : State) : (advanceTo t s).link = s.link := rfl
@[simp] theorem advanceTo_fifo (t : Nat) (s : State) : (advanceTo t s).fifo = s.fifo := rfl
@[simp] theorem advanceTo_cal (t : Nat) (s : State) : (advanceTo t s).cal = s.cal := rfl
@[simp] theorem advanceTo_plane (t : Nat) (s : State) : (advanceTo t s).plane = s.plane := rfl
@[simp] theorem advanceTo_arb (t : Nat) (s : State) : (advanceTo t s).arb = s.arb := rfl
@[simp] theorem advanceTo_trails (t : Nat) (s : State) : (advanceTo t s).trails = s.trails := rfl
@[simp] theorem advanceTo_render (t : Nat) (s : State) : (advanceTo t s).render = s.render := rfl
@[simp] theorem advanceTo_bridge (t : Nat) (s : State) : (advanceTo t s).bridge = s.bridge := rfl
@[simp] theorem advanceTo_out (t : Nat) (s : State) : (advanceTo t s).out = s.out := rfl
@[simp] theorem advanceTo_port (t : Nat) (s : State) : (advanceTo t s).port = s.port := rfl
@[simp] theorem advanceTo_tables (t : Nat) (s : State) : (advanceTo t s).tables = s.tables := rfl
@[simp] theorem advanceTo_params (t : Nat) (s : State) : (advanceTo t s).params = s.params := rfl
@[simp] theorem advanceTo_settings (t : Nat) (s : State) : (advanceTo t s).settings = s.settings := rfl
@[simp] theorem advanceTo_freeSeq (t : Nat) (s : State) : (advanceTo t s).freeSeq = s.freeSeq := rfl
@[simp] theorem advanceTo_pending (t : Nat) (s : State) : (advanceTo t s).pending = s.pending := rfl
@[simp] theorem advanceTo_now (t : Nat) (s : State) : (advanceTo t s).now = max s.now t := rfl

/-! ### tick -/

@[simp] theorem tick_seq (s : State) : (tick s).seq = s.seq := rfl
@[simp] theorem tick_log (s : State) : (tick s).log = s.log := rfl
@[simp] theorem tick_lines (s : State) : (tick s).lines = s.lines := rfl
@[simp] theorem tick_meas (s : State) : (tick s).meas = s.meas := rfl
@[simp] theorem tick_temps (s : State) : (tick s).temps = s.temps := rfl
@[simp] theorem tick_heater (s : State) : (tick s).heater = s.heater := rfl
@[simp] theorem tick_link (s : State) : (tick s).link = s.link := rfl
@[simp] theorem tick_fifo (s : State) : (tick s).fifo = s.fifo := rfl
@[simp] theorem tick_cal (s : State) : (tick s).cal = s.cal := rfl
@[simp] theorem tick_plane (s : State) : (tick s).plane = s.plane := rfl
@[simp] theorem tick_arb (s : State) : (tick s).arb = s.arb := rfl
@[simp] theorem tick_trails (s : State) : (tick s).trails = s.trails := rfl
@[simp] theorem tick_render (s : State) : (tick s).render = s.render := rfl
@[simp] theorem tick_bridge (s : State) : (tick s).bridge = s.bridge := rfl
@[simp] theorem tick_out (s : State) : (tick s).out = s.out := rfl
@[simp] theorem tick_port (s : State) : (tick s).port = s.port := rfl
@[simp] theorem tick_tables (s : State) : (tick s).tables = s.tables := rfl
@[simp] theorem tick_params (s : State) : (tick s).params = s.params := rfl
@[simp] theorem tick_settings (s : State) : (tick s).settings = s.settings := rfl
@[simp] theorem tick_freeSeq (s : State) : (tick s).freeSeq = s.freeSeq := rfl
@[simp] theorem tick_pending (s : State) : (tick s).pending = s.pending := rfl
@[simp] theorem tick_now (s : State) : (tick s).now = s.now + 1 := rfl

/-! ### setRow -/

@[simp] theorem setRow_seq (row : Nat) (r : RowState) (s : State) : (setRow row r s).seq = s.seq := rfl
@[simp] theorem setRow_log (row : Nat) (r : RowState) (s : State) : (setRow row r s).log = s.log := rfl
@[simp] theorem setRow_lines (row : Nat) (r : RowState) (s : State) : (setRow row r s).lines = s.lines := rfl
@[simp] theorem setRow_meas (row : Nat) (r : RowState) (s : State) : (setRow row r s).meas = s.meas := rfl
@[simp] theorem setRow_temps (row : Nat) (r : RowState) (s : State) : (setRow row r s).temps = s.temps := rfl
@[simp] theorem setRow_heater (row : Nat) (r : RowState) (s : State) : (setRow row r s).heater = s.heater := rfl
@[simp] theorem setRow_fifo (row : Nat) (r : RowState) (s : State) : (setRow row r s).fifo = s.fifo := rfl
@[simp] theorem setRow_cal (row : Nat) (r : RowState) (s : State) : (setRow row r s).cal = s.cal := rfl
@[simp] theorem setRow_plane (row : Nat) (r : RowState) (s : State) : (setRow row r s).plane = s.plane := rfl
@[simp] theorem setRow_arb (row : Nat) (r : RowState) (s : State) : (setRow row r s).arb = s.arb := rfl
@[simp] theorem setRow_trails (row : Nat) (r : RowState) (s : State) : (setRow row r s).trails = s.trails := rfl
@[simp] theorem setRow_render (row : Nat) (r : RowState) (s : State) : (setRow row r s).render = s.render := rfl
@[simp] theorem setRow_bridge (row : Nat) (r : RowState) (s : State) : (setRow row r s).bridge = s.bridge := rfl
@[simp] theorem setRow_out (row : Nat) (r : RowState) (s : State) : (setRow row r s).out = s.out := rfl
@[simp] theorem setRow_port (row : Nat) (r : RowState) (s : State) : (setRow row r s).port = s.port := rfl
@[simp] theorem setRow_tables (row : Nat) (r : RowState) (s : State) : (setRow row r s).tables = s.tables := rfl
@[simp] theorem setRow_params (row : Nat) (r : RowState) (s : State) : (setRow row r s).params = s.params := rfl
@[simp] theorem setRow_settings (row : Nat) (r : RowState) (s : State) : (setRow row r s).settings = s.settings := rfl
@[simp] theorem setRow_now (row : Nat) (r : RowState) (s : State) : (setRow row r s).now = s.now := rfl
@[simp] theorem setRow_freeSeq (row : Nat) (r : RowState) (s : State) : (setRow row r s).freeSeq = s.freeSeq := rfl
@[simp] theorem setRow_pending (row : Nat) (r : RowState) (s : State) : (setRow row r s).pending = s.pending := rfl
@[simp] theorem setRow_rowMap (row : Nat) (r : RowState) (s : State) :
    (setRow row r s).link.rowMap = Memory.write .unseen s.link.rowMap row r := rfl
@[simp] theorem setRow_linkRest (row : Nat) (r : RowState) (s : State) :
    (setRow row r s).link = { s.link with rowMap := Memory.write .unseen s.link.rowMap row r } := rfl

/-! ### onRecord -/

@[simp] theorem onRecord_seq (f : SubframeRecord → SubframeRecord) (s : State) : (onRecord f s).seq = s.seq := rfl
@[simp] theorem onRecord_lines (f : SubframeRecord → SubframeRecord) (s : State) : (onRecord f s).lines = s.lines := rfl
@[simp] theorem onRecord_meas (f : SubframeRecord → SubframeRecord) (s : State) : (onRecord f s).meas = s.meas := rfl
@[simp] theorem onRecord_temps (f : SubframeRecord → SubframeRecord) (s : State) : (onRecord f s).temps = s.temps := rfl
@[simp] theorem onRecord_heater (f : SubframeRecord → SubframeRecord) (s : State) : (onRecord f s).heater = s.heater := rfl
@[simp] theorem onRecord_link (f : SubframeRecord → SubframeRecord) (s : State) : (onRecord f s).link = s.link := rfl
@[simp] theorem onRecord_fifo (f : SubframeRecord → SubframeRecord) (s : State) : (onRecord f s).fifo = s.fifo := rfl
@[simp] theorem onRecord_cal (f : SubframeRecord → SubframeRecord) (s : State) : (onRecord f s).cal = s.cal := rfl
@[simp] theorem onRecord_plane (f : SubframeRecord → SubframeRecord) (s : State) : (onRecord f s).plane = s.plane := rfl
@[simp] theorem onRecord_arb (f : SubframeRecord → SubframeRecord) (s : State) : (onRecord f s).arb = s.arb := rfl
@[simp] theorem onRecord_trails (f : SubframeRecord → SubframeRecord) (s : State) : (onRecord f s).trails = s.trails := rfl
@[simp] theorem onRecord_render (f : SubframeRecord → SubframeRecord) (s : State) : (onRecord f s).render = s.render := rfl
@[simp] theorem onRecord_bridge (f : SubframeRecord → SubframeRecord) (s : State) : (onRecord f s).bridge = s.bridge := rfl
@[simp] theorem onRecord_out (f : SubframeRecord → SubframeRecord) (s : State) : (onRecord f s).out = s.out := rfl
@[simp] theorem onRecord_port (f : SubframeRecord → SubframeRecord) (s : State) : (onRecord f s).port = s.port := rfl
@[simp] theorem onRecord_tables (f : SubframeRecord → SubframeRecord) (s : State) : (onRecord f s).tables = s.tables := rfl
@[simp] theorem onRecord_params (f : SubframeRecord → SubframeRecord) (s : State) : (onRecord f s).params = s.params := rfl
@[simp] theorem onRecord_settings (f : SubframeRecord → SubframeRecord) (s : State) :
    (onRecord f s).settings = s.settings := rfl
@[simp] theorem onRecord_now (f : SubframeRecord → SubframeRecord) (s : State) : (onRecord f s).now = s.now := rfl
@[simp] theorem onRecord_freeSeq (f : SubframeRecord → SubframeRecord) (s : State) : (onRecord f s).freeSeq = s.freeSeq := rfl
@[simp] theorem onRecord_pending (f : SubframeRecord → SubframeRecord) (s : State) : (onRecord f s).pending = s.pending := rfl
@[simp] theorem onRecord_closed (f : SubframeRecord → SubframeRecord) (s : State) :
    (onRecord f s).log.closed = s.log.closed := rfl
@[simp] theorem onRecord_openRecord (f : SubframeRecord → SubframeRecord) (s : State) :
    (onRecord f s).log.openRecord = s.log.openRecord.map f := rfl

/-! ### setLine -/

@[simp] theorem setLine_seq (l : LineNo) (x : LineState) (s : State) : (setLine l x s).seq = s.seq := rfl
@[simp] theorem setLine_log (l : LineNo) (x : LineState) (s : State) : (setLine l x s).log = s.log := rfl
@[simp] theorem setLine_meas (l : LineNo) (x : LineState) (s : State) : (setLine l x s).meas = s.meas := rfl
@[simp] theorem setLine_temps (l : LineNo) (x : LineState) (s : State) : (setLine l x s).temps = s.temps := rfl
@[simp] theorem setLine_heater (l : LineNo) (x : LineState) (s : State) : (setLine l x s).heater = s.heater := rfl
@[simp] theorem setLine_link (l : LineNo) (x : LineState) (s : State) : (setLine l x s).link = s.link := rfl
@[simp] theorem setLine_fifo (l : LineNo) (x : LineState) (s : State) : (setLine l x s).fifo = s.fifo := rfl
@[simp] theorem setLine_cal (l : LineNo) (x : LineState) (s : State) : (setLine l x s).cal = s.cal := rfl
@[simp] theorem setLine_plane (l : LineNo) (x : LineState) (s : State) : (setLine l x s).plane = s.plane := rfl
@[simp] theorem setLine_arb (l : LineNo) (x : LineState) (s : State) : (setLine l x s).arb = s.arb := rfl
@[simp] theorem setLine_trails (l : LineNo) (x : LineState) (s : State) : (setLine l x s).trails = s.trails := rfl
@[simp] theorem setLine_render (l : LineNo) (x : LineState) (s : State) : (setLine l x s).render = s.render := rfl
@[simp] theorem setLine_bridge (l : LineNo) (x : LineState) (s : State) : (setLine l x s).bridge = s.bridge := rfl
@[simp] theorem setLine_out (l : LineNo) (x : LineState) (s : State) : (setLine l x s).out = s.out := rfl
@[simp] theorem setLine_port (l : LineNo) (x : LineState) (s : State) : (setLine l x s).port = s.port := rfl
@[simp] theorem setLine_tables (l : LineNo) (x : LineState) (s : State) : (setLine l x s).tables = s.tables := rfl
@[simp] theorem setLine_params (l : LineNo) (x : LineState) (s : State) : (setLine l x s).params = s.params := rfl
@[simp] theorem setLine_settings (l : LineNo) (x : LineState) (s : State) : (setLine l x s).settings = s.settings := rfl
@[simp] theorem setLine_now (l : LineNo) (x : LineState) (s : State) : (setLine l x s).now = s.now := rfl
@[simp] theorem setLine_freeSeq (l : LineNo) (x : LineState) (s : State) : (setLine l x s).freeSeq = s.freeSeq := rfl
@[simp] theorem setLine_pending (l : LineNo) (x : LineState) (s : State) : (setLine l x s).pending = s.pending := rfl
@[simp] theorem setLine_lines (l : LineNo) (x : LineState) (s : State) : (setLine l x s).lines = s.lines.set l x := rfl

/-! ### driveLines -/

@[simp] theorem driveLines_seq (s : State) : (driveLines s).seq = s.seq := rfl
@[simp] theorem driveLines_log (s : State) : (driveLines s).log = s.log := rfl
@[simp] theorem driveLines_meas (s : State) : (driveLines s).meas = s.meas := rfl
@[simp] theorem driveLines_temps (s : State) : (driveLines s).temps = s.temps := rfl
@[simp] theorem driveLines_heater (s : State) : (driveLines s).heater = s.heater := rfl
@[simp] theorem driveLines_link (s : State) : (driveLines s).link = s.link := rfl
@[simp] theorem driveLines_fifo (s : State) : (driveLines s).fifo = s.fifo := rfl
@[simp] theorem driveLines_cal (s : State) : (driveLines s).cal = s.cal := rfl
@[simp] theorem driveLines_plane (s : State) : (driveLines s).plane = s.plane := rfl
@[simp] theorem driveLines_arb (s : State) : (driveLines s).arb = s.arb := rfl
@[simp] theorem driveLines_trails (s : State) : (driveLines s).trails = s.trails := rfl
@[simp] theorem driveLines_render (s : State) : (driveLines s).render = s.render := rfl
@[simp] theorem driveLines_bridge (s : State) : (driveLines s).bridge = s.bridge := rfl
@[simp] theorem driveLines_out (s : State) : (driveLines s).out = s.out := rfl
@[simp] theorem driveLines_port (s : State) : (driveLines s).port = s.port := rfl
@[simp] theorem driveLines_tables (s : State) : (driveLines s).tables = s.tables := rfl
@[simp] theorem driveLines_params (s : State) : (driveLines s).params = s.params := rfl
@[simp] theorem driveLines_settings (s : State) : (driveLines s).settings = s.settings := rfl
@[simp] theorem driveLines_now (s : State) : (driveLines s).now = s.now := rfl
@[simp] theorem driveLines_freeSeq (s : State) : (driveLines s).freeSeq = s.freeSeq := rfl
@[simp] theorem driveLines_pending (s : State) : (driveLines s).pending = s.pending := rfl
@[simp] theorem driveLines_lines (s : State) : (driveLines s).lines = s.lines.map (driveLine s) := rfl

/-! ### releaseLines -/

@[simp] theorem releaseLines_seq (s : State) : (releaseLines s).seq = s.seq := rfl
@[simp] theorem releaseLines_log (s : State) : (releaseLines s).log = s.log := rfl
@[simp] theorem releaseLines_meas (s : State) : (releaseLines s).meas = s.meas := rfl
@[simp] theorem releaseLines_temps (s : State) : (releaseLines s).temps = s.temps := rfl
@[simp] theorem releaseLines_heater (s : State) : (releaseLines s).heater = s.heater := rfl
@[simp] theorem releaseLines_link (s : State) : (releaseLines s).link = s.link := rfl
@[simp] theorem releaseLines_fifo (s : State) : (releaseLines s).fifo = s.fifo := rfl
@[simp] theorem releaseLines_cal (s : State) : (releaseLines s).cal = s.cal := rfl
@[simp] theorem releaseLines_plane (s : State) : (releaseLines s).plane = s.plane := rfl
@[simp] theorem releaseLines_arb (s : State) : (releaseLines s).arb = s.arb := rfl
@[simp] theorem releaseLines_trails (s : State) : (releaseLines s).trails = s.trails := rfl
@[simp] theorem releaseLines_render (s : State) : (releaseLines s).render = s.render := rfl
@[simp] theorem releaseLines_bridge (s : State) : (releaseLines s).bridge = s.bridge := rfl
@[simp] theorem releaseLines_out (s : State) : (releaseLines s).out = s.out := rfl
@[simp] theorem releaseLines_port (s : State) : (releaseLines s).port = s.port := rfl
@[simp] theorem releaseLines_tables (s : State) : (releaseLines s).tables = s.tables := rfl
@[simp] theorem releaseLines_params (s : State) : (releaseLines s).params = s.params := rfl
@[simp] theorem releaseLines_settings (s : State) : (releaseLines s).settings = s.settings := rfl
@[simp] theorem releaseLines_now (s : State) : (releaseLines s).now = s.now := rfl
@[simp] theorem releaseLines_freeSeq (s : State) : (releaseLines s).freeSeq = s.freeSeq := rfl
@[simp] theorem releaseLines_pending (s : State) : (releaseLines s).pending = s.pending := rfl
@[simp] theorem releaseLines_lines (s : State) : (releaseLines s).lines = s.lines.map fun _ x => releaseLine x := rfl

/-! ### setUpLines -/

@[simp] theorem setUpLines_seq (s : State) : (setUpLines s).seq = s.seq := rfl
@[simp] theorem setUpLines_log (s : State) : (setUpLines s).log = s.log := rfl
@[simp] theorem setUpLines_meas (s : State) : (setUpLines s).meas = s.meas := rfl
@[simp] theorem setUpLines_temps (s : State) : (setUpLines s).temps = s.temps := rfl
@[simp] theorem setUpLines_heater (s : State) : (setUpLines s).heater = s.heater := rfl
@[simp] theorem setUpLines_link (s : State) : (setUpLines s).link = s.link := rfl
@[simp] theorem setUpLines_fifo (s : State) : (setUpLines s).fifo = s.fifo := rfl
@[simp] theorem setUpLines_cal (s : State) : (setUpLines s).cal = s.cal := rfl
@[simp] theorem setUpLines_plane (s : State) : (setUpLines s).plane = s.plane := rfl
@[simp] theorem setUpLines_arb (s : State) : (setUpLines s).arb = s.arb := rfl
@[simp] theorem setUpLines_trails (s : State) : (setUpLines s).trails = s.trails := rfl
@[simp] theorem setUpLines_render (s : State) : (setUpLines s).render = s.render := rfl
@[simp] theorem setUpLines_bridge (s : State) : (setUpLines s).bridge = s.bridge := rfl
@[simp] theorem setUpLines_out (s : State) : (setUpLines s).out = s.out := rfl
@[simp] theorem setUpLines_port (s : State) : (setUpLines s).port = s.port := rfl
@[simp] theorem setUpLines_tables (s : State) : (setUpLines s).tables = s.tables := rfl
@[simp] theorem setUpLines_params (s : State) : (setUpLines s).params = s.params := rfl
@[simp] theorem setUpLines_settings (s : State) : (setUpLines s).settings = s.settings := rfl
@[simp] theorem setUpLines_now (s : State) : (setUpLines s).now = s.now := rfl
@[simp] theorem setUpLines_freeSeq (s : State) : (setUpLines s).freeSeq = s.freeSeq := rfl
@[simp] theorem setUpLines_pending (s : State) : (setUpLines s).pending = s.pending := rfl

/-! ### freeEntries -/

@[simp] theorem freeEntries_seq (s : State) : (freeEntries s).seq = s.seq := rfl
@[simp] theorem freeEntries_log (s : State) : (freeEntries s).log = s.log := rfl
@[simp] theorem freeEntries_lines (s : State) : (freeEntries s).lines = s.lines := rfl
@[simp] theorem freeEntries_meas (s : State) : (freeEntries s).meas = s.meas := rfl
@[simp] theorem freeEntries_temps (s : State) : (freeEntries s).temps = s.temps := rfl
@[simp] theorem freeEntries_heater (s : State) : (freeEntries s).heater = s.heater := rfl
@[simp] theorem freeEntries_link (s : State) : (freeEntries s).link = s.link := rfl
@[simp] theorem freeEntries_cal (s : State) : (freeEntries s).cal = s.cal := rfl
@[simp] theorem freeEntries_plane (s : State) : (freeEntries s).plane = s.plane := rfl
@[simp] theorem freeEntries_arb (s : State) : (freeEntries s).arb = s.arb := rfl
@[simp] theorem freeEntries_trails (s : State) : (freeEntries s).trails = s.trails := rfl
@[simp] theorem freeEntries_render (s : State) : (freeEntries s).render = s.render := rfl
@[simp] theorem freeEntries_bridge (s : State) : (freeEntries s).bridge = s.bridge := rfl
@[simp] theorem freeEntries_out (s : State) : (freeEntries s).out = s.out := rfl
@[simp] theorem freeEntries_port (s : State) : (freeEntries s).port = s.port := rfl
@[simp] theorem freeEntries_tables (s : State) : (freeEntries s).tables = s.tables := rfl
@[simp] theorem freeEntries_params (s : State) : (freeEntries s).params = s.params := rfl
@[simp] theorem freeEntries_settings (s : State) : (freeEntries s).settings = s.settings := rfl
@[simp] theorem freeEntries_now (s : State) : (freeEntries s).now = s.now := rfl
@[simp] theorem freeEntries_freeSeq (s : State) : (freeEntries s).freeSeq = s.freeSeq := rfl
@[simp] theorem freeEntries_pending (s : State) : (freeEntries s).pending = s.pending := rfl
@[simp] theorem freeEntries_entries (s : State) :
    (freeEntries s).fifo.entries = s.fifo.entries.dropWhile FifoEntry.finished := rfl
@[simp] theorem freeEntries_frames (s : State) : (freeEntries s).fifo.frames = s.fifo.frames := rfl

/-! ### onEntries -/

@[simp] theorem onEntries_seq (hit : FifoEntry → Bool) (f : FifoEntry → FifoEntry) (s : State) :
    (onEntries hit f s).seq = s.seq := rfl
@[simp] theorem onEntries_log (hit : FifoEntry → Bool) (f : FifoEntry → FifoEntry) (s : State) :
    (onEntries hit f s).log = s.log := rfl
@[simp] theorem onEntries_lines (hit : FifoEntry → Bool) (f : FifoEntry → FifoEntry) (s : State) :
    (onEntries hit f s).lines = s.lines := rfl
@[simp] theorem onEntries_meas (hit : FifoEntry → Bool) (f : FifoEntry → FifoEntry) (s : State) :
    (onEntries hit f s).meas = s.meas := rfl
@[simp] theorem onEntries_temps (hit : FifoEntry → Bool) (f : FifoEntry → FifoEntry) (s : State) :
    (onEntries hit f s).temps = s.temps := rfl
@[simp] theorem onEntries_heater (hit : FifoEntry → Bool) (f : FifoEntry → FifoEntry) (s : State) :
    (onEntries hit f s).heater = s.heater := rfl
@[simp] theorem onEntries_link (hit : FifoEntry → Bool) (f : FifoEntry → FifoEntry) (s : State) :
    (onEntries hit f s).link = s.link := rfl
@[simp] theorem onEntries_cal (hit : FifoEntry → Bool) (f : FifoEntry → FifoEntry) (s : State) :
    (onEntries hit f s).cal = s.cal := rfl
@[simp] theorem onEntries_plane (hit : FifoEntry → Bool) (f : FifoEntry → FifoEntry) (s : State) :
    (onEntries hit f s).plane = s.plane := rfl
@[simp] theorem onEntries_arb (hit : FifoEntry → Bool) (f : FifoEntry → FifoEntry) (s : State) :
    (onEntries hit f s).arb = s.arb := rfl
@[simp] theorem onEntries_trails (hit : FifoEntry → Bool) (f : FifoEntry → FifoEntry) (s : State) :
    (onEntries hit f s).trails = s.trails := rfl
@[simp] theorem onEntries_render (hit : FifoEntry → Bool) (f : FifoEntry → FifoEntry) (s : State) :
    (onEntries hit f s).render = s.render := rfl
@[simp] theorem onEntries_bridge (hit : FifoEntry → Bool) (f : FifoEntry → FifoEntry) (s : State) :
    (onEntries hit f s).bridge = s.bridge := rfl
@[simp] theorem onEntries_out (hit : FifoEntry → Bool) (f : FifoEntry → FifoEntry) (s : State) :
    (onEntries hit f s).out = s.out := rfl
@[simp] theorem onEntries_port (hit : FifoEntry → Bool) (f : FifoEntry → FifoEntry) (s : State) :
    (onEntries hit f s).port = s.port := rfl
@[simp] theorem onEntries_tables (hit : FifoEntry → Bool) (f : FifoEntry → FifoEntry) (s : State) :
    (onEntries hit f s).tables = s.tables := rfl
@[simp] theorem onEntries_params (hit : FifoEntry → Bool) (f : FifoEntry → FifoEntry) (s : State) :
    (onEntries hit f s).params = s.params := rfl
@[simp] theorem onEntries_settings (hit : FifoEntry → Bool) (f : FifoEntry → FifoEntry) (s : State) :
    (onEntries hit f s).settings = s.settings := rfl
@[simp] theorem onEntries_now (hit : FifoEntry → Bool) (f : FifoEntry → FifoEntry) (s : State) :
    (onEntries hit f s).now = s.now := rfl
@[simp] theorem onEntries_freeSeq (hit : FifoEntry → Bool) (f : FifoEntry → FifoEntry) (s : State) :
    (onEntries hit f s).freeSeq = s.freeSeq := rfl
@[simp] theorem onEntries_pending (hit : FifoEntry → Bool) (f : FifoEntry → FifoEntry) (s : State) :
    (onEntries hit f s).pending = s.pending := rfl
@[simp] theorem onEntries_entries (hit : FifoEntry → Bool) (f : FifoEntry → FifoEntry) (s : State) :
    (onEntries hit f s).fifo.entries = s.fifo.entries.map fun e => if hit e then f e else e := rfl
@[simp] theorem onEntries_frames (hit : FifoEntry → Bool) (f : FifoEntry → FifoEntry) (s : State) :
    (onEntries hit f s).fifo.frames = s.fifo.frames := rfl

/-! ### onFrames -/

@[simp] theorem onFrames_seq (hit : ForwardedFrame → Bool) (f : ForwardedFrame → ForwardedFrame) (s : State) :
    (onFrames hit f s).seq = s.seq := rfl
@[simp] theorem onFrames_log (hit : ForwardedFrame → Bool) (f : ForwardedFrame → ForwardedFrame) (s : State) :
    (onFrames hit f s).log = s.log := rfl
@[simp] theorem onFrames_lines (hit : ForwardedFrame → Bool) (f : ForwardedFrame → ForwardedFrame) (s : State) :
    (onFrames hit f s).lines = s.lines := rfl
@[simp] theorem onFrames_meas (hit : ForwardedFrame → Bool) (f : ForwardedFrame → ForwardedFrame) (s : State) :
    (onFrames hit f s).meas = s.meas := rfl
@[simp] theorem onFrames_temps (hit : ForwardedFrame → Bool) (f : ForwardedFrame → ForwardedFrame) (s : State) :
    (onFrames hit f s).temps = s.temps := rfl
@[simp] theorem onFrames_heater (hit : ForwardedFrame → Bool) (f : ForwardedFrame → ForwardedFrame) (s : State) :
    (onFrames hit f s).heater = s.heater := rfl
@[simp] theorem onFrames_link (hit : ForwardedFrame → Bool) (f : ForwardedFrame → ForwardedFrame) (s : State) :
    (onFrames hit f s).link = s.link := rfl
@[simp] theorem onFrames_cal (hit : ForwardedFrame → Bool) (f : ForwardedFrame → ForwardedFrame) (s : State) :
    (onFrames hit f s).cal = s.cal := rfl
@[simp] theorem onFrames_plane (hit : ForwardedFrame → Bool) (f : ForwardedFrame → ForwardedFrame) (s : State) :
    (onFrames hit f s).plane = s.plane := rfl
@[simp] theorem onFrames_arb (hit : ForwardedFrame → Bool) (f : ForwardedFrame → ForwardedFrame) (s : State) :
    (onFrames hit f s).arb = s.arb := rfl
@[simp] theorem onFrames_trails (hit : ForwardedFrame → Bool) (f : ForwardedFrame → ForwardedFrame) (s : State) :
    (onFrames hit f s).trails = s.trails := rfl
@[simp] theorem onFrames_render (hit : ForwardedFrame → Bool) (f : ForwardedFrame → ForwardedFrame) (s : State) :
    (onFrames hit f s).render = s.render := rfl
@[simp] theorem onFrames_bridge (hit : ForwardedFrame → Bool) (f : ForwardedFrame → ForwardedFrame) (s : State) :
    (onFrames hit f s).bridge = s.bridge := rfl
@[simp] theorem onFrames_out (hit : ForwardedFrame → Bool) (f : ForwardedFrame → ForwardedFrame) (s : State) :
    (onFrames hit f s).out = s.out := rfl
@[simp] theorem onFrames_port (hit : ForwardedFrame → Bool) (f : ForwardedFrame → ForwardedFrame) (s : State) :
    (onFrames hit f s).port = s.port := rfl
@[simp] theorem onFrames_tables (hit : ForwardedFrame → Bool) (f : ForwardedFrame → ForwardedFrame) (s : State) :
    (onFrames hit f s).tables = s.tables := rfl
@[simp] theorem onFrames_params (hit : ForwardedFrame → Bool) (f : ForwardedFrame → ForwardedFrame) (s : State) :
    (onFrames hit f s).params = s.params := rfl
@[simp] theorem onFrames_settings (hit : ForwardedFrame → Bool) (f : ForwardedFrame → ForwardedFrame) (s : State) :
    (onFrames hit f s).settings = s.settings := rfl
@[simp] theorem onFrames_now (hit : ForwardedFrame → Bool) (f : ForwardedFrame → ForwardedFrame) (s : State) :
    (onFrames hit f s).now = s.now := rfl
@[simp] theorem onFrames_freeSeq (hit : ForwardedFrame → Bool) (f : ForwardedFrame → ForwardedFrame) (s : State) :
    (onFrames hit f s).freeSeq = s.freeSeq := rfl
@[simp] theorem onFrames_pending (hit : ForwardedFrame → Bool) (f : ForwardedFrame → ForwardedFrame) (s : State) :
    (onFrames hit f s).pending = s.pending := rfl
@[simp] theorem onFrames_entries (hit : ForwardedFrame → Bool) (f : ForwardedFrame → ForwardedFrame) (s : State) :
    (onFrames hit f s).fifo.entries = s.fifo.entries := rfl
@[simp] theorem onFrames_frames (hit : ForwardedFrame → Bool) (f : ForwardedFrame → ForwardedFrame) (s : State) :
    (onFrames hit f s).fifo.frames = s.fifo.frames.map fun g => if hit g then f g else g := rfl

/-! ### commitRows -/

@[simp] theorem commitRows_seq (visit : Nat → Bool) (s : State) : (commitRows visit s).seq = s.seq := rfl
@[simp] theorem commitRows_log (visit : Nat → Bool) (s : State) : (commitRows visit s).log = s.log := rfl
@[simp] theorem commitRows_lines (visit : Nat → Bool) (s : State) : (commitRows visit s).lines = s.lines := rfl
@[simp] theorem commitRows_meas (visit : Nat → Bool) (s : State) : (commitRows visit s).meas = s.meas := rfl
@[simp] theorem commitRows_temps (visit : Nat → Bool) (s : State) : (commitRows visit s).temps = s.temps := rfl
@[simp] theorem commitRows_heater (visit : Nat → Bool) (s : State) : (commitRows visit s).heater = s.heater := rfl
@[simp] theorem commitRows_link (visit : Nat → Bool) (s : State) : (commitRows visit s).link = s.link := rfl
@[simp] theorem commitRows_fifo (visit : Nat → Bool) (s : State) : (commitRows visit s).fifo = s.fifo := rfl
@[simp] theorem commitRows_cal (visit : Nat → Bool) (s : State) : (commitRows visit s).cal = s.cal := rfl
@[simp] theorem commitRows_arb (visit : Nat → Bool) (s : State) : (commitRows visit s).arb = s.arb := rfl
@[simp] theorem commitRows_trails (visit : Nat → Bool) (s : State) : (commitRows visit s).trails = s.trails := rfl
@[simp] theorem commitRows_render (visit : Nat → Bool) (s : State) : (commitRows visit s).render = s.render := rfl
@[simp] theorem commitRows_bridge (visit : Nat → Bool) (s : State) : (commitRows visit s).bridge = s.bridge := rfl
@[simp] theorem commitRows_out (visit : Nat → Bool) (s : State) : (commitRows visit s).out = s.out := rfl
@[simp] theorem commitRows_port (visit : Nat → Bool) (s : State) : (commitRows visit s).port = s.port := rfl
@[simp] theorem commitRows_tables (visit : Nat → Bool) (s : State) : (commitRows visit s).tables = s.tables := rfl
@[simp] theorem commitRows_params (visit : Nat → Bool) (s : State) : (commitRows visit s).params = s.params := rfl
@[simp] theorem commitRows_settings (visit : Nat → Bool) (s : State) : (commitRows visit s).settings = s.settings := rfl
@[simp] theorem commitRows_now (visit : Nat → Bool) (s : State) : (commitRows visit s).now = s.now := rfl
@[simp] theorem commitRows_freeSeq (visit : Nat → Bool) (s : State) : (commitRows visit s).freeSeq = s.freeSeq := rfl
@[simp] theorem commitRows_pending (visit : Nat → Bool) (s : State) : (commitRows visit s).pending = s.pending := rfl
@[simp] theorem commitRows_plane (visit : Nat → Bool) (s : State) :
    (commitRows visit s).plane = Memory.update Pixel.cleared (commitRecord visit s.settings s.trails) s.plane := rfl

/-! ### rotateVetoLists -/

@[simp] theorem rotateVetoLists_seq (s : State) : (rotateVetoLists s).seq = s.seq := rfl
@[simp] theorem rotateVetoLists_log (s : State) : (rotateVetoLists s).log = s.log := rfl
@[simp] theorem rotateVetoLists_lines (s : State) : (rotateVetoLists s).lines = s.lines := rfl
@[simp] theorem rotateVetoLists_meas (s : State) : (rotateVetoLists s).meas = s.meas := rfl
@[simp] theorem rotateVetoLists_temps (s : State) : (rotateVetoLists s).temps = s.temps := rfl
@[simp] theorem rotateVetoLists_heater (s : State) : (rotateVetoLists s).heater = s.heater := rfl
@[simp] theorem rotateVetoLists_link (s : State) : (rotateVetoLists s).link = s.link := rfl
@[simp] theorem rotateVetoLists_fifo (s : State) : (rotateVetoLists s).fifo = s.fifo := rfl
@[simp] theorem rotateVetoLists_cal (s : State) : (rotateVetoLists s).cal = s.cal := rfl
@[simp] theorem rotateVetoLists_plane (s : State) : (rotateVetoLists s).plane = s.plane := rfl
@[simp] theorem rotateVetoLists_arb (s : State) : (rotateVetoLists s).arb = s.arb := rfl
@[simp] theorem rotateVetoLists_render (s : State) : (rotateVetoLists s).render = s.render := rfl
@[simp] theorem rotateVetoLists_bridge (s : State) : (rotateVetoLists s).bridge = s.bridge := rfl
@[simp] theorem rotateVetoLists_out (s : State) : (rotateVetoLists s).out = s.out := rfl
@[simp] theorem rotateVetoLists_port (s : State) : (rotateVetoLists s).port = s.port := rfl
@[simp] theorem rotateVetoLists_tables (s : State) : (rotateVetoLists s).tables = s.tables := rfl
@[simp] theorem rotateVetoLists_params (s : State) : (rotateVetoLists s).params = s.params := rfl
@[simp] theorem rotateVetoLists_settings (s : State) : (rotateVetoLists s).settings = s.settings := rfl
@[simp] theorem rotateVetoLists_now (s : State) : (rotateVetoLists s).now = s.now := rfl
@[simp] theorem rotateVetoLists_freeSeq (s : State) : (rotateVetoLists s).freeSeq = s.freeSeq := rfl
@[simp] theorem rotateVetoLists_pending (s : State) : (rotateVetoLists s).pending = s.pending := rfl
@[simp] theorem rotateVetoLists_trails (s : State) :
    (rotateVetoLists s).trails = { s.trails with previous := s.trails.current, current := VetoList.absent } := rfl

/-! ### setCursor -/

@[simp] theorem setCursor_seq (ahead : List Defect) (s : State) : (setCursor ahead s).seq = s.seq := rfl
@[simp] theorem setCursor_log (ahead : List Defect) (s : State) : (setCursor ahead s).log = s.log := rfl
@[simp] theorem setCursor_lines (ahead : List Defect) (s : State) : (setCursor ahead s).lines = s.lines := rfl
@[simp] theorem setCursor_meas (ahead : List Defect) (s : State) : (setCursor ahead s).meas = s.meas := rfl
@[simp] theorem setCursor_temps (ahead : List Defect) (s : State) : (setCursor ahead s).temps = s.temps := rfl
@[simp] theorem setCursor_heater (ahead : List Defect) (s : State) : (setCursor ahead s).heater = s.heater := rfl
@[simp] theorem setCursor_link (ahead : List Defect) (s : State) : (setCursor ahead s).link = s.link := rfl
@[simp] theorem setCursor_fifo (ahead : List Defect) (s : State) : (setCursor ahead s).fifo = s.fifo := rfl
@[simp] theorem setCursor_plane (ahead : List Defect) (s : State) : (setCursor ahead s).plane = s.plane := rfl
@[simp] theorem setCursor_arb (ahead : List Defect) (s : State) : (setCursor ahead s).arb = s.arb := rfl
@[simp] theorem setCursor_trails (ahead : List Defect) (s : State) : (setCursor ahead s).trails = s.trails := rfl
@[simp] theorem setCursor_render (ahead : List Defect) (s : State) : (setCursor ahead s).render = s.render := rfl
@[simp] theorem setCursor_bridge (ahead : List Defect) (s : State) : (setCursor ahead s).bridge = s.bridge := rfl
@[simp] theorem setCursor_out (ahead : List Defect) (s : State) : (setCursor ahead s).out = s.out := rfl
@[simp] theorem setCursor_port (ahead : List Defect) (s : State) : (setCursor ahead s).port = s.port := rfl
@[simp] theorem setCursor_tables (ahead : List Defect) (s : State) : (setCursor ahead s).tables = s.tables := rfl
@[simp] theorem setCursor_params (ahead : List Defect) (s : State) : (setCursor ahead s).params = s.params := rfl
@[simp] theorem setCursor_settings (ahead : List Defect) (s : State) : (setCursor ahead s).settings = s.settings := rfl
@[simp] theorem setCursor_now (ahead : List Defect) (s : State) : (setCursor ahead s).now = s.now := rfl
@[simp] theorem setCursor_freeSeq (ahead : List Defect) (s : State) : (setCursor ahead s).freeSeq = s.freeSeq := rfl
@[simp] theorem setCursor_pending (ahead : List Defect) (s : State) : (setCursor ahead s).pending = s.pending := rfl

/-! ### sendRun -/

@[simp] theorem sendRun_seq (run : BusRun) (s : State) : (sendRun run s).seq = s.seq := rfl
@[simp] theorem sendRun_log (run : BusRun) (s : State) : (sendRun run s).log = s.log := rfl
@[simp] theorem sendRun_lines (run : BusRun) (s : State) : (sendRun run s).lines = s.lines := rfl
@[simp] theorem sendRun_meas (run : BusRun) (s : State) : (sendRun run s).meas = s.meas := rfl
@[simp] theorem sendRun_temps (run : BusRun) (s : State) : (sendRun run s).temps = s.temps := rfl
@[simp] theorem sendRun_heater (run : BusRun) (s : State) : (sendRun run s).heater = s.heater := rfl
@[simp] theorem sendRun_link (run : BusRun) (s : State) : (sendRun run s).link = s.link := rfl
@[simp] theorem sendRun_fifo (run : BusRun) (s : State) : (sendRun run s).fifo = s.fifo := rfl
@[simp] theorem sendRun_cal (run : BusRun) (s : State) : (sendRun run s).cal = s.cal := rfl
@[simp] theorem sendRun_plane (run : BusRun) (s : State) : (sendRun run s).plane = s.plane := rfl
@[simp] theorem sendRun_arb (run : BusRun) (s : State) : (sendRun run s).arb = s.arb := rfl
@[simp] theorem sendRun_trails (run : BusRun) (s : State) : (sendRun run s).trails = s.trails := rfl
@[simp] theorem sendRun_render (run : BusRun) (s : State) : (sendRun run s).render = s.render := rfl
@[simp] theorem sendRun_out (run : BusRun) (s : State) : (sendRun run s).out = s.out := rfl
@[simp] theorem sendRun_port (run : BusRun) (s : State) : (sendRun run s).port = s.port := rfl
@[simp] theorem sendRun_tables (run : BusRun) (s : State) : (sendRun run s).tables = s.tables := rfl
@[simp] theorem sendRun_params (run : BusRun) (s : State) : (sendRun run s).params = s.params := rfl
@[simp] theorem sendRun_settings (run : BusRun) (s : State) : (sendRun run s).settings = s.settings := rfl
@[simp] theorem sendRun_now (run : BusRun) (s : State) : (sendRun run s).now = s.now := rfl
@[simp] theorem sendRun_freeSeq (run : BusRun) (s : State) : (sendRun run s).freeSeq = s.freeSeq := rfl
@[simp] theorem sendRun_pending (run : BusRun) (s : State) : (sendRun run s).pending = s.pending := rfl

/-! ### putOnBus -/

@[simp] theorem putOnBus_seq (t : Transaction) (s : State) : (putOnBus t s).seq = s.seq := rfl
@[simp] theorem putOnBus_log (t : Transaction) (s : State) : (putOnBus t s).log = s.log := rfl
@[simp] theorem putOnBus_lines (t : Transaction) (s : State) : (putOnBus t s).lines = s.lines := rfl
@[simp] theorem putOnBus_meas (t : Transaction) (s : State) : (putOnBus t s).meas = s.meas := rfl
@[simp] theorem putOnBus_temps (t : Transaction) (s : State) : (putOnBus t s).temps = s.temps := rfl
@[simp] theorem putOnBus_heater (t : Transaction) (s : State) : (putOnBus t s).heater = s.heater := rfl
@[simp] theorem putOnBus_link (t : Transaction) (s : State) : (putOnBus t s).link = s.link := rfl
@[simp] theorem putOnBus_fifo (t : Transaction) (s : State) : (putOnBus t s).fifo = s.fifo := rfl
@[simp] theorem putOnBus_cal (t : Transaction) (s : State) : (putOnBus t s).cal = s.cal := rfl
@[simp] theorem putOnBus_plane (t : Transaction) (s : State) : (putOnBus t s).plane = s.plane := rfl
@[simp] theorem putOnBus_arb (t : Transaction) (s : State) : (putOnBus t s).arb = s.arb := rfl
@[simp] theorem putOnBus_trails (t : Transaction) (s : State) : (putOnBus t s).trails = s.trails := rfl
@[simp] theorem putOnBus_render (t : Transaction) (s : State) : (putOnBus t s).render = s.render := rfl
@[simp] theorem putOnBus_out (t : Transaction) (s : State) : (putOnBus t s).out = s.out := rfl
@[simp] theorem putOnBus_port (t : Transaction) (s : State) : (putOnBus t s).port = s.port := rfl
@[simp] theorem putOnBus_tables (t : Transaction) (s : State) : (putOnBus t s).tables = s.tables := rfl
@[simp] theorem putOnBus_params (t : Transaction) (s : State) : (putOnBus t s).params = s.params := rfl
@[simp] theorem putOnBus_settings (t : Transaction) (s : State) : (putOnBus t s).settings = s.settings := rfl
@[simp] theorem putOnBus_now (t : Transaction) (s : State) : (putOnBus t s).now = s.now := rfl
@[simp] theorem putOnBus_freeSeq (t : Transaction) (s : State) : (putOnBus t s).freeSeq = s.freeSeq := rfl
@[simp] theorem putOnBus_pending (t : Transaction) (s : State) : (putOnBus t s).pending = s.pending := rfl

/-! ### endRelay -/

@[simp] theorem endRelay_seq (hit : Relay → Bool) (o : BusOutcome) (data : List Byte) (s : State) :
    (endRelay hit o data s).seq = s.seq := rfl
@[simp] theorem endRelay_log (hit : Relay → Bool) (o : BusOutcome) (data : List Byte) (s : State) :
    (endRelay hit o data s).log = s.log := rfl
@[simp] theorem endRelay_lines (hit : Relay → Bool) (o : BusOutcome) (data : List Byte) (s : State) :
    (endRelay hit o data s).lines = s.lines := rfl
@[simp] theorem endRelay_meas (hit : Relay → Bool) (o : BusOutcome) (data : List Byte) (s : State) :
    (endRelay hit o data s).meas = s.meas := rfl
@[simp] theorem endRelay_temps (hit : Relay → Bool) (o : BusOutcome) (data : List Byte) (s : State) :
    (endRelay hit o data s).temps = s.temps := rfl
@[simp] theorem endRelay_heater (hit : Relay → Bool) (o : BusOutcome) (data : List Byte) (s : State) :
    (endRelay hit o data s).heater = s.heater := rfl
@[simp] theorem endRelay_link (hit : Relay → Bool) (o : BusOutcome) (data : List Byte) (s : State) :
    (endRelay hit o data s).link = s.link := rfl
@[simp] theorem endRelay_fifo (hit : Relay → Bool) (o : BusOutcome) (data : List Byte) (s : State) :
    (endRelay hit o data s).fifo = s.fifo := rfl
@[simp] theorem endRelay_cal (hit : Relay → Bool) (o : BusOutcome) (data : List Byte) (s : State) :
    (endRelay hit o data s).cal = s.cal := rfl
@[simp] theorem endRelay_plane (hit : Relay → Bool) (o : BusOutcome) (data : List Byte) (s : State) :
    (endRelay hit o data s).plane = s.plane := rfl
@[simp] theorem endRelay_arb (hit : Relay → Bool) (o : BusOutcome) (data : List Byte) (s : State) :
    (endRelay hit o data s).arb = s.arb := rfl
@[simp] theorem endRelay_trails (hit : Relay → Bool) (o : BusOutcome) (data : List Byte) (s : State) :
    (endRelay hit o data s).trails = s.trails := rfl
@[simp] theorem endRelay_render (hit : Relay → Bool) (o : BusOutcome) (data : List Byte) (s : State) :
    (endRelay hit o data s).render = s.render := rfl
@[simp] theorem endRelay_out (hit : Relay → Bool) (o : BusOutcome) (data : List Byte) (s : State) :
    (endRelay hit o data s).out = s.out := rfl
@[simp] theorem endRelay_port (hit : Relay → Bool) (o : BusOutcome) (data : List Byte) (s : State) :
    (endRelay hit o data s).port = s.port := rfl
@[simp] theorem endRelay_tables (hit : Relay → Bool) (o : BusOutcome) (data : List Byte) (s : State) :
    (endRelay hit o data s).tables = s.tables := rfl
@[simp] theorem endRelay_params (hit : Relay → Bool) (o : BusOutcome) (data : List Byte) (s : State) :
    (endRelay hit o data s).params = s.params := rfl
@[simp] theorem endRelay_settings (hit : Relay → Bool) (o : BusOutcome) (data : List Byte) (s : State) :
    (endRelay hit o data s).settings = s.settings := rfl
@[simp] theorem endRelay_now (hit : Relay → Bool) (o : BusOutcome) (data : List Byte) (s : State) :
    (endRelay hit o data s).now = s.now := rfl
@[simp] theorem endRelay_freeSeq (hit : Relay → Bool) (o : BusOutcome) (data : List Byte) (s : State) :
    (endRelay hit o data s).freeSeq = s.freeSeq := rfl
@[simp] theorem endRelay_pending (hit : Relay → Bool) (o : BusOutcome) (data : List Byte) (s : State) :
    (endRelay hit o data s).pending = s.pending := rfl

/-! ### failRelays -/

@[simp] theorem failRelays_seq (s : State) : (failRelays s).seq = s.seq := rfl
@[simp] theorem failRelays_log (s : State) : (failRelays s).log = s.log := rfl
@[simp] theorem failRelays_lines (s : State) : (failRelays s).lines = s.lines := rfl
@[simp] theorem failRelays_meas (s : State) : (failRelays s).meas = s.meas := rfl
@[simp] theorem failRelays_temps (s : State) : (failRelays s).temps = s.temps := rfl
@[simp] theorem failRelays_heater (s : State) : (failRelays s).heater = s.heater := rfl
@[simp] theorem failRelays_link (s : State) : (failRelays s).link = s.link := rfl
@[simp] theorem failRelays_fifo (s : State) : (failRelays s).fifo = s.fifo := rfl
@[simp] theorem failRelays_cal (s : State) : (failRelays s).cal = s.cal := rfl
@[simp] theorem failRelays_plane (s : State) : (failRelays s).plane = s.plane := rfl
@[simp] theorem failRelays_arb (s : State) : (failRelays s).arb = s.arb := rfl
@[simp] theorem failRelays_trails (s : State) : (failRelays s).trails = s.trails := rfl
@[simp] theorem failRelays_render (s : State) : (failRelays s).render = s.render := rfl
@[simp] theorem failRelays_out (s : State) : (failRelays s).out = s.out := rfl
@[simp] theorem failRelays_port (s : State) : (failRelays s).port = s.port := rfl
@[simp] theorem failRelays_tables (s : State) : (failRelays s).tables = s.tables := rfl
@[simp] theorem failRelays_params (s : State) : (failRelays s).params = s.params := rfl
@[simp] theorem failRelays_settings (s : State) : (failRelays s).settings = s.settings := rfl
@[simp] theorem failRelays_now (s : State) : (failRelays s).now = s.now := rfl
@[simp] theorem failRelays_freeSeq (s : State) : (failRelays s).freeSeq = s.freeSeq := rfl
@[simp] theorem failRelays_pending (s : State) : (failRelays s).pending = s.pending := rfl
@[simp] theorem sendRun_bus (run : BusRun) (s : State) : (sendRun run s).bridge.bus = run :: s.bridge.bus := rfl
@[simp] theorem sendRun_state (run : BusRun) (s : State) : (sendRun run s).bridge.state = s.bridge.state := rfl
@[simp] theorem sendRun_relays (run : BusRun) (s : State) : (sendRun run s).bridge.relays = s.bridge.relays := rfl
@[simp] theorem putOnBus_state (t : Transaction) (s : State) : (putOnBus t s).bridge.state = .busy := rfl
@[simp] theorem putOnBus_inFlight (t : Transaction) (s : State) : (putOnBus t s).bridge.inFlight
    = some { transaction := t, speed := s.params.bridgeSpeed, actions := busActions t } := rfl

end Sys2Proof.Machine
end

