-- ==== Sys2Proof/Laws/Traffic.lean ====
section
/-! SUPPORT. What the operations of the queues and the lane do to the outgoing traffic, to the rest of the state, and to the
bounds of the queues. -/

namespace Sys2Proof.Machine

/-! ### The end of an event moves packets and lines, and nothing else -/

theorem LineBank.map_map (f g : LineNo → LineState → LineState) (b : LineBank) :
    (b.map f).map g = b.map fun l x => g l (f l x) := rfl

theorem LineBank.map_congr {f g : LineNo → LineState → LineState} (h : ∀ l x, f l x = g l x) (b : LineBank) :
    b.map f = b.map g := by
  simp [LineBank.map, h]

/-- Driving a line changes its level and its minimum-pulse timer alone. -/
theorem driveLine_rest (s : State) (l : LineNo) (x : LineState) :
    { driveLine s l x with driven := false, minTimer := none } = { x with driven := false, minTimer := none } := by
  unfold driveLine
  split
  · split <;> rfl
  · rfl

@[simp] theorem stillPart_driveLines (s : State) : stillPart (driveLines s) = stillPart s := by
  simp only [stillPart, driveLines]
  congr 1
  exact LineBank.map_congr (driveLine_rest s) s.lines

@[simp] theorem queuedTraffic_driveLines (s : State) : queuedTraffic (driveLines s) = queuedTraffic s := rfl

/-- Beginning a packet changes the lane, the forwarded frames and the mark of the render's FRAME_START alone. -/
theorem stillPart_beginPacket (p : LanePacket) (s : State) : stillPart (beginPacket p s) = stillPart s := by
  unfold beginPacket
  split <;> rfl

theorem laneFree_inProgress {s : State} (h : laneFree s = true) : s.out.inProgress = none := by
  simp only [laneFree, Bool.and_eq_true, Option.isNone_iff_eq_none] at h
  exact h.2

theorem laneFree_locked {s : State} (h : laneFree s = true) : s.out.locked = true := by
  simp only [laneFree, Bool.and_eq_true] at h
  exact h.1.1

/-! ### What the sources offer (R163) -/

theorem offerRaw_not_queued {s : State} {q : QueuedPacket} : offerRaw s ≠ some (.queued q) := by
  unfold offerRaw
  split
  · simp
  · split
    · simp
    · split
      · simp
      · split
        · simp
        · split <;> simp

theorem offerRaw_not_render {s : State} {q : RenderPacket} {b : Bool} : offerRaw s ≠ some (.render q b) := by
  unfold offerRaw
  split
  · simp
  · split
    · simp
    · split
      · simp
      · split
        · simp
        · split <;> simp

/-- What is offered is the RAW source's packet, the head of the Outgoing Packet Queue, or the oldest render packet. -/
theorem mem_offers {s : State} {p : LanePacket} :
    p ∈ offers s ↔ offerRaw s = some p ∨ offerQueued s = some p ∨ offerRender s = some p := by
  simp [offers, Option.mem_toList]

/-- A queued packet that is offered is the head of the Outgoing Packet Queue. -/
theorem offers_queued {s : State} {q : QueuedPacket} (h : .queued q ∈ offers s) : s.out.queue.head? = some q := by
  rcases mem_offers.mp h with h | h | h
  · exact absurd h offerRaw_not_queued
  · simpa [offerQueued] using h
  · simp [offerRender] at h

/-- A render packet that is offered is the oldest one handed over. -/
theorem offers_render {s : State} {q : RenderPacket} {b : Bool} (h : .render q b ∈ offers s) :
    s.out.renderQueue.head? = some q := by
  rcases mem_offers.mp h with h | h | h
  · exact absurd h offerRaw_not_render
  · simp [offerQueued] at h
  · simp only [offerRender, Option.map_eq_some_iff, LanePacket.render.injEq] at h
    obtain ⟨_, head, rfl, -⟩ := h
    exact head

/-- The choice of R164 is one of the packets offered. -/
theorem choosePacket_offered {s : State} {p : LanePacket} (h : choosePacket s = some p) : p ∈ offers s := by
  unfold choosePacket at h
  rw [mem_offers]
  split at h
  · exact .inr (.inl h)
  · rcases Option.or_eq_some_iff.mp h with h | ⟨-, h⟩
    · exact .inl h
    · exact .inr ((Option.or_eq_some_iff.mp h).imp_right And.right)

/-- All that running the lane at a boundary can do: nothing, or the beginning of a packet that is offered (R164). -/
theorem runLane_cases (s : State) :
    runLane s = s ∨ ∃ p ∈ offers s, laneFree s = true ∧ runLane s = beginPacket p s := by
  unfold runLane
  split
  · rename_i free
    cases h : choosePacket s with
    | none => exact .inl rfl
    | some p => exact .inr ⟨p, choosePacket_offered h, free, rfl⟩
  · exact .inl rfl

/-- All that an idle lane can do at the end of an event: nothing, or the beginning of a packet that is offered (R165). -/
theorem startFirst_cases (s : State) :
    startFirst s = s ∨ ∃ p ∈ offers s, laneFree s = true ∧ ∃ k, startFirst s = beginPacket p { s with out.choices := k } := by
  unfold startFirst
  split
  · rename_i free
    split
    · exact .inl rfl
    · rename_i p h
      exact .inr ⟨p, by simp [h], free, s.out.choices, rfl⟩
    · rename_i p q more h
      refine .inr ⟨_, ?_, free, _, rfl⟩
      rw [h, List.getD_eq_getElem _ _ (by simpa using Nat.mod_lt _ (Nat.succ_pos _))]
      exact List.getElem_mem _
  · exact .inl rfl

/-- A lane that is not free starts nothing. -/
theorem startFirst_of_not_free {s : State} (h : laneFree s = false) : startFirst s = s := by simp [startFirst, h]

/-- Nothing offered, nothing started. -/
theorem startFirst_of_no_offer {s : State} (h : offers s = []) : startFirst s = s := by simp [startFirst, h]

/-- One packet offered on a free lane starts. -/
theorem startFirst_of_one_offer {s : State} {p : LanePacket} (free : laneFree s = true) (h : offers s = [p]) :
    startFirst s = beginPacket p s := by simp [startFirst, free, h]

/-- Of two packets offered on a free lane the free value picks one (R165; log 40). -/
theorem startFirst_of_two_offers {s : State} {p q : LanePacket} (free : laneFree s = true) (h : offers s = [p, q]) :
    startFirst s = beginPacket (if Config.idleLaneChoice s.out.choices % 2 = 0 then p else q)
      { s with out.choices := s.out.choices + 1 } := by
  have place := Nat.mod_lt (Config.idleLaneChoice s.out.choices) (show 0 < 2 by decide)
  simp only [startFirst, free, h, if_true, List.length_nil, Nat.zero_add]
  split
  · rename_i zero; simp [zero]
  · rename_i other
    have one : Config.idleLaneChoice s.out.choices % 2 = 1 := by omega
    simp [one]

/-- An idle lane is busy behind an event that offers it a packet (R165). -/
theorem startFirst_inProgress {s : State} (free : laneFree s = true) (offered : offers s ≠ []) :
    (startFirst s).out.inProgress ≠ none := by
  have begun : ∀ (p : LanePacket) (u : State), (beginPacket p u).out.inProgress = some p := by
    intro p u
    unfold beginPacket
    split <;> rfl
  unfold startFirst
  rw [if_pos free]
  split
  · contradiction
  · simp [begun]
  · simp [begun]

/-! ### The beginning of a packet that is offered -/

theorem queuedTraffic_beginPacket {p : LanePacket} {s : State} (k : Nat) (offered : p ∈ offers s) (free : laneFree s = true) :
    queuedTraffic (beginPacket p { s with out.choices := k }) = queuedTraffic s := by
  have hnone := laneFree_inProgress free
  cases p with
  | queued q =>
    have hhead := offers_queued offered
    cases hq : s.out.queue with
    | nil => simp [hq] at hhead
    | cons x rest =>
      simp only [hq, List.head?_cons, Option.some.injEq] at hhead
      subst hhead
      simp [beginPacket, queuedTraffic, begunPackets, hq, hnone, LanePacket.queuedPart]
  | render q live => cases q <;> simp [beginPacket, queuedTraffic, begunPackets, hnone, LanePacket.queuedPart]
  | rawStart n i w h => simp [beginPacket, queuedTraffic, begunPackets, hnone, LanePacket.queuedPart, onFrames]
  | rawLine f e r px => simp [beginPacket, queuedTraffic, begunPackets, hnone, LanePacket.queuedPart]
  | rawEnd l t => simp [beginPacket, queuedTraffic, begunPackets, hnone, LanePacket.queuedPart]

theorem renderTraffic_beginPacket {p : LanePacket} {s : State} (k : Nat) (offered : p ∈ offers s) (free : laneFree s = true) :
    renderTraffic (beginPacket p { s with out.choices := k }) = renderTraffic s := by
  have hnone := laneFree_inProgress free
  cases p with
  | queued q => simp [beginPacket, renderTraffic, begunPackets, hnone, LanePacket.renderPart]
  | render q live =>
    have hhead := offers_render offered
    cases hq : s.out.renderQueue with
    | nil => simp [hq] at hhead
    | cons x rest =>
      simp only [hq, List.head?_cons, Option.some.injEq] at hhead
      subst hhead
      cases x <;> simp [beginPacket, renderTraffic, begunPackets, hq, hnone, LanePacket.renderPart]
  | rawStart n i w h => simp [beginPacket, renderTraffic, begunPackets, hnone, LanePacket.renderPart, onFrames]
  | rawLine f e r px => simp [beginPacket, renderTraffic, begunPackets, hnone, LanePacket.renderPart]
  | rawEnd l t => simp [beginPacket, renderTraffic, begunPackets, hnone, LanePacket.renderPart]

theorem port_beginPacket (p : LanePacket) (s : State) : (beginPacket p s).port = s.port := by
  unfold beginPacket
  split <;> rfl

/-! ### The end of an event, at a boundary of the lane and elsewhere -/

@[simp] theorem stillPart_runLane (s : State) : stillPart (runLane s) = stillPart s := by
  rcases runLane_cases s with h | ⟨p, -, -, h⟩ <;> rw [h]
  exact stillPart_beginPacket p s

@[simp] theorem stillPart_startFirst (s : State) : stillPart (startFirst s) = stillPart s := by
  rcases startFirst_cases s with h | ⟨p, -, -, k, h⟩ <;> rw [h]
  exact stillPart_beginPacket p _

/-- Starting a packet does not change what has been queued, nor its order. -/
@[simp] theorem queuedTraffic_runLane (s : State) : queuedTraffic (runLane s) = queuedTraffic s := by
  rcases runLane_cases s with h | ⟨p, offered, free, h⟩ <;> rw [h]
  exact queuedTraffic_beginPacket s.out.choices offered free

@[simp] theorem queuedTraffic_startFirst (s : State) : queuedTraffic (startFirst s) = queuedTraffic s := by
  rcases startFirst_cases s with h | ⟨p, offered, free, k, h⟩ <;> rw [h]
  exact queuedTraffic_beginPacket k offered free

@[simp] theorem renderTraffic_runLane (s : State) : renderTraffic (runLane s) = renderTraffic s := by
  rcases runLane_cases s with h | ⟨p, offered, free, h⟩ <;> rw [h]
  exact renderTraffic_beginPacket s.out.choices offered free

@[simp] theorem renderTraffic_startFirst (s : State) : renderTraffic (startFirst s) = renderTraffic s := by
  rcases startFirst_cases s with h | ⟨p, offered, free, k, h⟩ <;> rw [h]
  exact renderTraffic_beginPacket k offered free

@[simp] theorem renderTraffic_driveLines (s : State) : renderTraffic (driveLines s) = renderTraffic s := rfl

@[simp] theorem renderTraffic_endEvent (s : State) : renderTraffic (endEvent s) = renderTraffic s := by simp [endEvent]

@[simp] theorem stillPart_endEvent (s : State) : stillPart (endEvent s) = stillPart s := by simp [endEvent]

@[simp] theorem queuedTraffic_endEvent (s : State) : queuedTraffic (endEvent s) = queuedTraffic s := by simp [endEvent]

@[simp] theorem renderTraffic_endBoundary (s : State) : renderTraffic (endBoundary s) = renderTraffic s := by simp [endBoundary]

@[simp] theorem stillPart_endBoundary (s : State) : stillPart (endBoundary s) = stillPart s := by simp [endBoundary]

@[simp] theorem queuedTraffic_endBoundary (s : State) : queuedTraffic (endBoundary s) = queuedTraffic s := by simp [endBoundary]

theorem port_runLane (s : State) : (runLane s).port = s.port := by
  rcases runLane_cases s with h | ⟨p, -, -, h⟩ <;> rw [h]
  exact port_beginPacket p s

theorem port_startFirst (s : State) : (startFirst s).port = s.port := by
  rcases startFirst_cases s with h | ⟨p, -, -, k, h⟩ <;> rw [h]
  exact port_beginPacket p _

@[simp] theorem port_endEvent (s : State) : (endEvent s).port = s.port := port_startFirst s

@[simp] theorem port_endBoundary (s : State) : (endBoundary s).port = s.port := port_runLane s

/-- Two states with the same still part agree in the fields that the end of an event never changes. -/
theorem fields_of_stillPart {s t : State} (h : stillPart t = stillPart s) :
    t.seq = s.seq ∧ t.log = s.log ∧ t.meas = s.meas ∧ t.temps = s.temps
      ∧ t.heater = s.heater ∧ t.link = s.link ∧ t.cal = s.cal
      ∧ t.plane = s.plane ∧ t.arb = s.arb ∧ t.trails = s.trails
      ∧ t.bridge = s.bridge ∧ t.tables = s.tables ∧ t.params = s.params
      ∧ t.settings = s.settings ∧ t.now = s.now ∧ t.freeSeq = s.freeSeq
      ∧ t.pending = s.pending ∧ t.fifo.entries = s.fifo.entries
      ∧ t.render.state = s.render.state ∧ t.out.locked = s.out.locked
      ∧ t.out.held = s.out.held := by
  have e := fun {α : Type} (f : State → α) => congrArg f h
  exact ⟨e State.seq, e State.log, e State.meas, e State.temps, e State.heater, e State.link, e State.cal, e State.plane,
    e State.arb, e State.trails, e State.bridge, e State.tables, e State.params, e State.settings, e State.now,
    e State.freeSeq, e State.pending, e (fun t => t.fifo.entries), e (fun t => t.render.state), e (fun t => t.out.locked),
    e (fun t => t.out.held)⟩

/-- The fields that the end of an event never changes. -/
theorem endEvent_fields (s : State) :
    (endEvent s).seq = s.seq ∧ (endEvent s).log = s.log ∧ (endEvent s).meas = s.meas ∧ (endEvent s).temps = s.temps
      ∧ (endEvent s).heater = s.heater ∧ (endEvent s).link = s.link ∧ (endEvent s).cal = s.cal
      ∧ (endEvent s).plane = s.plane ∧ (endEvent s).arb = s.arb ∧ (endEvent s).trails = s.trails
      ∧ (endEvent s).bridge = s.bridge ∧ (endEvent s).tables = s.tables ∧ (endEvent s).params = s.params
      ∧ (endEvent s).settings = s.settings ∧ (endEvent s).now = s.now ∧ (endEvent s).freeSeq = s.freeSeq
      ∧ (endEvent s).pending = s.pending ∧ (endEvent s).fifo.entries = s.fifo.entries
      ∧ (endEvent s).render.state = s.render.state ∧ (endEvent s).out.locked = s.out.locked
      ∧ (endEvent s).out.held = s.out.held := fields_of_stillPart (stillPart_endEvent s)

/-! ### Replies, reports, flow symbols -/

@[simp] theorem stillPart_joinReply (p : QueuedPacket) (s : State) : stillPart (joinReply p s) = stillPart s := by
  unfold joinReply; split <;> rfl

/-- A reply that has its entry joins the traffic as its last packet. -/
theorem queuedTraffic_joinReply {p : QueuedPacket} {s : State} (hl : s.out.locked = true)
    (hr : s.out.queue.length < Config.outQueueCapacity) : queuedTraffic (joinReply p s) = queuedTraffic s ++ [p] := by
  simp [joinReply, outQueueHasRoom, hl, hr, queuedTraffic, begunPackets]

theorem joinReply_queue {p : QueuedPacket} {s : State} (hl : s.out.locked = true)
    (hr : s.out.queue.length < Config.outQueueCapacity) : (joinReply p s).out.queue = s.out.queue ++ [p] := by
  simp [joinReply, outQueueHasRoom, hl, hr]

@[simp] theorem joinReply_port (p : QueuedPacket) (s : State) : (joinReply p s).port = s.port := by
  unfold joinReply; split <;> rfl

@[simp] theorem joinReply_locked (p : QueuedPacket) (s : State) : (joinReply p s).out.locked = s.out.locked := by
  unfold joinReply; split <;> rfl

/-- A reply touches the Outgoing Packet Queue and nothing else. -/
theorem joinReply_frame (p : QueuedPacket) (s : State) :
    joinReply p s = { s with out.queue := (joinReply p s).out.queue } := by
  unfold joinReply; split <;> rfl

theorem joinReply_bound {p : QueuedPacket} {s : State} (h : s.out.queue.length ≤ Config.outQueueCapacity) :
    (joinReply p s).out.queue.length ≤ Config.outQueueCapacity := by
  unfold joinReply
  split
  · rename_i hc
    simp only [outQueueHasRoom, Bool.and_eq_true, decide_eq_true_eq] at hc
    simpa using hc.2
  · exact h

/-- A report touches the Outgoing Packet Queue and the lost-reports flag, and nothing else. -/
theorem formReport_frame (k : ReportKind) (p : List Byte) (s : State) :
    formReport k p s = { s with out.queue := (formReport k p s).out.queue,
                                port.lostReports := (formReport k p s).port.lostReports } := by
  unfold formReport; split <;> rfl

/-- A report with room joins the traffic, carrying and clearing the lost-reports flag (R166, R189). -/
theorem formReport_queued {k : ReportKind} {p : List Byte} {s : State} (hl : s.out.locked = true)
    (hr : s.out.queue.length < Config.outQueueCapacity) :
    formReport k p s = { s with out.queue := s.out.queue ++ [.report k s.port.lostReports p], port.lostReports := false } := by
  simp [formReport, outQueueHasRoom, hl, hr]

/-- A report with no room, or while Link Out is unlocked, is discarded and sets the lost-reports flag (R166, R171). -/
theorem formReport_discarded {k : ReportKind} {p : List Byte} {s : State}
    (h : s.out.locked = false ∨ Config.outQueueCapacity ≤ s.out.queue.length) :
    formReport k p s = { s with port.lostReports := true } := by
  unfold formReport outQueueHasRoom
  rcases h with h | h
  · simp [h]
  · simp [Nat.not_lt.2 h]

theorem formReport_bound {k : ReportKind} {p : List Byte} {s : State} (h : s.out.queue.length ≤ Config.outQueueCapacity) :
    (formReport k p s).out.queue.length ≤ Config.outQueueCapacity := by
  unfold formReport
  split
  · rename_i hc
    simp only [outQueueHasRoom, Bool.and_eq_true, decide_eq_true_eq] at hc
    simpa using hc.2
  · exact h

theorem queueReport_frame (k : ReportKind) (p : List Byte) (s : State) :
    queueReport k p s = { s with out.queue := (queueReport k p s).out.queue,
                                 port.lostReports := (queueReport k p s).port.lostReports } := by
  unfold queueReport
  split
  · exact formReport_frame k p s
  · rfl

theorem queueReport_bound {k : ReportKind} {p : List Byte} {s : State} (h : s.out.queue.length ≤ Config.outQueueCapacity) :
    (queueReport k p s).out.queue.length ≤ Config.outQueueCapacity := by
  unfold queueReport
  split
  · exact formReport_bound h
  · exact h

@[simp] theorem stillPart_handFlow (f : FlowSymbol) (s : State) : stillPart (handFlow f s) = stillPart s := by
  unfold handFlow
  split
  · split <;> rfl
  · rfl

@[simp] theorem queuedTraffic_handFlow (f : FlowSymbol) (s : State) : queuedTraffic (handFlow f s) = queuedTraffic s := by
  unfold handFlow
  split
  · split <;> simp [queuedTraffic, begunPackets, LaneItem.packet]
  · rfl

/-- A flow symbol touches what waits or has left on the lane, and nothing else. -/
theorem handFlow_frame (f : FlowSymbol) (s : State) :
    handFlow f s = { s with out.sent := (handFlow f s).out.sent, out.flowWaiting := (handFlow f s).out.flowWaiting } := by
  unfold handFlow
  split
  · split <;> rfl
  · rfl

/-! ### How an event ends -/

theorem Ends.refl (u : State) : Ends u u := ⟨rfl, rfl, rfl⟩

theorem Ends.trans {u v t : State} (h : Ends u v) (h' : Ends v t) : Ends u t :=
  ⟨h'.still.trans h.still, h'.queued.trans h.queued, h'.render.trans h.render⟩

/-- The end of an event starts a packet and drives lines, and nothing else. -/
theorem ends_endEvent (u : State) : Ends u (endEvent u) :=
  ⟨stillPart_endEvent u, queuedTraffic_endEvent u, renderTraffic_endEvent u⟩

/-- At a boundary too. -/
theorem ends_endBoundary (u : State) : Ends u (endBoundary u) :=
  ⟨stillPart_endBoundary u, queuedTraffic_endBoundary u, renderTraffic_endBoundary u⟩

theorem Ends.endEvent {u v : State} (h : Ends u v) : Ends u (endEvent v) := h.trans (ends_endEvent v)

theorem Ends.endBoundary {u v : State} (h : Ends u v) : Ends u (endBoundary v) := h.trans (ends_endBoundary v)

/-- Two states that differ in the HOLD_REQ flag and in flow symbols alone. -/
structure FlowApart (u v : State) : Prop where
  rest : { v with port.holdReqSent := u.port.holdReqSent, out.sent := u.out.sent, out.flowWaiting := u.out.flowWaiting } = u
  begun : begunPackets v = begunPackets u

theorem FlowApart.ends {u v : State} (h : FlowApart u v) : Ends u v := by
  obtain ⟨hr, hb⟩ := h
  refine ⟨?_, ?_, ?_⟩
  · rw [← hr]; rfl
  · have hq : v.out.queue = u.out.queue := by rw [← hr]
    simp [queuedTraffic, hb, hq]
  · have hq : v.out.renderQueue = u.out.renderQueue := by rw [← hr]
    simp [renderTraffic, hb, hq]

/-! ### Taking -/

theorem handFlow_port (f : FlowSymbol) (s : State) : (handFlow f s).port = s.port := by rw [handFlow_frame]

theorem handFlow_queue (f : FlowSymbol) (s : State) : (handFlow f s).out.queue = s.out.queue := by rw [handFlow_frame]

theorem handFlow_locked (f : FlowSymbol) (s : State) : (handFlow f s).out.locked = s.out.locked := by rw [handFlow_frame]

theorem begunPackets_handFlow (f : FlowSymbol) (s : State) : begunPackets (handFlow f s) = begunPackets s := by
  unfold handFlow
  split
  · split <;> simp [begunPackets, LaneItem.packet]
  · rfl

theorem handFlow_apart (f : FlowSymbol) (s : State) : FlowApart s (handFlow f s) :=
  ⟨by rw [handFlow_frame], begunPackets_handFlow f s⟩

/-- A request leaves the queue; the HOLD_REQ flag and the flow symbols are all that may change beside. -/
theorem removeRequest_apart (s : State) : FlowApart { s with port.requests := s.port.requests.tail } (removeRequest s) := by
  unfold removeRequest markGo
  split
  · exact ⟨by rw [handFlow_frame], begunPackets_handFlow _ _⟩
  · exact ⟨rfl, rfl⟩

/-- The state that a taking leaves, by the HOLD_REQ flag and the flow symbols it leaves. -/
def tookRequest (flag : Bool) (sent : List LaneItem) (flow : Option FlowSymbol) (s : State) : State :=
  { s with port.requests := s.port.requests.tail, port.holdReqSent := flag, out.sent := sent, out.flowWaiting := flow }

/-- A taking leaves a state of that form, and no packet begun by it. -/
theorem removeRequest_form (s : State) : ∃ flag sent flow, removeRequest s = tookRequest flag sent flow s
    ∧ sent.reverse.filterMap LaneItem.packet = s.out.sent.reverse.filterMap LaneItem.packet := by
  unfold removeRequest markGo handFlow
  split
  · split
    · split
      · exact ⟨_, _, _, rfl, by simp [LaneItem.packet]⟩
      · exact ⟨_, _, _, rfl, rfl⟩
    · exact ⟨_, _, _, rfl, rfl⟩
  · exact ⟨_, _, _, rfl, rfl⟩

@[simp] theorem removeRequest_requests (s : State) : (removeRequest s).port.requests = s.port.requests.tail := by
  unfold removeRequest markGo
  split
  · rw [handFlow_port]
  · rfl

@[simp] theorem removeRequest_waiting (s : State) : (removeRequest s).port.waiting = s.port.waiting := by
  unfold removeRequest markGo
  split
  · rw [handFlow_port]
  · rfl

@[simp] theorem removeRequest_lost (s : State) : (removeRequest s).port.lostReports = s.port.lostReports := by
  unfold removeRequest markGo
  split
  · rw [handFlow_port]
  · rfl

@[simp] theorem removeRequest_queue (s : State) : (removeRequest s).out.queue = s.out.queue := by
  unfold removeRequest markGo
  split
  · rw [handFlow_queue]
  · rfl

@[simp] theorem removeRequest_locked (s : State) : (removeRequest s).out.locked = s.out.locked := by
  unfold removeRequest markGo
  split
  · rw [handFlow_locked]
  · rfl

/-- Taking a request touches the port and the flow symbols, and nothing else. -/
theorem removeRequest_frame (s : State) :
    removeRequest s = { s with port := (removeRequest s).port, out := (removeRequest s).out } := by
  unfold removeRequest markGo
  split
  · rw [handFlow_frame]
  · rfl

/-- A request that can be taken is taken: the meaning of its kind is carried out on the state it leaves. -/
theorem takeRequest_of_canTake {s : State} {n : Nat} {r : Request} (h : CanTake s n r)
    (carry : Request → State → State) :
    takeRequest (isKind n) carry s = .next (endEvent (carry r (removeRequest s))) := by
  obtain ⟨hh, hk, hu, hr, -⟩ := h
  unfold takeRequest
  cases hq : s.port.requests with
  | nil => simp [hq] at hh
  | cons x rest =>
    simp only [hq, List.head?_cons, Option.some.injEq] at hh
    subst hh
    simp [isKind, hk, mayTake, hu, outQueueHasRoom, hr]

/-- The same with the taken state's form named. -/
theorem takeRequest_form {s : State} {n : Nat} {r : Request} (h : CanTake s n r) (carry : Request → State → State) :
    ∃ flag sent flow, sent.reverse.filterMap LaneItem.packet = s.out.sent.reverse.filterMap LaneItem.packet
      ∧ takeRequest (isKind n) carry s = .next (endEvent (carry r (tookRequest flag sent flow s))) := by
  obtain ⟨flag, sent, flow, he, hs⟩ := removeRequest_form s
  exact ⟨flag, sent, flow, hs, by rw [takeRequest_of_canTake h, he]⟩

/-- Whatever is asked of it, a step that takes requests answers a next state. -/
theorem takeRequest_next (isK : Byte → Bool) (carry : Request → State → State) (s : State) :
    ∃ t, takeRequest isK carry s = .next t := by
  unfold takeRequest
  split
  · exact ⟨_, rfl⟩
  · split <;> exact ⟨_, rfl⟩

/-- A reply with room for it is a record update. -/
theorem answer_queued {s : State} (hl : s.out.locked = true) (hr : s.out.queue.length < Config.outQueueCapacity)
    (r : Request) (st : Status) (p : List Byte) :
    answer r st p s = { s with out.queue := s.out.queue ++ [r.reply st p] } := by
  simp [answer, queueReply, joinReply, outQueueHasRoom, hl, hr, Request.reply]

/-- The reply of a request just taken, as a record update. -/
theorem answer_took {s : State} {n : Nat} {r : Request} (h : CanTake s n r) (flag : Bool) (sent : List LaneItem)
    (flow : Option FlowSymbol) (st : Status) (p : List Byte) :
    answer r st p (tookRequest flag sent flow s)
      = { tookRequest flag sent flow s with out.queue := s.out.queue ++ [r.reply st p] } :=
  answer_queued (s := tookRequest flag sent flow s) h.locked h.room r st p

/-- A taken request whose whole effect is its reply. -/
theorem answer_ends {s : State} {n : Nat} {r : Request} (h : CanTake s n r) (st : Status) (p : List Byte) :
    Ends (replied r st p s) (endEvent (answer r st p (removeRequest s))) := by
  obtain ⟨flag, sent, flow, he, hs⟩ := removeRequest_form s
  rw [he, answer_took h]
  refine Ends.endEvent ⟨rfl, ?_, ?_⟩
  · simp [queuedTraffic, begunPackets, hs, replied, tookRequest]
  · simp [renderTraffic, begunPackets, hs, replied, tookRequest]

end Sys2Proof.Machine
end

