-- ==== Sys2Proof/Laws/Frames.lean ====
section
/-! SUPPORT. What the shared operations of the bus, the phases, the Plane Arbiter and the Render Unit leave alone. Each mask sets
aside what a group of operations may change; an operation of the group leaves the masked state as it is, and its other fields are
read off with congrArg. -/

namespace Sys2Proof.Machine

/-! ### The bus: bridge, script run, reports, free values -/

def busRest (s : State) : State :=
  { s with bridge := SensorBridge.reset, seq.scriptLeft := [], out.queue := [], port.lostReports := false, freeSeq := 0 }

@[simp] theorem busRest_queueReport (k : ReportKind) (p : List Byte) (s : State) : busRest (queueReport k p s) = busRest s := by
  rw [queueReport_frame]; rfl

@[simp] theorem busRest_reportScript (step index outcome byteIndex : Nat) (s : State) :
    busRest (reportScript step index outcome byteIndex s) = busRest s := busRest_queueReport _ _ s

@[simp] theorem busRest_reportScriptEnd (step index : Nat) (o : BusOutcome) (s : State) :
    busRest (reportScriptEnd step index o s) = busRest s := by
  unfold reportScriptEnd; split <;> simp

@[simp] theorem busRest_reportClaimEnd (t : Transaction) (o : BusOutcome) (s : State) :
    busRest (reportClaimEnd t o s) = busRest s := by
  unfold reportClaimEnd; split <;> simp

theorem busRest_handScripts (indices : List Nat) : ∀ s : State, busRest (handScripts indices s) = busRest s := by
  induction indices with
  | nil => intro s; rfl
  | cons index rest ih =>
    intro s
    unfold handScripts
    split
    · simp [ih]
    · split
      · simp [ih]
      · split
        · simp [ih]
        · rfl

@[simp] theorem busRest_endRelay (hit : Relay → Bool) (o : BusOutcome) (data : List Byte) (s : State) :
    busRest (endRelay hit o data s) = busRest s := rfl

@[simp] theorem busRest_endBusRelay (o : BusOutcome) (data : List Byte) (s : State) : busRest (endBusRelay o data s) = busRest s :=
  rfl

@[simp] theorem busRest_failRelays (s : State) : busRest (failRelays s) = busRest s := rfl

@[simp] theorem busRest_sendRun (run : BusRun) (s : State) : busRest (sendRun run s) = busRest s := rfl

@[simp] theorem busRest_putOnBus (t : Transaction) (s : State) : busRest (putOnBus t s) = busRest s := rfl

@[simp] theorem busRest_failWaiting (s : State) : busRest (failWaiting s) = busRest s := by
  unfold failWaiting
  simp only [busRest_handScripts, busRest_failRelays]
  split
  · rw [busRest_reportClaimEnd]; rfl
  · rfl

@[simp] theorem busRest_enterFault (t : Transaction) (s : State) : busRest (enterFault t s) = busRest s := by
  unfold enterFault
  rw [busRest_failWaiting, busRest_queueReport, busRest_reportClaimEnd]
  rfl

@[simp] theorem busRest_startTransaction (t : Transaction) (s : State) : busRest (startTransaction t s) = busRest s := by
  unfold startTransaction
  split
  · rfl
  · rfl
  · rw [busRest_enterFault]; rfl

@[simp] theorem busRest_markOnBus (s : State) : busRest (markOnBus s) = busRest s := rfl

theorem busRest_selectClaim (fuel : Nat) : ∀ s : State, busRest (selectClaim fuel s) = busRest s := by
  induction fuel with
  | zero => intro s; rfl
  | succ fuel ih =>
    intro s
    unfold selectClaim
    split
    · rfl
    split
    · simp only
      split
      · rw [busRest_startTransaction]; rfl
      · rw [ih]; rfl
    split
    · rfl
    split
    · simp only
      split
      · rw [busRest_startTransaction]; rfl
      · rw [ih, busRest_handScripts, busRest_reportClaimEnd]; rfl
    · split
      · rfl
      · split
        · simp
        · rw [ih]; rfl

/-- Arbitration touches the bridge, the script run, reports and free values, and nothing else (R150, R151, R153). -/
@[simp] theorem busRest_arbitrate (s : State) : busRest (arbitrate s) = busRest s := 
  busRest_selectClaim _ s

/-! ### The phases: the bus, the Sequencer, the open record, the Measurement Timer, the levels driven on the lines -/

def phaseRest (s : State) : State :=
  { busRest s with
    seq := Sequencer.reset, log.openRecord := none, meas := MeasurementTimer.reset,
    lines := s.lines.map fun _ x => { x with driven := false, minTimer := none } }

theorem phaseRest_of_busRest {s t : State} (h : busRest t = busRest s) : phaseRest t = phaseRest s := by
  have kept : (busRest t).lines = (busRest s).lines := by rw [h]
  have lines : t.lines = s.lines := kept
  unfold phaseRest; rw [h, lines]

/-- Driving the lines moves only the levels driven and their minimum-pulse timers (R28, R29). -/
@[simp] theorem phaseRest_driveLines (s : State) : phaseRest (driveLines s) = phaseRest s := by
  simp only [phaseRest, busRest, driveLines]
  congr 1
  exact LineBank.map_congr (driveLine_rest s) s.lines

@[simp] theorem phaseRest_queueReport (k : ReportKind) (p : List Byte) (s : State) :
    phaseRest (queueReport k p s) = phaseRest s := phaseRest_of_busRest (busRest_queueReport k p s)

@[simp] theorem phaseRest_arbitrate (s : State) : phaseRest (arbitrate s) = phaseRest s :=
  phaseRest_of_busRest (busRest_arbitrate s)

@[simp] theorem phaseRest_claimPoll (s : State) : phaseRest (claimPoll s) = phaseRest s := by
  unfold claimPoll
  simp only
  split
  · rfl
  · split
    · rfl
    · rw [phaseRest_arbitrate]; rfl

@[simp] theorem phaseRest_schedulePoll (exposure : Nat) (s : State) : phaseRest (schedulePoll exposure s) = phaseRest s := by
  unfold schedulePoll
  split
  · rfl
  · split
    · simp
    · rfl

/-- Entry to EXPOSE (R9, R24, R37, R159). -/
@[simp] theorem phaseRest_enterExpose (s : State) : phaseRest (enterExpose s) = phaseRest s := by
  unfold enterExpose
  split
  · rfl
  · rw [phaseRest_schedulePoll]; rfl

@[simp] theorem phaseRest_enterWait (s : State) : phaseRest (enterWait s) = phaseRest s := by
  unfold enterWait
  split
  · rfl
  · split
    · rfl
    · split
      · rw [phaseRest_enterExpose]; rfl
      · rfl

@[simp] theorem phaseRest_tryEndStepStart (s : State) : phaseRest (tryEndStepStart s) = phaseRest s := by
  unfold tryEndStepStart; split <;> simp

/-- Entry to STEP_START (R7). -/
@[simp] theorem phaseRest_enterStepStart (settles : Bool) (s : State) : phaseRest (enterStepStart settles s) = phaseRest s := by
  unfold enterStepStart
  split
  · rfl
  · rw [phaseRest_tryEndStepStart, phaseRest_arbitrate, phaseRest_of_busRest (busRest_handScripts _ _)]; rfl

@[simp] theorem phaseRest_enterTake (t : TakeState) (p : Phase) (s : State) : phaseRest (enterTake t p s) = phaseRest s := by
  unfold enterTake reportTakeState
  rw [phaseRest_driveLines, phaseRest_queueReport]; rfl

@[simp] theorem phaseRest_cancelWork (s : State) : phaseRest (cancelWork s) = phaseRest s := rfl

@[simp] theorem phaseRest_enterComplete (s : State) : phaseRest (enterComplete s) = phaseRest s := by
  unfold enterComplete; rw [phaseRest_enterTake]; rfl

@[simp] theorem phaseRest_pauseTake (s : State) : phaseRest (pauseTake s) = phaseRest s := by
  unfold pauseTake
  split
  · split
    · rw [phaseRest_enterTake]; rfl
    · rw [phaseRest_enterTake, phaseRest_cancelWork]
    · rfl
  · rfl

@[simp] theorem phaseRest_stopTake (s : State) : phaseRest (stopTake s) = phaseRest s := by
  unfold stopTake
  split
  · split
    · simp
    · rfl
  · simp
  · rfl

@[simp] theorem phaseRest_resumeTake (s : State) : phaseRest (resumeTake s) = phaseRest s := by
  unfold resumeTake; split <;> simp

/-! ### The plane and the render: the phases, the arbiter, the Render Unit, the readout, the detector's opening, the lane -/

def workRest (s : State) : State :=
  { phaseRest s with
    render := RenderUnit.reset, arb := Arbiter.reset, link := LinkReceiver.reset, fifo := LineFifo.reset,
    trails := { s.trails with current.index := none, counter := 1 }, cal.cursor := 0, out := OutputScheduler.reset }

theorem workRest_of_phaseRest {s t : State} (h : phaseRest t = phaseRest s) : workRest t = workRest s := by
  have kept : (phaseRest t).trails = (phaseRest s).trails := by rw [h]
  have trails : t.trails = s.trails := kept
  unfold workRest
  rw [h, trails]

@[simp] theorem workRest_driveLines (s : State) : workRest (driveLines s) = workRest s :=
  workRest_of_phaseRest (phaseRest_driveLines s)

@[simp] theorem workRest_queueReport (k : ReportKind) (p : List Byte) (s : State) : workRest (queueReport k p s) = workRest s :=
  workRest_of_phaseRest (phaseRest_queueReport k p s)

@[simp] theorem workRest_enterTake (t : TakeState) (p : Phase) (s : State) : workRest (enterTake t p s) = workRest s :=
  workRest_of_phaseRest (phaseRest_enterTake t p s)

@[simp] theorem workRest_enterComplete (s : State) : workRest (enterComplete s) = workRest s :=
  workRest_of_phaseRest (phaseRest_enterComplete s)

@[simp] theorem workRest_arbitrate (s : State) : workRest (arbitrate s) = workRest s :=
  workRest_of_phaseRest (phaseRest_arbitrate s)

@[simp] theorem workRest_onRecord (f : SubframeRecord → SubframeRecord) (s : State) : workRest (onRecord f s) = workRest s := rfl

@[simp] theorem workRest_openDetector (s : State) : workRest (openDetector s) = workRest s := by
  unfold openDetector; split <;> rfl

@[simp] theorem workRest_releaseExposure (s : State) : workRest (releaseExposure s) = workRest s := by
  have held : workRest (endHold s) = workRest s := by
    unfold endHold; split <;> rfl
  exact held

@[simp] theorem workRest_decideExposure (lineTime : Nat) (s : State) : workRest (decideExposure lineTime s) = workRest s := by
  unfold decideExposure
  simp only
  split <;> rfl

/-- A grant to ingest (R10, R12, R54, R69, R107, R114). -/
@[simp] theorem workRest_grantIngest (s : State) : workRest (grantIngest s) = workRest s := by
  unfold grantIngest
  rw [workRest_openDetector]
  exact workRest_releaseExposure s

@[simp] theorem workRest_grantRender (s : State) : workRest (grantRender s) = workRest s := rfl

@[simp] theorem workRest_releasePlane (s : State) : workRest (releasePlane s) = workRest s := by
  unfold releasePlane; split <;> (simp; try rfl)

@[simp] theorem workRest_takeRender (k : RenderKind) (s : State) : workRest (takeRender k s) = workRest s := by
  unfold takeRender; simp only; split <;> rfl

@[simp] theorem workRest_requestFinal (s : State) : workRest (requestFinal s) = workRest s := by
  unfold requestFinal reportAbandoned
  split
  · simp
  · rw [workRest_enterTake, workRest_queueReport]; rfl

@[simp] theorem workRest_handHeldFinal (s : State) : workRest (handHeldFinal s) = workRest s := by
  unfold handHeldFinal
  split
  · rw [workRest_requestFinal]; rfl
  · rfl

@[simp] theorem workRest_afterAbandonment (final : Bool) (r : AbandonReason) (s : State) :
    workRest (afterAbandonment final r s) = workRest s := by
  unfold afterAbandonment
  rw [workRest_handHeldFinal]
  split <;> simp

/-- An abandonment touches the render, the plane's holder, reports and what a grant brings, and no record, table or count
(R142 to R145). -/
@[simp] theorem workRest_abandonRender (r : AbandonReason) (s : State) : workRest (abandonRender r s) = workRest s := by
  unfold abandonRender reportAbandoned
  split
  · rfl
  · rw [workRest_afterAbandonment, workRest_queueReport]; rfl
  · rw [workRest_afterAbandonment, workRest_releasePlane, workRest_queueReport]; rfl

@[simp] theorem workRest_completeRender (s : State) : workRest (completeRender s) = workRest s := by
  have released : workRest (releasePlane { queueReport .renderDone
      (byteOf s.render.kind.code :: bytes2 s.render.frameId ++ bytes2 s.render.lights ++ bytes4 s.render.holes
        ++ bytes4 s.render.fullScale)
      { s with out.renderQueue := s.out.renderQueue ++ [.frameEnd s.render.kind s.settings.height false] } with
      render.state := .idle }) = workRest s := by
    rw [workRest_releasePlane]
    exact workRest_queueReport _ _ _
  unfold completeRender
  rw [workRest_handHeldFinal]
  split
  · rw [workRest_enterTake]; exact released
  · exact released

@[simp] theorem workRest_enterFinishing (s : State) : workRest (enterFinishing s) = workRest s := by
  unfold enterFinishing
  simp only
  split
  · simp
  · exact workRest_enterTake _ _ s

@[simp] theorem workRest_enterAborted (s : State) : workRest (enterAborted s) = workRest s := by
  unfold enterAborted
  rw [workRest_enterTake]
  exact workRest_abandonRender .abort _

/-- The end of a frame touches the Link Receiver and the forwarded frames alone (R51, R55, R61). -/
@[simp] theorem workRest_endFrame (s : State) : workRest (endFrame s) = workRest s := by
  have closed : workRest (closeForwarded s) = workRest s := by unfold closeForwarded; split <;> rfl
  exact closed

/-- The end of a readout (R12, R38, R55). -/
@[simp] theorem workRest_endReadout (s : State) : workRest (endReadout s) = workRest s := by
  have decided : ∀ (armed : Bool) (u : State),
      workRest (if armed then decideExposure s.seq.lineTime u else u) = workRest u := by
    intro armed u
    cases armed
    · rfl
    · exact workRest_decideExposure _ u
  unfold endReadout
  rw [workRest_arbitrate]
  exact (decided _ _).trans (workRest_endFrame s)

@[simp] theorem workRest_cutExposure (s : State) : workRest (cutExposure s) = workRest s := by
  unfold cutExposure
  simp only
  rw [workRest_openDetector]
  exact (workRest_abandonRender .abort _).trans ((workRest_decideExposure _ _).trans (workRest_releaseExposure s))

end Sys2Proof.Machine
end

