-- ==== Sys2Proof/Laws/Operations.lean ====
section
/-! SUPPORT. What single operations can do, said once: the append of an entry, a curve, the plan behind a position, a change of
take state, the actions on the bus, the segments of a row, a trail that takes a segment, the end of a
transaction, a push, a relay's end, a pulse train, and Link In packets as bytes. -/

namespace Sys2Proof.Machine

/-! ### The append of an entry -/

/-- An entry meets a full table, a range, a table's order or conflict, or joins the table behind the newest (R180). -/
theorem appendTo_cases {α : Type} (capacity : Nat) (t : Table α) (entry : Option α) (inRange : α → Bool)
    (against : List α → α → Option Status) :
    (capacity ≤ t.entries.length ∧ appendTo capacity t entry inRange against = .error .tableFull)
    ∨ (t.entries.length < capacity
      ∧ ((entry = none ∧ appendTo capacity t entry inRange against = .error .tableRange)
        ∨ ∃ e, entry = some e
          ∧ ((inRange e = false ∧ appendTo capacity t entry inRange against = .error .tableRange)
            ∨ inRange e = true
              ∧ ((∃ status, against t.entries e = some status ∧ appendTo capacity t entry inRange against = .error status)
                ∨ (against t.entries e = none
                  ∧ appendTo capacity t entry inRange against = .ok { t with entries := t.entries ++ [e] }))))) := by
  unfold appendTo
  by_cases full : capacity ≤ t.entries.length
  · exact .inl ⟨full, by simp [full]⟩
  · refine .inr ⟨by omega, ?_⟩
    cases entry with
    | none => exact .inl ⟨rfl, by simp [full]⟩
    | some e =>
      refine .inr ⟨e, rfl, ?_⟩
      cases range : inRange e with
      | false => exact .inl ⟨rfl, by simp [full, range]⟩
      | true =>
        refine .inr ⟨rfl, ?_⟩
        cases met : against t.entries e with
        | none => exact .inr ⟨rfl, by simp [full, range, met]⟩
        | some status => exact .inl ⟨status, rfl, by simp [full, range, met]⟩

/-- A newest entry that e does not exceed. -/
theorem ordered_refuses {α : Type} {less : α → α → Bool} {held : List α} {e p : α} (newest : held.getLast? = some p)
    (h : less p e = false) : ordered less held e = some .tableOrder := by
  simp [ordered, newest, h]

/-- No newest entry, or one that e exceeds. -/
theorem ordered_passes {α : Type} {less : α → α → Bool} {held : List α} {e : α} (h : ∀ p ∈ held.getLast?, less p e = true) :
    ordered less held e = none := by
  unfold ordered
  cases newest : held.getLast? with
  | none => rfl
  | some p => simp [h p newest]

/-! ### Curves (R43) -/

/-- A rounded share of d stays between 0 and d. -/
theorem roundDiv_share {d k b : Int} (low : 0 ≤ k) (high : k ≤ b) (pos : 0 < b) :
    min 0 d ≤ roundDiv (d * k) b ∧ roundDiv (d * k) b ≤ max 0 d := by
  have share : ∀ e : Int, 0 ≤ e → 0 ≤ (2 * (e * k) + b) / (2 * b) ∧ (2 * (e * k) + b) / (2 * b) ≤ e := by
    intro e nonneg
    have product : 0 ≤ e * k := Int.mul_nonneg nonneg low
    have bound : e * k ≤ e * b := Int.mul_le_mul_of_nonneg_left high nonneg
    have next : (e + 1) * (2 * b) = 2 * (e * b) + 2 * b := by ring
    have below : (2 * (e * k) + b) / (2 * b) < e + 1 := Int.ediv_lt_of_lt_mul (by omega) (by omega)
    exact ⟨Int.ediv_nonneg (by omega) (by omega), by omega⟩
  unfold roundDiv
  by_cases sign : 0 ≤ d
  · rw [if_pos (Int.mul_nonneg sign low)]
    have := share d sign
    omega
  · have := share (-d) (by omega)
    rw [Int.neg_mul] at this
    split
    · have zero : d * k ≤ 0 := Int.mul_nonpos_of_nonpos_of_nonneg (by omega) low
      have none : (2 * (d * k) + b) / (2 * b) = 0 := Int.ediv_eq_zero_of_lt (by omega) (by omega)
      omega
    · omega

/-- A curve whose values lie in a range gives no value outside it. -/
theorem interpolate_mem {lo hi : Int} {points : List CurvePoint} (values : ∀ p ∈ points, lo ≤ p.y ∧ p.y ≤ hi) {x y : Int}
    (h : interpolate points x = some y) : lo ≤ y ∧ y ≤ hi := by
  have beyond : ∀ (rest : List CurvePoint) (p : CurvePoint), (∀ q ∈ p :: rest, lo ≤ q.y ∧ q.y ≤ hi) → p.x ≤ x →
      lo ≤ interpolateFrom x p rest ∧ interpolateFrom x p rest ≤ hi := by
    intro rest
    induction rest with
    | nil => intro p hp _; exact hp p (by simp)
    | cons q rest ih =>
      intro p hp left
      unfold interpolateFrom
      split
      · have := roundDiv_share (d := q.y - p.y) (k := x - p.x) (b := q.x - p.x) (by omega) (by omega) (by omega)
        have first := hp p (by simp)
        have second := hp q (by simp)
        omega
      · exact ih q (fun r hr => hp r (List.mem_cons_of_mem p hr)) (by omega)
  cases points with
  | nil => simp [interpolate] at h
  | cons p rest =>
    simp only [interpolate, Option.some.injEq] at h
    subst h
    split
    · exact values p (by simp)
    · exact beyond rest p values (by omega)

theorem heaterDuty_le {curve : List CurvePoint} (values : ∀ p ∈ curve, 0 ≤ p.y ∧ p.y ≤ 256) (ambient : Option Int) :
    heaterDuty curve ambient ≤ 256 := by
  unfold heaterDuty
  cases duty : ambient.bind (interpolate curve) with
  | none => simp
  | some y =>
    obtain ⟨temperature, _, at_⟩ := Option.bind_eq_some_iff.mp duty
    have := interpolate_mem values at_
    simp only [Option.getD_some]
    omega

/-! ### The plan behind a position (R2, R14) -/

/-- What the plan still asks for at a step is the step's count and what comes behind it. -/
theorem plannedSubframes_drop {steps : List PlanStep} {k : Nat} {st : PlanStep} (here : steps[k]? = some st) :
    plannedSubframes (steps.drop k) = st.count + plannedSubframes (steps.drop (k + 1)) := by
  obtain ⟨inside, rfl⟩ := List.getElem?_eq_some_iff.mp here
  rw [List.drop_eq_getElem_cons inside]
  rfl

/-- The same of its darks. -/
theorem plannedDarks_drop {steps : List PlanStep} {k : Nat} {st : PlanStep} (here : steps[k]? = some st) :
    plannedDarks (steps.drop k) = (if st.kind = .dark then st.count else 0) + plannedDarks (steps.drop (k + 1)) := by
  obtain ⟨inside, rfl⟩ := List.getElem?_eq_some_iff.mp here
  rw [List.drop_eq_getElem_cons inside]
  unfold plannedDarks
  rw [List.filter_cons]
  by_cases kind : steps[k].kind = .dark
  · simp only [kind, decide_true, if_true]; rfl
  · simp only [kind, decide_false, if_false, Nat.zero_add, Bool.false_eq_true]

/-! ### A change of take state -/

/-- A change of take state is an update of the Sequencer, a report, and lines whose levels and timers alone have moved (R1, R16,
R35). -/
theorem enterTake_form (t : TakeState) (p : Phase) (s : State) :
    ∃ lines : LineBank, enterTake t p s = { queueReport .takeState (byteOf t.code :: byteOf p.code :: byteOf s.seq.step
          :: bytes2 (subframeIndex s)) { s with
          seq := { s.seq with
            takeState := t, phase := p, shutter := s.seq.shutter && t.keepsLevels,
            stepLevel := s.seq.stepLevel && t.keepsLevels } } with lines := lines }
      ∧ lines.map (fun _ x => { x with driven := false, minTimer := none })
        = s.lines.map (fun _ x => { x with driven := false, minTimer := none }) := by
  refine ⟨_, rfl, ?_⟩
  have reported : ∀ u : State, (reportTakeState u).lines = u.lines := by
    intro u
    unfold reportTakeState
    rw [queueReport_frame]
  rw [LineBank.map_map, reported]
  exact LineBank.map_congr (driveLine_rest _) s.lines

theorem enterTake_ends (t : TakeState) (p : Phase) (s : State) :
    Ends (queueReport .takeState (byteOf t.code :: byteOf p.code :: byteOf s.seq.step :: bytes2 (subframeIndex s)) { s with
      seq := { s.seq with
        takeState := t, phase := p, shutter := s.seq.shutter && t.keepsLevels,
        stepLevel := s.seq.stepLevel && t.keepsLevels } }) (enterTake t p s) :=
  ⟨stillPart_driveLines _, rfl, rfl⟩

/-! ### The actions on the bus (R147) -/

theorem busActions_eq (t : Transaction) : busActions t = onTheWire t := by
  have acknowledged : ∀ count : Nat, (List.range count).map (fun k => BusAction.take (decide (k + 1 < count)))
      = (List.range count).map (fun k => BusAction.take (decide (k + 1 ≠ count))) := by
    intro count
    refine List.map_congr_left fun k hk => ?_
    rw [decide_eq_decide.mpr]
    have := List.mem_range.mp hk
    omega
  unfold busActions onTheWire numberedBytes
  cases t.reg.wide <;> cases t.access <;> simp [bytes2, acknowledged]

/-! ### Segments (R117) -/

theorem spanOf_single (column : Nat) (region : Region) : spanOf [(column, region)] = Segment.single column region := by
  simp [spanOf, Segment.single]

theorem spanOf_right (group : List (Nat × Region)) (f : Nat × Region) : (spanOf (group ++ [f])).right = f.1 := by simp [spanOf]

/-- A flagged column that joins a group extends its segment. -/
theorem spanOf_append (group : List (Nat × Region)) (f c : Nat × Region) :
    spanOf ((group ++ [f]) ++ [c]) = (spanOf (group ++ [f])).extend c.1 c.2 := by
  cases group <;> simp [spanOf, Segment.extend, Bool.or_assoc, List.getLast?_cons]

theorem splitBy_loop_append {α : Type} (near : α → α → Bool) : ∀ (l : List α) (a : α) (group : List α) (done : List (List α)),
    List.splitBy.loop near l a group done = done.reverse ++ List.splitBy.loop near l a group [] := by
  intro l
  induction l with
  | nil => intro a group done; simp [List.splitBy.loop]
  | cons b l ih =>
    intro a group done
    simp only [List.splitBy.loop]
    split
    · exact ih _ _ _
    · rw [ih, ih b [] [_]]
      simp

theorem segmentsFrom_eq (gapCols : Nat) : ∀ (columns group : List (Nat × Region)) (last : Nat × Region),
    segmentsFrom gapCols (spanOf (group ++ [last])) columns
      = (List.splitBy.loop (fun a b => decide (b.1 ≤ a.1 + gapCols + 1)) columns last group.reverse []).map spanOf := by
  intro columns
  induction columns with
  | nil => intro group last; simp [segmentsFrom, List.splitBy.loop]
  | cons c rest ih =>
    intro group last
    have near : (c.1 - last.1 ≤ gapCols + 1) = (c.1 ≤ last.1 + gapCols + 1) := by
      apply propext; omega
    simp only [segmentsFrom, List.splitBy.loop, spanOf_right, near]
    by_cases h : c.1 ≤ last.1 + gapCols + 1
    · simp only [h, if_true, decide_true]
      rw [← spanOf_append, ih (group ++ [last]) c]
      simp
    · simp only [h, if_false, decide_false]
      rw [← spanOf_single c.1 c.2, splitBy_loop_append _ _ _ _ [_]]
      simpa using ih [] c

/-- The segments of a row are its flagged columns, split where more than gap_cols unflagged ones lie between two of them. -/
theorem formSegments_eq (gapCols : Nat) (columns : List (Nat × Region)) :
    formSegments gapCols columns = (columns.splitBy fun a b => decide (b.1 ≤ a.1 + gapCols + 1)).map spanOf := by
  cases columns with
  | nil => rfl
  | cons c rest =>
    have := segmentsFrom_eq gapCols rest [] c
    simpa [formSegments, ← spanOf_single, List.splitBy] using this

/-! ### Joining and merging (R118 to R120) -/

/-- Matching, in the numbers of the columns. -/
theorem matchesTrail_eq (p : Params) (row : Nat) (g : Segment) (t : OpenTrail) :
    matchesTrail p row g t = decide (row ≤ t.lastRow + 1 + p.gapRows ∧ t.spanLeft ≤ g.right + p.margin
      ∧ g.left ≤ t.spanRight + p.margin) := by
  unfold matchesTrail reaches
  rw [← Bool.decide_and]
  apply decide_eq_decide.mpr
  omega

/-- The merged trail stands in the place of the oldest trail hit, and the others hit are gone. -/
theorem replaceMatches_first {hit : OpenTrail → Bool} {t : OpenTrail} (merged : OpenTrail) (after : List OpenTrail)
    (matched : hit t = true) : ∀ {before : List OpenTrail}, (∀ u ∈ before, hit u = false) →
    replaceMatches hit merged (before ++ t :: after) = before ++ merged :: after.filter fun u => !hit u := by
  intro before
  induction before with
  | nil => intro _; simp [replaceMatches, matched]
  | cons c before ih =>
    intro missed
    simp [replaceMatches, missed c (by simp), ih fun u hu => missed u (by simp [hu])]

/-- The trails hit, folded into a trail of the row: the least and the largest of their columns, the least first row, the counts
added, and the last spans of those fed on this row alone. -/
theorem foldl_foldTrail (row : Nat) : ∀ (hits : List OpenTrail) (acc : OpenTrail), acc.lastRow = row →
    hits.foldl (foldTrail row) acc =
      let fed := hits.filter fun u => decide (u.lastRow = row)
      { firstRow := hits.foldl (fun k u => min k u.firstRow) acc.firstRow, lastRow := row,
        minCol := hits.foldl (fun k u => min k u.minCol) acc.minCol, maxCol := hits.foldl (fun k u => max k u.maxCol) acc.maxCol,
        spanLeft := fed.foldl (fun k u => min k u.spanLeft) acc.spanLeft,
        spanRight := fed.foldl (fun k u => max k u.spanRight) acc.spanRight,
        flagged := acc.flagged + (hits.map OpenTrail.flagged).sum, sky := acc.sky || hits.any OpenTrail.sky,
        ground := acc.ground || hits.any OpenTrail.ground } := by
  intro hits
  induction hits with
  | nil =>
    rintro acc rfl
    simp
  | cons t hits ih =>
    intro acc fresh
    rw [List.foldl_cons, ih _ rfl]
    simp only [foldTrail, List.foldl_cons, List.map_cons, List.sum_cons, List.any_cons, List.filter_cons, Nat.add_assoc,
      Bool.or_assoc]
    by_cases fed : t.lastRow = row <;> simp [fed]

/-! ### The look at the data line (R151) -/

theorem recoveryRun_eq (speed : Nat) : recoveryRun speed = ninePulses speed := rfl

/-! ### What a transaction has put on the bus (R148) -/

/-- The run of a transaction that can end so, cut behind what was refused. -/
theorem endedRun_eq {f : InFlight} {o : BusEnd} (possible : outcomePossible f.transaction o = true) :
    endedRun f o = { speed := f.speed, actions := endOnWire f o } := by
  cases o with
  | done data => rfl
  | nackData index => simp [endedRun, refusedAfter, endOnWire, Nat.add_comm]
  | nackAddress direction =>
    cases direction with
    | write => rfl
    | read =>
      cases access : f.transaction.access with
      | write data => simp [outcomePossible, access] at possible
      | read count =>
        cases wide : f.transaction.reg.wide <;>
          simp [endedRun, refusedAfter, endOnWire, numberedBytes, access, wide, bytes2]

theorem timedOutRun_eq (s : State) (f : InFlight) :
    timedOutRun s.freeSeq f = { speed := f.speed, actions := cutOnWire s f.actions .release } := rfl

/-- A transaction that can end so frees the bus, hands its outcome over, and the next claim is selected. -/
theorem endTransaction_eq {f : InFlight} {o : BusEnd} (possible : outcomePossible f.transaction o = true) (s : State) :
    endTransaction (busOutcomeOf o) (busDataOf o) (endedRun f o) f s
      = arbitrate (endClaimant (busOutcomeOf o) (busDataOf o) f.transaction.claimant (busFreed f (endOnWire f o) s)) := by
  rw [endedRun_eq possible]; rfl

/-! ### A push into the Line FIFO (R58, R60 to R62) -/

/-- The drop level judged, and what is finished freed, behind an entry that has joined. -/
theorem freeEntries_dropForwarding (e : FifoEntry) (s : State) :
    freeEntries (dropForwarding { s with fifo.entries := s.fifo.entries ++ [e], fifo.nextEntry := s.fifo.nextEntry + 1 })
      = pushed e s := by
  by_cases drops : s.params.forwardDropLevel ≤ (s.fifo.entries ++ [e]).length
      ∧ ∃ x ∈ s.fifo.entries ++ [e], x.forward = .pending
  · have met : (decide (s.params.forwardDropLevel ≤ (s.fifo.entries ++ [e]).length)
        && (s.fifo.entries ++ [e]).any fun x => decide (x.forward = .pending)) = true := by
      rw [Bool.and_eq_true, decide_eq_true_iff, List.any_eq_true]
      simpa using drops
    refine (congrArg freeEntries (if_pos met)).trans ?_
    unfold pushed
    simp only [drops, if_true, and_self, true_and]
    cases s.link.forwarding <;> rfl
  · have unmet : (decide (s.params.forwardDropLevel ≤ (s.fifo.entries ++ [e]).length)
        && (s.fifo.entries ++ [e]).any fun x => decide (x.forward = .pending)) = false := by
      rw [← Bool.not_eq_true, Bool.and_eq_true, decide_eq_true_iff, List.any_eq_true]
      simpa using drops
    refine (congrArg freeEntries (if_neg (by rw [unmet]; exact Bool.false_ne_true))).trans ?_
    unfold pushed
    simp only [drops, if_false, false_and]
    cases forwarding : s.link.forwarding <;> simp only [← forwarding] <;> rfl

/-- A push is the entry of the line, joined. -/
theorem pushEntry_eq (row : Nat) (pixels : Option (List Nat)) (cls : LineClass) (s : State) :
    pushEntry row pixels cls s = pushed (lineEntry row pixels cls s) s := by
  rw [← freeEntries_dropForwarding]
  unfold pushEntry lineEntry
  cases pixels <;> cases s.link.forwarding <;> rfl

/-! ### A relay's end (R155, R171) -/

/-- The first relay hit changes, and the others stay. -/
theorem onFirstRelay_eq {hit : Relay → Bool} (f : Relay → Relay) {before after : List Relay} {q : Relay} (ends : hit q = true)
    (passed : ∀ b ∈ before, hit b = false) : onFirstRelay hit f (before ++ q :: after) = before ++ f q :: after := by
  induction before with
  | nil => simp [onFirstRelay, ends]
  | cons b before ih => simp [onFirstRelay, passed b (by simp), ih fun c hc => passed c (by simp [hc])]

theorem onFirstRelay_none {hit : Relay → Bool} (f : Relay → Relay) {l : List Relay} (none : ∀ q ∈ l, hit q = false) :
    onFirstRelay hit f l = l := by
  induction l with
  | nil => rfl
  | cons b l ih => simp [onFirstRelay, none b (by simp), ih fun c hc => none c (by simp [hc])]

/-- The relay that ends waits to queue its reply, or leaves the queue while Link Out is unlocked. -/
theorem endRelay_eq {hit : Relay → Bool} {before after : List Relay} {q : Relay} {s : State} (o : BusOutcome) (data : List Byte)
    (relays : s.bridge.relays = before ++ q :: after) (ends : hit q = true) (passed : ∀ b ∈ before, hit b = false) :
    endRelay hit o data s = { s with
      bridge.relays := if s.out.locked then before ++ { q with state := .replyWaiting o data } :: after else before ++ after } := by
  have erased : (before ++ q :: after).eraseP hit = before ++ after := by
    rw [List.eraseP_append_right _ fun b hb => by simp [passed b hb]]
    simp [ends]
  unfold endRelay
  rw [relays, onFirstRelay_eq _ ends passed, erased]
  rfl

/-! ### Pulse trains (R152) -/

/-- The end of a pulse train: the next one begins, or the line decides and the reply of the request that still stands is due. -/
theorem endTrain_cases (speed : Nat) (high : Bool) (s : State) :
    let sent := { s with bridge.bus := ninePulses speed :: s.bridge.bus }
    (∃ left, s.bridge.trainsWaiting = left + 1
      ∧ endTrain speed high s = { sent with bridge.train := some s.params.bridgeSpeed, bridge.trainsWaiting := left })
    ∨ (s.bridge.trainsWaiting = 0
      ∧ endTrain speed high s
        = answerTrain high { sent with bridge.train := none, bridge.state := if high then .idle else .fault }) := by
  unfold endTrain
  cases waiting : s.bridge.trainsWaiting with
  | zero => exact .inr ⟨rfl, rfl⟩
  | succ left => exact .inl ⟨left, rfl, rfl⟩

/-! ### Link In packets as bytes (R191, R192) -/

theorem halfAt_bytes2 (h : Half) (p : List Byte) : halfAt (bytes2 h.toNat ++ p) 0 = h := by
  have := h.isLt
  simp only [halfAt, read2, read1, bytes2, byteOf]
  apply BitVec.eq_of_toNat_eq
  simp
  omega

/-- Words read back from their bytes. -/
theorem halvesOf_flatMap (words : List Half) : halvesOf (words.flatMap halfBytes) = words := by
  induction words with
  | nil => rfl
  | cons w words ih =>
    have first := halfAt_bytes2 w []
    simp only [List.flatMap_cons, halfBytes, bytes2, List.cons_append, List.nil_append, List.append_nil] at first ⊢
    rw [halvesOf, first]
    exact congrArg _ ih

theorem length_flatMap_halfBytes (words : List Half) : (words.flatMap halfBytes).length = 2 * words.length := by
  induction words with
  | nil => rfl
  | cons w words ih => simp only [List.flatMap_cons, List.length_append, ih, halfBytes, bytes2, List.length_cons, List.length_nil]; omega

end Sys2Proof.Machine
end

