-- ==== Sys2Proof/Laws/Bus.lean ====
section
/-! SUPPORT. The bus: script indices handed over, the entry to FAULT, arbitration, the poll with the entries to EXPOSE and to WAIT, and
the end of a transaction, each said once in the terms of Safety.lean. -/

namespace Sys2Proof.Machine

/-! ### Script entries handed over (R150, R157) -/

/-- A report leaves the tables, the bridge and the plan position as they are, and so whether an index is refused. -/
theorem handOverRefused_queueReport (kind : ReportKind) (payload : List Byte) (s : State) :
    handOverRefused (queueReport kind payload s) = handOverRefused s := by
  rw [queueReport_frame]; rfl

/-- Handing indices over is presenting them, one after another. -/
theorem handScripts_eq (indices : List Nat) : ∀ s : State, handScripts indices s = scriptsPresented indices s := by
  have refused : ∀ (index : Nat) (rest : List Nat) (s : State) (code : Nat), handOverRefused s index = some code →
      scriptsPresented rest (reportScript s.seq.step index code 0 s) = scriptsPresented (index :: rest) s := by
    intro index rest s code h
    have step : (reportScript s.seq.step index code 0 s).seq.step = s.seq.step := by
      unfold reportScript; rw [queueReport_frame]
    have tables : (reportScript s.seq.step index code 0 s).tables = s.tables := by
      unfold reportScript; rw [queueReport_frame]
    have kept : handOverRefused (reportScript s.seq.step index code 0 s) = handOverRefused s := handOverRefused_queueReport ..
    unfold scriptsPresented
    rw [kept, step, tables]
    simp only [List.takeWhile_cons, List.dropWhile_cons, h, Option.isSome_some, if_true, List.foldl_cons, Option.getD_some]
    rfl
  induction indices with
  | nil => intro s; rfl
  | cons index rest ih =>
    intro s
    unfold handScripts
    cases entry : s.tables.bridgeScript.seen[index]? with
    | none => exact (ih _).trans (refused index rest s 6 (by simp [handOverRefused, entry]))
    | some e =>
      by_cases allowed : e.device ∈ s.tables.bridgeAllow.seen
      · by_cases fault : s.bridge.state = .fault
        · simp only [deviceAllowed, List.contains_eq_mem, allowed, decide_true, Bool.not_true, Bool.false_eq_true, if_false, fault, if_true]
          exact (ih _).trans (refused index rest s 4 (by simp [handOverRefused, entry, allowed, fault]))
        · simp [deviceAllowed, allowed, fault, scriptsPresented, handOverRefused, entry, scriptTransaction]
      · simp only [deviceAllowed, List.contains_eq_mem, allowed, decide_false, Bool.not_false, if_true]
        exact (ih _).trans (refused index rest s 5 (by simp [handOverRefused, entry, allowed]))

/-! ### The bus is served (R150, R151, R153) -/

theorem reportClaimEnd_blocked (t : Transaction) (s : State) : reportClaimEnd t .blocked s = claimEnded t 5#8 s := rfl

theorem reportClaimEnd_busStuck (t : Transaction) (s : State) : reportClaimEnd t .busStuck s = claimEnded t 4#8 s := rfl

/-- A report and a change of the bridge do not meet. -/
theorem queueReport_bridge (kind : ReportKind) (payload : List Byte) (s : State) (b : SensorBridge) :
    queueReport kind payload { s with bridge := b } = { queueReport kind payload s with bridge := b } := by
  have formed : formReport kind payload { s with bridge := b } = { formReport kind payload s with bridge := b } := by
    by_cases h : (s.out.locked && outQueueHasRoom s) = true
    · have old : formReport kind payload s = _ := if_pos h
      rw [old]; exact if_pos h
    · have old : formReport kind payload s = _ := if_neg h
      rw [old]; exact if_neg h
  by_cases h : reportEnabled s kind = true
  · have old : queueReport kind payload s = _ := if_pos h
    rw [old, ← formed]; exact if_pos h
  · have old : queueReport kind payload s = _ := if_neg h
    rw [old]; exact if_neg h

theorem claimEnded_bridge (t : Transaction) (code : Byte) (s : State) (b : SensorBridge) :
    claimEnded t code { s with bridge := b } = { claimEnded t code s with bridge := b } := by
  unfold claimEnded
  split
  · exact queueReport_bridge ..
  · rfl

/-- Telling a claimant its outcome changes the Outgoing Packet Queue and the lost-reports flag alone. -/
theorem claimEnded_frame (t : Transaction) (code : Byte) (s : State) :
    claimEnded t code s = { s with out.queue := (claimEnded t code s).out.queue,
                                   port.lostReports := (claimEnded t code s).port.lostReports } := by
  unfold claimEnded
  split
  · exact queueReport_frame ..
  · rfl

/-- Every waiting relay has failed with BUS_STUCK. -/
def failedRelays (s : State) : List Relay :=
  if s.out.locked then s.bridge.relays.map fun q => if q.state = .waiting then { q with state := .replyWaiting .busStuck [] } else q
  else s.bridge.relays.filter fun q => decide (q.state ≠ .waiting)

theorem failRelays_eq (s : State) : failRelays s = { s with bridge.relays := failedRelays s } := by
  have relays : (failRelays s).bridge.relays = failedRelays s := by
    simp [failRelays, failedRelays, Relay.isWaiting, Relay.finish]
  rw [← relays]; rfl

/-- Every claim waiting fails, and the indices behind the script entry fail at their hand-over. -/
theorem failWaiting_eq (s : State) : failWaiting s =
    let told := match s.bridge.waitingScript with
      | some waiting => claimEnded waiting 4#8 s
      | none => s
    scriptsPresented s.seq.scriptLeft { told with
      bridge := { s.bridge with waitingPoll := none, waitingScript := none, relays := failedRelays s } } := by
  unfold failWaiting
  simp only [handScripts_eq, failRelays_eq]
  cases claim : s.bridge.waitingScript with
  | none => rfl
  | some w =>
    simp only [reportClaimEnd_busStuck]
    rw [claimEnded_bridge w 4#8 s { s.bridge with waitingPoll := none, waitingScript := none }]
    rw [claimEnded_frame w 4#8 s]
    rfl

/-- The entry to FAULT behind the recovery. -/
theorem enterFault_eq (t : Transaction) (s : State) :
    enterFault t { recovered s with freeSeq := s.freeSeq + 1 } = faultEntered t s := by
  have code : byteOf t.claimant.code = match t.claimant with
      | .poll _ _ _ => 0#8
      | .script _ _ _ => 1#8
      | .relay => 2#8 := by cases t.claimant <;> rfl
  have told : ∀ (payload : List Byte) (v : State), v.bridge.waitingScript = s.bridge.waitingScript →
      v.bridge.relays = s.bridge.relays → v.out.locked = s.out.locked → v.seq.scriptLeft = s.seq.scriptLeft →
      failWaiting (queueReport .bridgeFault payload (claimEnded t 4#8 v)) =
        let u := queueReport .bridgeFault payload (claimEnded t 4#8 v)
        let failed := match s.bridge.waitingScript with
          | some waiting => claimEnded waiting 4#8 u
          | none => u
        scriptsPresented s.seq.scriptLeft { failed with
          bridge := { failed.bridge with waitingPoll := none, waitingScript := none, relays := failedRelays s } } := by
    intro payload v waits relays locked left
    generalize report : queueReport .bridgeFault payload (claimEnded t 4#8 v) = u
    have form : u = { v with out.queue := u.out.queue, port.lostReports := u.port.lostReports } := by
      rw [← report, queueReport_frame, claimEnded_frame]
    have bridge : u.bridge = v.bridge := by rw [form]
    have failed : failedRelays u = failedRelays s := by rw [form]; simp only [failedRelays, relays, locked]
    have held : u.seq.scriptLeft = s.seq.scriptLeft := by rw [form]; exact left
    rw [failWaiting_eq, failed, held, bridge, waits]
    cases s.bridge.waitingScript with
    | none => simp only [bridge]
    | some w =>
      dsimp only
      rw [claimEnded_frame w 4#8 u]
      simp only [bridge]
  unfold enterFault
  rw [code, reportClaimEnd_busStuck]
  exact told _ _ rfl rfl rfl rfl

/-- A transaction starts, behind a recovery or without one, or the bridge enters FAULT behind the recovery. -/
theorem startTransaction_eq (t : Transaction) (s : State) : startTransaction t s = busGiven t s s := by
  unfold startTransaction busGiven
  rw [← enterFault_eq]
  unfold onBus carriedOut
  cases line : Config.dataLine s.freeSeq
  · simp [putOnBus, busActions_eq]
  · simp [putOnBus, sendRun, recovered, recoveryRun_eq, busActions_eq]
  · rfl

/-- Reports of script entries change the Outgoing Packet Queue and the lost-reports flag alone. -/
theorem foldl_queueReport_frame (kind : ReportKind) (payload : Nat → List Byte) (l : List Nat) : ∀ s : State,
    l.foldl (fun u index => queueReport kind (payload index) u) s = { s with
      out.queue := (l.foldl (fun u index => queueReport kind (payload index) u) s).out.queue,
      port.lostReports := (l.foldl (fun u index => queueReport kind (payload index) u) s).port.lostReports } := by
  induction l with
  | nil => intro s; rfl
  | cons i l ih => intro s; rw [List.foldl_cons, ih, queueReport_frame]

/-- The indices handed over leave none to come and no claim, or a claim with fewer to come than were handed over; the rest of the
bridge stays. -/
theorem scriptsPresented_cases (indices : List Nat) (s : State) :
    (scriptsPresented indices s).bridge.waitingPoll = s.bridge.waitingPoll
    ∧ (scriptsPresented indices s).bridge.relays = s.bridge.relays
    ∧ ((scriptsPresented indices s).bridge.waitingScript = s.bridge.waitingScript ∧ (scriptsPresented indices s).seq.scriptLeft = []
      ∨ (scriptsPresented indices s).seq.scriptLeft.length < indices.length) := by
  unfold scriptsPresented
  dsimp only
  split
  · rw [foldl_queueReport_frame]; exact ⟨rfl, rfl, .inl ⟨rfl, rfl⟩⟩
  · rename_i index after rest
    have shorter := (List.dropWhile_suffix (l := indices) fun index => (handOverRefused s index).isSome).length_le
    rw [rest, List.length_cons] at shorter
    rw [foldl_queueReport_frame]; exact ⟨rfl, rfl, .inr shorter⟩

theorem faultEntered_relays (t : Transaction) (s : State) : (faultEntered t s).bridge.relays = failedRelays s := by
  unfold faultEntered
  exact (scriptsPresented_cases _ _).2.1

/-- A relay given the bus is marked on it; where the line is stuck no relay waits any more, and none is marked. -/
theorem markOnBus_busGiven {t : Transaction} {s : State} {before after : List Relay} {q : Relay}
    (relays : s.bridge.relays = before ++ q :: after) (waits : q.state = .waiting) (oldest : ∀ b ∈ before, b.state ≠ .waiting) :
    markOnBus (busGiven t s s) = busGiven t s { s with bridge.relays := before ++ { q with state := .onBus } :: after } := by
  have first : onFirstRelay Relay.isWaiting (fun q => { q with state := .onBus }) s.bridge.relays
      = before ++ { q with state := .onBus } :: after := by
    rw [relays]
    exact onFirstRelay_eq _ (by simp [Relay.isWaiting, waits]) fun b hb => by simp [Relay.isWaiting, oldest b hb]
  unfold busGiven
  cases line : Config.dataLine s.freeSeq
  · simp [markOnBus, onBus, line, carriedOut, first]
  · simp [markOnBus, onBus, line, recovered, carriedOut, first]
  · have none : ∀ q ∈ failedRelays s, q.isWaiting = false := by
      unfold failedRelays
      intro q hq
      split at hq
      · obtain ⟨r, _, rfl⟩ := List.mem_map.mp hq
        by_cases h : r.state = .waiting <;> simp [h, Relay.isWaiting]
      · simpa [Relay.isWaiting] using (List.mem_filter.mp hq).2
    show markOnBus (faultEntered t s) = faultEntered t s
    unfold markOnBus
    rw [faultEntered_relays, onFirstRelay_none _ none, ← faultEntered_relays]

/-- The claims one event can select: the POLL, the SCRIPT claim with the indices behind it, and the waiting relays. -/
def selectable (s : State) : Nat :=
  boolCode s.bridge.waitingPoll.isSome + (if s.bridge.waitingScript.isSome then 1 + s.seq.scriptLeft.length else 0)
    + s.bridge.relays.countP Relay.isWaiting

/-- Indices handed over can be selected at most once each. -/
theorem selectable_scriptsPresented {s : State} (indices : List Nat) (claim : s.bridge.waitingScript = none) :
    selectable (scriptsPresented indices s)
      ≤ boolCode s.bridge.waitingPoll.isSome + indices.length + s.bridge.relays.countP Relay.isWaiting := by
  obtain ⟨poll, relays, presented⟩ := scriptsPresented_cases indices s
  unfold selectable
  rw [poll, relays]
  rcases presented with ⟨ends, _⟩ | shorter
  · rw [ends, claim]; simp
  · split <;> omega

theorem selectable_pollBlocked {s : State} {p : Transaction} (claim : s.bridge.waitingPoll = some p) :
    selectable { s with bridge.waitingPoll := none } < selectable s := by
  simp only [selectable, claim, boolCode, Option.isSome_none, Option.isSome_some, if_true, Bool.false_eq_true, if_false]
  omega

theorem selectable_scriptBlocked {s : State} {p : Transaction} (code : Byte) (claim : s.bridge.waitingScript = some p) :
    selectable (scriptsPresented s.seq.scriptLeft (claimEnded p code { s with bridge.waitingScript := none })) < selectable s := by
  have bridge : (claimEnded p code { s with bridge.waitingScript := none }).bridge = { s.bridge with waitingScript := none } := by
    rw [claimEnded_frame]
  refine Nat.lt_of_le_of_lt (selectable_scriptsPresented _ (by rw [bridge])) ?_
  simp only [bridge, selectable, claim, Option.isSome_some, if_true]
  omega

theorem selectable_relayBlocked {s : State} {q : Relay} {before after : List Relay} (relays : s.bridge.relays = before ++ q :: after)
    (waits : q.state = .waiting) :
    selectable { s with
      bridge.relays := if s.out.locked then before ++ { q with state := .replyWaiting .blocked [] } :: after else before ++ after }
      < selectable s := by
  have fewer : (if s.out.locked then before ++ { q with state := .replyWaiting .blocked [] } :: after
      else before ++ after).countP Relay.isWaiting < s.bridge.relays.countP Relay.isWaiting := by
    rw [relays]
    split <;> simp [Relay.isWaiting, waits]
  simp only [selectable]
  omega

theorem find?_waiting {s : State} {q : Relay} {before after : List Relay} (relays : s.bridge.relays = before ++ q :: after)
    (waits : q.state = .waiting) (oldest : ∀ b ∈ before, b.state ≠ .waiting) :
    s.bridge.relays.find? Relay.isWaiting = some q :=
  List.find?_eq_some_iff_append.mpr
    ⟨by simp [Relay.isWaiting, waits], before, after, relays, fun b hb => by simp [Relay.isWaiting, oldest b hb]⟩

/-- With fuel for every claim the selections serve the bus. -/
theorem busServed_selectClaim (fuel : Nat) : ∀ s : State, selectable s < fuel → BusServed s (selectClaim fuel s) := by
  induction fuel with
  | zero => intro s h; omega
  | succ fuel ih =>
    intro s enough
    unfold selectClaim
    by_cases free : s.bridge.state = .idle
    · rw [if_neg (by simp [free])]
      cases poll : s.bridge.waitingPoll with
      | some p =>
        dsimp only
        by_cases allowed : p.device ∈ s.tables.bridgeAllow.seen
        · rw [if_pos (by simpa [deviceAllowed] using allowed), startTransaction_eq]
          exact .poll free poll allowed
        · rw [if_neg (by simpa [deviceAllowed] using allowed)]
          have := selectable_pollBlocked poll
          exact .pollBlocked free poll allowed (ih _ (by omega))
      | none =>
        dsimp only
        by_cases gate : s.seq.phase = .readout
        · rw [if_pos gate]; exact .unclaimed free poll (.inl gate)
        · rw [if_neg gate]
          cases script : s.bridge.waitingScript with
          | some p =>
            dsimp only
            by_cases allowed : p.device ∈ s.tables.bridgeAllow.seen
            · rw [if_pos (by simpa [deviceAllowed] using allowed), startTransaction_eq]
              exact .script free poll gate script allowed
            · rw [if_neg (by simpa [deviceAllowed] using allowed), handScripts_eq, reportClaimEnd_blocked]
              have := selectable_scriptBlocked 5#8 script
              exact .scriptBlocked free poll gate script allowed (ih _ (Nat.lt_of_lt_of_le this (by omega)))
          | none =>
            dsimp only
            cases found : s.bridge.relays.find? Relay.isWaiting with
            | none =>
              refine .unclaimed free poll (.inr ⟨script, fun q hq => ?_⟩)
              simpa [Relay.isWaiting] using List.find?_eq_none.mp found q hq
            | some r =>
              dsimp only
              obtain ⟨waits, before, after, relays, oldest⟩ := List.find?_eq_some_iff_append.mp found
              have waits : r.state = .waiting := by simpa [Relay.isWaiting] using waits
              have oldest : ∀ b ∈ before, b.state ≠ .waiting := fun b hb => by simpa [Relay.isWaiting] using oldest b hb
              by_cases allowed : r.device ∈ s.tables.bridgeAllow.seen
              · rw [if_pos (by simpa [deviceAllowed] using allowed), startTransaction_eq, markOnBus_busGiven relays waits oldest]
                exact .relay free poll gate script relays waits oldest allowed
              · rw [if_neg (by simpa [deviceAllowed] using allowed), endRelay_eq .blocked [] relays (by simp [Relay.isWaiting, waits])
                  fun b hb => by simp [Relay.isWaiting, oldest b hb]]
                have := selectable_relayBlocked relays waits
                exact .relayBlocked free poll gate script relays waits oldest allowed (ih _ (Nat.lt_of_lt_of_le this (by omega)))
    · rw [if_pos (by simpa using free)]; exact .kept free

/-- Nothing but the selections serves the bus. -/
theorem selectClaim_of_busServed {s t : State} (served : BusServed s t) : ∀ fuel, selectable s < fuel → selectClaim fuel s = t := by
  have allows : ∀ {s : State} {d : Nat}, d ∈ s.tables.bridgeAllow.seen → deviceAllowed s d = true :=
    fun h => by simpa [deviceAllowed] using h
  have blocks : ∀ {s : State} {d : Nat}, d ∉ s.tables.bridgeAllow.seen → ¬ deviceAllowed s d = true :=
    fun h => by simpa [deviceAllowed] using h
  induction served with
  | kept taken =>
    rintro (_ | fuel) enough
    · omega
    · unfold selectClaim; rw [if_pos taken]
  | unclaimed free poll others =>
    rintro (_ | fuel) enough
    · omega
    · unfold selectClaim
      rw [if_neg (by simp [free]), poll]
      rcases others with gate | ⟨script, none⟩
      · simp only [gate, if_true]
      · have found : List.find? Relay.isWaiting _ = Option.none :=
          List.find?_eq_none.mpr fun q hq => by simpa [Relay.isWaiting] using none q hq
        simp only [script, found, ite_self]
  | poll free claim allowed =>
    rintro (_ | fuel) enough
    · omega
    · unfold selectClaim
      rw [if_neg (by simp [free]), claim]
      exact (if_pos (allows allowed)).trans (startTransaction_eq ..)
  | pollBlocked free claim blocked _ ih =>
    rintro (_ | fuel) enough
    · omega
    · unfold selectClaim
      rw [if_neg (by simp [free]), claim]
      have := selectable_pollBlocked claim
      exact (if_neg (blocks blocked)).trans (ih _ (by omega))
  | script free poll gate claim allowed =>
    rintro (_ | fuel) enough
    · omega
    · unfold selectClaim
      rw [if_neg (by simp [free]), poll]
      dsimp only
      rw [if_neg gate, claim]
      exact (if_pos (allows allowed)).trans (startTransaction_eq ..)
  | scriptBlocked free poll gate claim blocked _ ih =>
    rintro (_ | fuel) enough
    · omega
    · unfold selectClaim
      rw [if_neg (by simp [free]), poll]
      dsimp only
      rw [if_neg gate, claim]
      have := selectable_scriptBlocked 5#8 claim
      refine (if_neg (blocks blocked)).trans ?_
      rw [handScripts_eq]
      exact ih _ (Nat.lt_of_lt_of_le this (by omega))
  | relay free poll gate script relays waits oldest allowed =>
    rintro (_ | fuel) enough
    · omega
    · rw [← markOnBus_busGiven relays waits oldest, ← startTransaction_eq]
      unfold selectClaim
      rw [if_neg (by simp [free]), poll]
      dsimp only
      rw [if_neg gate, script, find?_waiting relays waits oldest]
      exact if_pos (allows allowed)
  | relayBlocked free poll gate script relays waits oldest blocked _ ih =>
    rintro (_ | fuel) enough
    · omega
    · unfold selectClaim
      rw [if_neg (by simp [free]), poll]
      dsimp only
      rw [if_neg gate, script, find?_waiting relays waits oldest]
      have := selectable_relayBlocked relays waits
      refine (if_neg (blocks blocked)).trans ?_
      rw [endRelay_eq .blocked [] relays (by simp [Relay.isWaiting, waits]) fun b hb => by simp [Relay.isWaiting, oldest b hb]]
      exact ih _ (Nat.lt_of_lt_of_le this (by omega))

/-- Serving the bus leaves one state, and it is what arbitration answers (R153). -/
theorem busServed_iff {s t : State} : BusServed s t ↔ t = arbitrate s := by
  have enough : selectable s < s.seq.scriptLeft.length + s.bridge.relays.length + 3 := by
    have := List.countP_le_length (p := Relay.isWaiting) (l := s.bridge.relays)
    unfold selectable boolCode
    split <;> split <;> omega
  refine ⟨fun served => (selectClaim_of_busServed served _ enough).symm, ?_⟩
  rintro rfl
  exact busServed_selectClaim _ s enough

/-! ### What the bus looks at -/

/-- Everything the bus reads: the bridge, the plan position, the phase and the script run, the Outgoing Packet Queue and the lock of
Link Out, the lost-reports flag, tables, parameters, and the count of free values. -/
def busView (s : State) : State :=
  { State.reset with
    seq := { Sequencer.reset with step := s.seq.step, phase := s.seq.phase, scriptLeft := s.seq.scriptLeft },
    bridge := s.bridge,
    out := { OutputScheduler.reset with locked := s.out.locked, queue := s.out.queue },
    port.lostReports := s.port.lostReports, tables := s.tables, params := s.params, freeSeq := s.freeSeq }

theorem busView_queueReport (kind : ReportKind) (payload : List Byte) (s : State) :
    busView (queueReport kind payload s) = queueReport kind payload (busView s) := by
  have formed : busView (formReport kind payload s) = formReport kind payload (busView s) := by
    by_cases h : (s.out.locked && outQueueHasRoom s) = true
    · have old : formReport kind payload s = _ := if_pos h
      rw [old]; exact (if_pos h).symm
    · have old : formReport kind payload s = _ := if_neg h
      rw [old]; exact (if_neg h).symm
  by_cases h : reportEnabled s kind = true
  · have old : queueReport kind payload s = _ := if_pos h
    rw [old, formed]; exact (if_pos h).symm
  · have old : queueReport kind payload s = _ := if_neg h
    rw [old]; exact (if_neg h).symm

theorem busView_claimEnded (t : Transaction) (code : Byte) (s : State) :
    busView (claimEnded t code s) = claimEnded t code (busView s) := by
  unfold claimEnded
  split
  · exact busView_queueReport ..
  · rfl

theorem busView_scriptsPresented (indices : List Nat) (s : State) :
    busView (scriptsPresented indices s) = scriptsPresented indices (busView s) := by
  have told : ∀ (l : List Nat) (f : Nat → List Byte) (u : State),
      busView (l.foldl (fun u index => queueReport .scriptResult (f index) u) u)
        = l.foldl (fun u index => queueReport .scriptResult (f index) u) (busView u) := by
    intro l f
    induction l with
    | nil => intro u; rfl
    | cons i l ih => intro u; rw [List.foldl_cons, ih, busView_queueReport]; rfl
  have same : handOverRefused (busView s) = handOverRefused s := rfl
  unfold scriptsPresented
  rw [same]
  dsimp only
  cases List.dropWhile (fun index => (handOverRefused s index).isSome) indices with
  | nil =>
    dsimp only
    have := told (indices.takeWhile fun index => (handOverRefused s index).isSome)
      (fun index => [byteOf s.seq.step, byteOf index, byteOf ((handOverRefused s index).getD 0), 0#8]) s
    refine Eq.trans ?_ (congrArg (fun u : State => { u with seq.scriptLeft := [] }) this)
    rfl
  | cons index after =>
    dsimp only
    have := told (indices.takeWhile fun index => (handOverRefused s index).isSome)
      (fun index => [byteOf s.seq.step, byteOf index, byteOf ((handOverRefused s index).getD 0), 0#8]) s
    refine Eq.trans ?_ (congrArg (fun u : State => { u with
      seq.scriptLeft := after,
      bridge.waitingScript := (s.tables.bridgeScript.seen[index]?).map fun e : ScriptEntry =>
        { claimant := .script s.seq.step index true, device := e.device, reg := e.reg, access := .write e.data } }) this)
    rfl

theorem busView_faultEntered (t : Transaction) (s : State) : busView (faultEntered t s) = faultEntered t (busView s) := by
  have told : ∀ payload : List Byte, busView (queueReport .bridgeFault payload (claimEnded t 4#8
      { recovered s with freeSeq := s.freeSeq + 1, bridge.state := .fault, bridge.inFlight := none }))
      = queueReport .bridgeFault payload (claimEnded t 4#8
        { recovered (busView s) with freeSeq := s.freeSeq + 1, bridge.state := .fault, bridge.inFlight := none }) := by
    intro payload
    rw [busView_queueReport, busView_claimEnded]; rfl
  let failed := fun u : State => { u with
    bridge := { u.bridge with waitingPoll := none, waitingScript := none, relays := failedRelays s } }
  have waits : (busView s).bridge.waitingScript = s.bridge.waitingScript := rfl
  unfold faultEntered
  rw [waits]
  dsimp only
  rw [busView_scriptsPresented]
  refine congrArg (scriptsPresented _) ?_
  cases s.bridge.waitingScript with
  | none => exact congrArg failed (told _)
  | some w => exact congrArg failed ((busView_claimEnded ..).trans (congrArg (claimEnded w 4#8) (told _)))

theorem busView_onBus (t : Transaction) (s : State) : busView (onBus t s) = onBus t (busView s) := by
  unfold onBus
  have same : Config.dataLine (busView s).freeSeq = Config.dataLine s.freeSeq := rfl
  dsimp only
  rw [same]
  split <;> rfl

theorem busView_busGiven (t : Transaction) (s u : State) : busView (busGiven t s u) = busGiven t (busView s) (busView u) := by
  have same : Config.dataLine (busView s).freeSeq = Config.dataLine s.freeSeq := rfl
  unfold busGiven
  rw [same]
  split
  · exact busView_faultEntered ..
  · exact busView_onBus ..

/-- Serving the bus reads and writes its view alone. -/
theorem BusServed.view {s t : State} (served : BusServed s t) : BusServed (busView s) (busView t) := by
  induction served with
  | kept taken => exact .kept taken
  | unclaimed free poll others => exact .unclaimed free poll others
  | poll free claim allowed => rw [busView_busGiven]; exact .poll free claim allowed
  | pollBlocked free claim blocked _ ih => exact .pollBlocked free claim blocked ih
  | script free poll gate claim allowed => rw [busView_busGiven]; exact .script free poll gate claim allowed
  | scriptBlocked free poll gate claim blocked _ ih =>
    rw [busView_scriptsPresented, busView_claimEnded] at ih
    exact .scriptBlocked free poll gate claim blocked ih
  | relay free poll gate script relays waits oldest allowed =>
    rw [busView_busGiven]; exact .relay free poll gate script relays waits oldest allowed
  | relayBlocked free poll gate script relays waits oldest blocked _ ih =>
    exact .relayBlocked free poll gate script relays waits oldest blocked ih

/-- The bus looks at its view alone. -/
theorem busView_arbitrate (s : State) : busView (arbitrate s) = arbitrate (busView s) :=
  busServed_iff.mp (busServed_iff.mpr rfl : BusServed s (arbitrate s)).view

/-! ### The poll, EXPOSE and WAIT (R8, R9, R159) -/

/-- The poll's claim, and what it leaves. -/
theorem pollClaimed_claimPoll (s : State) : PollClaimed s (claimPoll s) := by
  unfold PollClaimed claimPoll
  by_cases listed : s.params.pollDevice ∈ s.tables.bridgeAllow.seen
  · have allows : ¬ (!deviceAllowed s s.params.pollDevice) = true := by simpa [deviceAllowed] using listed
    by_cases fault : s.bridge.state = .fault
    · rw [if_pos (.inr fault)]
      exact (if_neg allows).trans (if_pos fault)
    · rw [if_neg fun h => h.elim (absurd listed) fault]
      exact busServed_iff.mpr ((if_neg allows).trans (if_neg fault))
  · have blocks : (!deviceAllowed s s.params.pollDevice) = true := by simpa [deviceAllowed] using listed
    rw [if_pos (.inl listed)]
    exact if_pos blocks

/-- Entry to EXPOSE, its poll claimed or scheduled. -/
theorem exposeEntered_enterExpose {s : State} {st : PlanStep} (here : s.tables.plan.seen[s.seq.step]? = some st) :
    ExposeEntered st s (enterExpose s) := by
  have entered : enterExpose s = schedulePoll st.exposure { s with
      seq := { s.seq with
        phase := .expose, gapTimer := none, exposureTimer := some (s.now + st.exposure),
        exposureNumber := s.seq.exposureNumber + 1, exposeStart := s.now, pollDone := false },
      log.openRecord := some (SubframeRecord.opening (s.log.closed.length + 1) s.seq.step st),
      meas := { armed := true, startCapture := none, endCapture := none } } := by
    unfold enterExpose currentStep
    rw [here]
  rw [entered]
  unfold schedulePoll ExposeEntered pollLater exposing
  cases source : s.params.tempSource with
  | adcTh1 => exact ⟨fun _ => by simp [SubframeRecord.opening], fun h => absurd nofun h⟩
  | sensorRegister =>
    by_cases soon : st.exposure ≤ s.params.pollLead * 1000
    · refine ⟨fun h => absurd (h rfl) (by omega), fun _ => ?_⟩
      dsimp only
      rw [if_pos soon]
      exact pollClaimed_claimPoll { s with
        seq := { s.seq with
          phase := .expose, gapTimer := none, exposureTimer := some (s.now + st.exposure),
          exposureNumber := s.seq.exposureNumber + 1, exposeStart := s.now, pollDone := false },
        log.openRecord := some (SubframeRecord.opening (s.log.closed.length + 1) s.seq.step st),
        meas := { armed := true, startCapture := none, endCapture := none } }
    · refine ⟨fun _ => ?_, fun h => absurd (fun _ => by omega) h⟩
      dsimp only
      rw [if_neg soon]
      rfl

/-- Entry to WAIT, and on to EXPOSE for a gap of 0. -/
theorem waitEntered_enterWait {s : State} {st : PlanStep} (here : s.tables.plan.seen[s.seq.step]? = some st) :
    WaitEntered st s (enterWait s) := by
  have step : currentStep s = some st := here
  unfold WaitEntered enterWait
  rw [step]
  dsimp only
  cases st.cadence with
  | external => rfl
  | internal =>
    dsimp only
    split
    · exact exposeEntered_enterExpose (s := { s with seq.phase := .wait, seq.gapTimer := none }) here
    · rfl

/-! ### The end of a transaction (R148) -/

/-- The claimant hears of the outcome. -/
theorem claimantTold_endClaimant (f : InFlight) (o : BusOutcome) (data : List Byte) (s : State) :
    ClaimantTold f o data s (endClaimant o data f.transaction.claimant s) := by
  unfold ClaimantTold endClaimant
  cases f.transaction.claimant with
  | poll k gain offset => rfl
  | script step index live =>
    have reported : reportScriptEnd step index o s = if o = .done then s
        else queueReport .scriptResult [byteOf step, byteOf index, byteOf o.code, byteOf o.byteIndex] s := rfl
    have indices : (reportScriptEnd step index o s).seq.scriptLeft = s.seq.scriptLeft := by
      rw [reported]
      split
      · rfl
      · rw [queueReport_frame]
    dsimp only
    rw [handScripts_eq, indices, reported]
  | relay =>
    refine ⟨fun before q after relays on passed => ?_, fun none => ?_⟩
    · exact endRelay_eq o data relays (by simp [Relay.isOnBus, on]) fun b hb => by simp [Relay.isOnBus, passed b hb]
    · have off : ∀ q ∈ s.bridge.relays, q.isOnBus = false := fun q hq => by simp [Relay.isOnBus, none q hq]
      have kept : s.bridge.relays.eraseP Relay.isOnBus = s.bridge.relays := List.eraseP_of_forall_not fun q hq => by simp [off q hq]
      dsimp only
      unfold endBusRelay endRelay
      rw [onFirstRelay_none _ off, kept, ite_self]

/-- A transaction in flight ends in any way it can: the bus is free, the claimant is told, the bus is served, and a STEP_START with
nothing left to wait for ends. -/
theorem exec_endsTransaction {s : State} {f : InFlight} {c : Instr} {o : BusOutcome} {data : List Byte} {freed : State}
    (flight : s.bridge.inFlight = some f) (ends : EndsTransaction s f c o data freed) :
    exec c s = .next (endEvent (tryEndStepStart (arbitrate (endClaimant o data f.transaction.claimant freed)))) := by
  rcases ends with ⟨e, rfl, possible, rfl, rfl, rfl⟩ | ⟨rfl, rfl, rfl, rfl⟩
  · rw [← endTransaction_eq possible]
    change execBusTransactionEnd e s = _
    unfold execBusTransactionEnd
    rw [flight]
    exact if_pos possible
  · change execBusClockTimeout s = _
    unfold execBusClockTimeout
    rw [flight]
    rfl

/-! ### The end of an event -/

/-- The lane and the lines leave the bus alone. -/
theorem Ends.sameBus {u t : State} (ends : Ends u t) : SameBus u t := by
  have bridge := congrArg State.bridge ends.still
  have indices := congrArg (fun s : State => s.seq.scriptLeft) ends.still
  have lost := congrArg (fun s : State => s.port.lostReports) ends.still
  exact ⟨bridge, indices, ends.queued, lost⟩

end Sys2Proof.Machine
end

