-- ==== Sys2Proof/Laws/Memory.lean ====
section
/-! SUPPORT. The sparse arrays: what a read finds after a write, and that every operation keeps the canonical form. -/

namespace Sys2Proof.Machine

variable {α : Type} {default : α}

/-- No entry is listed below a key, the keys rise from it, and no entry is the default. -/
def Memory.wfFrom (default : α) : Nat → Memory α → Prop
  | _, [] => True
  | low, (k, v) :: rest => low ≤ k ∧ v ≠ default ∧ Memory.wfFrom default (k + 1) rest

theorem Memory.wfFrom_weaken {low low' : Nat} (h : low' ≤ low) :
    ∀ {m : Memory α}, Memory.wfFrom default low m → Memory.wfFrom default low' m
  | [], _ => trivial
  | (_, _) :: _, hm => ⟨Nat.le_trans h hm.1, hm.2⟩

theorem Memory.read_below {low a : Nat} : ∀ {m : Memory α}, Memory.wfFrom default low m → a < low →
    Memory.read default m a = default
  | [], _, _ => rfl
  | (k, v) :: rest, h, ha => by
    have hk : k ≠ a := by have := h.1; omega
    simp [Memory.read, hk, Memory.read_below h.2.2 (Nat.lt_of_lt_of_le ha (Nat.le_succ_of_le h.1))]

variable [DecidableEq α]

theorem Memory.wf_cons (k : Nat) (v : α) (rest : Memory α) :
    Memory.wf default ((k, v) :: rest) = true ↔ v ≠ default ∧ Memory.wfFrom default (k + 1) rest := by
  induction rest generalizing k v with
  | nil => simp [Memory.wf, Memory.wfFrom]
  | cons e rest ih =>
    obtain ⟨l, w⟩ := e
    simp only [Memory.wf, Memory.wfFrom, Bool.and_eq_true, decide_eq_true_eq, ih]
    constructor
    · rintro ⟨⟨hv, hk⟩, hw, hr⟩; exact ⟨hv, hk, hw, hr⟩
    · rintro ⟨hv, hk, hw, hr⟩; exact ⟨⟨hv, hk⟩, hw, hr⟩

/-- The canonical form, as a form that recurs on the list. -/
theorem Memory.wf_iff_wfFrom (m : Memory α) : Memory.wf default m = true ↔ Memory.wfFrom default 0 m := by
  cases m with
  | nil => simp [Memory.wf, Memory.wfFrom]
  | cons e rest =>
    obtain ⟨k, v⟩ := e
    simp [Memory.wf_cons, Memory.wfFrom]

theorem Memory.wfFrom_write {a low : Nat} {v : α} : ∀ {m : Memory α}, Memory.wfFrom default low m → low ≤ a →
    Memory.wfFrom default low (Memory.write default m a v)
  | [], _, ha => by
    by_cases hv : v = default <;> simp [Memory.write, Memory.wfFrom, hv, ha]
  | (k, w) :: rest, h, ha => by
    obtain ⟨hk, hw, hr⟩ := h
    unfold Memory.write
    split
    · rename_i hlt
      split
      · exact ⟨hk, hw, hr⟩
      · rename_i hv; exact ⟨ha, hv, hlt, hw, hr⟩
    · split
      · rename_i heq
        subst heq
        split
        · exact Memory.wfFrom_weaken (by omega) hr
        · rename_i hv; exact ⟨hk, hv, hr⟩
      · exact ⟨hk, hw, Memory.wfFrom_write hr (by omega)⟩

/-- A write keeps the canonical form. -/
theorem Memory.wf_write {m : Memory α} (h : Memory.wf default m = true) (a : Nat) (v : α) :
    Memory.wf default (Memory.write default m a v) = true :=
  (Memory.wf_iff_wfFrom _).2 (Memory.wfFrom_write ((Memory.wf_iff_wfFrom _).1 h) (Nat.zero_le a))

omit [DecidableEq α] in
theorem Memory.wfFrom_filterMap {f : Nat × α → Option (Nat × α)}
    (key : ∀ e e', f e = some e' → e'.1 = e.1 ∧ e'.2 ≠ default) :
    ∀ {low : Nat} {m : Memory α}, Memory.wfFrom default low m → Memory.wfFrom default low (m.filterMap f)
  | _, [], _ => trivial
  | low, (k, v) :: rest, h => by
    have hr := Memory.wfFrom_filterMap key h.2.2
    cases hf : f (k, v) with
    | none => simpa [List.filterMap_cons, hf] using Memory.wfFrom_weaken (Nat.le_succ_of_le h.1) hr
    | some e =>
      obtain ⟨hk, hv⟩ := key _ _ hf
      obtain ⟨l, w⟩ := e
      simp only at hk hv
      subst hk
      simpa [List.filterMap_cons, hf, Memory.wfFrom] using ⟨h.1, hv, hr⟩

/-- An update of every listed value keeps the canonical form. -/
theorem Memory.wf_update {m : Memory α} (f : Nat → α → α) (h : Memory.wf default m = true) :
    Memory.wf default (Memory.update default f m) = true := by
  refine (Memory.wf_iff_wfFrom _).2 (Memory.wfFrom_filterMap ?_ ((Memory.wf_iff_wfFrom _).1 h))
  intro e e' he
  by_cases hd : f e.1 e.2 = default
  · simp [hd] at he
  · simp only [hd, if_false, Option.some.injEq] at he
    subst he
    exact ⟨rfl, hd⟩

omit [DecidableEq α] in
theorem Memory.wfFrom_filter (p : Nat × α → Bool) :
    ∀ {low : Nat} {m : Memory α}, Memory.wfFrom default low m → Memory.wfFrom default low (m.filter p)
  | _, [], _ => trivial
  | _, (k, v) :: rest, h => by
    have hr := Memory.wfFrom_filter p h.2.2
    by_cases hp : p (k, v) = true
    · simpa [hp, Memory.wfFrom] using ⟨h.1, h.2.1, hr⟩
    · simpa [hp] using Memory.wfFrom_weaken (Nat.le_succ_of_le h.1) hr

/-- A restriction keeps the canonical form. -/
theorem Memory.wf_restrict {m : Memory α} (p : Nat → Bool) (h : Memory.wf default m = true) :
    Memory.wf default (Memory.restrict p m) = true :=
  (Memory.wf_iff_wfFrom _).2 (Memory.wfFrom_filter _ ((Memory.wf_iff_wfFrom _).1 h))

theorem Memory.read_writeFrom {a low : Nat} {v : α} (b : Nat) : ∀ {m : Memory α}, Memory.wfFrom default low m →
    Memory.read default (Memory.write default m a v) b = if b = a then v else Memory.read default m b
  | [], _ => by
    by_cases hb : b = a
    · subst hb; by_cases hv : v = default <;> simp [Memory.write, Memory.read, hv]
    · by_cases hv : v = default <;> simp [Memory.write, Memory.read, hv, hb, Ne.symm hb]
  | (k, w) :: rest, h => by
    obtain ⟨hk, hw, hr⟩ := h
    unfold Memory.write
    split
    · rename_i hlt
      by_cases hb : b = a
      · subst hb
        have hbelow : Memory.read default ((k, w) :: rest) b = default :=
          Memory.read_below (low := k) ⟨Nat.le_refl k, hw, hr⟩ hlt
        split
        · rename_i hv; simp [hbelow, hv]
        · simp [Memory.read]
      · split
        · simp
        · simp [Memory.read, Ne.symm hb]
    · split
      · rename_i heq
        subst heq
        by_cases hb : b = a
        · subst hb
          split
          · rename_i hv
            simp [Memory.read_below hr (Nat.lt_succ_self b), hv]
          · simp [Memory.read]
        · split <;> simp [Memory.read, Ne.symm hb]
      · rename_i hge hne
        by_cases hkb : k = b
        · subst hkb
          have : k ≠ a := fun e => hne e.symm
          simp [Memory.read, this]
        · simp [Memory.read, hkb, Memory.read_writeFrom b hr]

/-- A read after a write: the value written at its key, and what stood before everywhere else. -/
theorem Memory.read_write {m : Memory α} (h : Memory.wf default m = true) (a b : Nat) (v : α) :
    Memory.read default (Memory.write default m a v) b = if b = a then v else Memory.read default m b :=
  Memory.read_writeFrom b ((Memory.wf_iff_wfFrom _).1 h)

theorem Memory.read_mapFrom {f : Nat → α → α} (hf : ∀ a, f a default = default) (b : Nat) :
    ∀ {low : Nat} {m : Memory α}, Memory.wfFrom default low m →
      Memory.read default (Memory.update default f m) b = f b (Memory.read default m b)
  | _, [], _ => by simp [Memory.update, Memory.read, hf]
  | low, (k, v) :: rest, h => by
    have hr := Memory.read_mapFrom hf b h.2.2
    unfold Memory.update at hr ⊢
    by_cases hkb : k = b
    · subst hkb
      by_cases hd : f k v = default
      · have hbelow : Memory.read default rest k = default := Memory.read_below h.2.2 (Nat.lt_succ_self k)
        simp [hd, Memory.read, hr, hbelow, hf]
      · simp [hd, Memory.read]
    · by_cases hd : f k v = default <;> simp [hd, Memory.read, hkb, hr]

/-- A read after an update that leaves the default as it is. -/
theorem Memory.read_update {m : Memory α} {f : Nat → α → α} (hf : ∀ a, f a default = default)
    (h : Memory.wf default m = true) (b : Nat) :
    Memory.read default (Memory.update default f m) b = f b (Memory.read default m b) :=
  Memory.read_mapFrom hf b ((Memory.wf_iff_wfFrom _).1 h)

omit [DecidableEq α] in
theorem Memory.read_filterFrom (p : Nat → Bool) (b : Nat) : ∀ {low : Nat} {m : Memory α}, Memory.wfFrom default low m →
    Memory.read default (Memory.restrict p m) b = if p b then Memory.read default m b else default
  | _, [], _ => by simp [Memory.restrict, Memory.read]
  | _, (k, v) :: rest, h => by
    have hr := Memory.read_filterFrom p b h.2.2
    unfold Memory.restrict at hr ⊢
    by_cases hkb : k = b
    · subst hkb
      by_cases hp : p k = true
      · simp [hp, Memory.read]
      · simp [hp, hr]
    · by_cases hp : p k = true <;> simp [hp, Memory.read, hkb, hr]

/-- A read after a restriction: what stood before where p holds, the default elsewhere. -/
theorem Memory.read_restrict {m : Memory α} (p : Nat → Bool) (h : Memory.wf default m = true) (b : Nat) :
    Memory.read default (Memory.restrict p m) b = if p b then Memory.read default m b else default :=
  Memory.read_filterFrom p b ((Memory.wf_iff_wfFrom _).1 h)

/-- The plane and the row-visited map have the form at reset. -/
theorem reset_memoryWf : MemoryWf State.reset := ⟨rfl, rfl⟩

end Sys2Proof.Machine
end

