-- ==== Sys2Proof/Laws/Ingest.lean ====
section
/-! SUPPORT. What ingest leaves alone, and what the first stage of SETTLE does: SETTLE_END acts as it does once ingest has finished
the entries that were left (R13, R59; log 13). -/

namespace Sys2Proof.Machine

/-! ### What ingest leaves alone -/

/-- A record without the counts and flags that ingest writes. -/
def SubframeRecord.untallied (r : SubframeRecord) : SubframeRecord :=
  { r with
    admitted := 0, rejected := 0, saturated := 0, excluded := 0, outliers := 0, clamped := 0, trails := 0, unattributed := 0,
    vetoFull := false, trailQueueFull := false }

/-- The state with everything set aside that the Trail Detector's row work changes: its own state and the counts of the record. -/
def detectRest (s : State) : State :=
  { s with trails := TrailDetector.reset, log.openRecord := s.log.openRecord.map SubframeRecord.untallied }

theorem detectRest_onRecord {f : SubframeRecord → SubframeRecord} (h : ∀ r, (f r).untallied = r.untallied) (s : State) :
    detectRest (onRecord f s) = detectRest s := by
  have same : SubframeRecord.untallied ∘ f = SubframeRecord.untallied := funext h
  simp [detectRest, onRecord, same]

theorem detectRest_offerToQueue (t : TrailRecord) (s : State) : detectRest (offerToQueue t s) = detectRest s := by
  unfold offerToQueue
  split
  · split <;> rfl
  · refine detectRest_onRecord ?_ s
    intro r; rfl

theorem detectRest_recordTrail (t : OpenTrail) (s : State) : detectRest (recordTrail t s) = detectRest s := by
  unfold recordTrail
  simp only
  rw [detectRest_offerToQueue]
  split
  · rfl
  · refine (detectRest_onRecord ?_ _).trans rfl
    intro r; rfl

theorem detectRest_closeTrail (t : OpenTrail) (s : State) : detectRest (closeTrail t s) = detectRest s := by
  unfold closeTrail
  split
  · rfl
  · have counted : detectRest (onRecord (fun r => { r with trails := r.trails + 1 }) s) = detectRest s := by
      refine detectRest_onRecord ?_ s
      intro r; rfl
    simp only
    split
    · exact (detectRest_recordTrail _ _).trans counted
    · refine (detectRest_onRecord ?_ _).trans counted
      intro r; rfl

theorem detectRest_closeTrails (ts : List OpenTrail) : ∀ s : State, detectRest (closeTrails ts s) = detectRest s := by
  induction ts with
  | nil => intro s; rfl
  | cons t rest ih => intro s; exact (ih _).trans (detectRest_closeTrail t s)

theorem detectRest_takeSegment (row : Nat) (g : Segment) (s : State) : detectRest (takeSegment row g s) = detectRest s := by
  unfold takeSegment
  simp only
  split
  · split
    · rfl
    · refine detectRest_onRecord ?_ s
      intro r; rfl
  · rfl

/-- The detector writes its own state and the counts of the open record (R115 to R125). -/
@[simp] theorem detectRest_detectRow (row : Nat) (flags : List (Nat × Region)) (s : State) :
    detectRest (detectRow row flags s) = detectRest s := by
  have segments : ∀ (gs : List Segment) (u : State),
      detectRest (gs.foldl (fun u g => takeSegment row g u) u) = detectRest u := by
    intro gs
    induction gs with
    | nil => intro u; rfl
    | cons g rest ih => intro u; exact (ih _).trans (detectRest_takeSegment row g u)
  unfold detectRow
  simp only
  rw [segments]
  exact detectRest_closeTrails _ _

theorem detectRow_rest (row : Nat) (flags : List (Nat × Region)) (s : State) : (detectRow row flags s).plane = s.plane
    ∧ (detectRow row flags s).link = s.link ∧ (detectRow row flags s).fifo = s.fifo := by
  have e := fun {α : Type} (f : State → α) => congrArg f (detectRest_detectRow row flags s)
  exact ⟨e State.plane, e State.link, e State.fifo⟩

/-- The state with everything set aside that ingest of an entry changes. -/
def ingestRest (s : State) : State :=
  { detectRest s with plane := [], link.rowMap := [], cal.cursor := 0, fifo.entries := [] }

@[simp] theorem ingestRest_detectRow (row : Nat) (flags : List (Nat × Region)) (s : State) :
    ingestRest (detectRow row flags s) = ingestRest s := by simp [ingestRest]

@[simp] theorem ingestRest_setRow (row : Nat) (r : RowState) (s : State) : ingestRest (setRow row r s) = ingestRest s := rfl

@[simp] theorem ingestRest_freeEntries (s : State) : ingestRest (freeEntries s) = ingestRest s := rfl

@[simp] theorem ingestRest_onEntries (hit : FifoEntry → Bool) (f : FifoEntry → FifoEntry) (s : State) :
    ingestRest (onEntries hit f s) = ingestRest s := rfl

theorem untallied_tallyLight (v : Visit) (r : SubframeRecord) : (tallyLight v r).untallied = r.untallied := by
  unfold tallyLight
  cases v.tally <;> rfl

theorem untallied_regionStage (s : State) (row column x : Nat) (w : RowWork) :
    (regionStage s row column x w).record.untallied = w.record.untallied := by
  unfold regionStage
  split
  · rfl
  · simp only
    split
    · unfold darkSample
      split <;> rfl
    · exact untallied_tallyLight _ _

theorem untallied_sampleStep (s : State) (row : Nat) (pixels : List Nat) (w : RowWork) (sample : Nat × Nat) :
    (sampleStep s row pixels w sample).record.untallied = w.record.untallied := by
  unfold sampleStep
  simp only
  split
  · split
    · split
      · rfl
      · rw [untallied_regionStage]
    · exact untallied_regionStage _ _ _ _ _
  · exact untallied_regionStage _ _ _ _ _

/-- One entry through ingest writes the plane, the row-visited map, the defect cursor, the detector and the counts of the open record,
and nothing else (R54, R59, R69, R74, R95, R115). -/
@[simp] theorem ingestRest_ingestEntryRow (e : FifoEntry) (s : State) : ingestRest (ingestEntryRow e s) = ingestRest s := by
  have folded : ∀ (row : Nat) (pixels : List Nat) (samples : List (Nat × Nat)) (w : RowWork),
      (samples.foldl (sampleStep s row pixels) w).record.untallied = w.record.untallied := by
    intro row pixels samples
    induction samples with
    | nil => intro w; rfl
    | cons x rest ih => intro w; exact (ih _).trans (untallied_sampleStep s row pixels w x)
  unfold ingestEntryRow
  split
  · rfl
  rename_i record opened
  split
  · rename_i pixels _
    have counted : ∀ w : RowWork, w.record.untallied = record.untallied →
        ingestRest (setCursor w.defects { s with plane := w.plane, log.openRecord := some w.record }) = ingestRest s := by
      intro w same
      simp [ingestRest, detectRest, setCursor, opened, same]
    rw [ingestRest_setRow]
    unfold ingestGood
    simp only
    split
    · exact counted _ (folded _ _ _ _)
    · rw [ingestRest_detectRow]
      exact counted _ (folded _ _ _ _)
  · rw [ingestRest_setRow]
    unfold ingestMarker
    simp only
    split
    · rfl
    · rw [ingestRest_detectRow]; rfl

@[simp] theorem ingestRest_ingestNext (s : State) : ingestRest (ingestNext s) = ingestRest s := by
  unfold ingestNext
  split
  · rfl
  · simp

theorem ingestRest_of_ingestFinished {s u : State} (h : IngestFinished s u) : ingestRest u = ingestRest s := by
  induction h with
  | done => rfl
  | next _ _ _ _ _ ih => exact ih.trans (ingestRest_ingestNext _)

/-- The blocks agree on the take in the state left by ingest as in the one before. -/
theorem coherent_ingestRest {s : State} : Coherent (ingestRest s) ↔ Coherent s := by
  have opened : (ingestRest s).log.openRecord ≠ none ↔ s.log.openRecord ≠ none := by simp [ingestRest, detectRest]
  constructor
  · intro h
    exact { h with openRecord := opened.symm.trans h.openRecord }
  · intro h
    exact { h with openRecord := opened.trans h.openRecord }

theorem coherent_of_ingestFinished {s u : State} (h : IngestFinished s u) (good : Coherent s) : Coherent u := by
  rw [← coherent_ingestRest, ingestRest_of_ingestFinished h, coherent_ingestRest]
  exact good

/-- What ingest leaves of the rest of the part. -/
theorem fields_of_ingestRest {s u : State} (h : ingestRest u = ingestRest s) :
    u.seq = s.seq ∧ u.arb = s.arb ∧ u.bridge = s.bridge ∧ u.out = s.out ∧ u.port = s.port ∧ u.render = s.render
      ∧ u.tables = s.tables ∧ u.params = s.params ∧ u.settings = s.settings ∧ u.lines = s.lines ∧ u.meas = s.meas
      ∧ u.now = s.now ∧ u.freeSeq = s.freeSeq ∧ u.pending = s.pending ∧ u.log.closed = s.log.closed
      ∧ u.fifo.frames = s.fifo.frames ∧ u.link.forwarding = s.link.forwarding := by
  have e := fun {α : Type} (f : State → α) => congrArg f h
  exact ⟨e State.seq, e State.arb, e State.bridge, e State.out, e State.port, e State.render, e State.tables, e State.params,
    e State.settings, e State.lines, e State.meas, e State.now, e State.freeSeq, e State.pending, e (fun t => t.log.closed),
    e (fun t => t.fifo.frames), e (fun t => t.link.forwarding)⟩

theorem openIsLight_of_ingestRest {s u : State} (h : ingestRest u = ingestRest s) : openIsLight u = openIsLight s := by
  have same : (u.log.openRecord.map SubframeRecord.untallied) = s.log.openRecord.map SubframeRecord.untallied :=
    congrArg (fun t => t.log.openRecord) h
  have kinds : u.log.openRecord.map SubframeRecord.kind = s.log.openRecord.map SubframeRecord.kind := by
    simpa [Option.map_map, Function.comp_def, SubframeRecord.untallied]
      using congrArg (Option.map SubframeRecord.kind) same
  unfold openIsLight
  cases hu : u.log.openRecord <;> cases hs : s.log.openRecord <;> simp_all

/-! ### Ingest keeps the sparse arrays canonical -/

theorem wf_regionStage (s : State) (row column x : Nat) {w : RowWork} (h : Memory.wf Pixel.cleared w.plane = true) :
    Memory.wf Pixel.cleared (regionStage s row column x w).plane = true := by
  unfold regionStage
  split
  · exact h
  · simp only
    split
    · unfold darkSample
      split
      · exact h
      · exact Memory.wf_write h _ _
    · exact Memory.wf_write h _ _

theorem wf_sampleStep (s : State) (row : Nat) (pixels : List Nat) {w : RowWork} (sample : Nat × Nat)
    (h : Memory.wf Pixel.cleared w.plane = true) : Memory.wf Pixel.cleared (sampleStep s row pixels w sample).plane = true := by
  unfold sampleStep
  simp only
  split
  · split
    · split
      · exact h
      · exact wf_regionStage _ _ _ _ (by exact h)
    · exact wf_regionStage _ _ _ _ h
  · exact wf_regionStage _ _ _ _ h

theorem memoryWf_ingestEntryRow (e : FifoEntry) {s : State} (h : MemoryWf s) : MemoryWf (ingestEntryRow e s) := by
  have folded : ∀ (row : Nat) (pixels : List Nat) (samples : List (Nat × Nat)) (w : RowWork),
      Memory.wf Pixel.cleared w.plane = true →
      Memory.wf Pixel.cleared (samples.foldl (sampleStep s row pixels) w).plane = true := by
    intro row pixels samples
    induction samples with
    | nil => intro w hw; exact hw
    | cons x rest ih => intro w hw; exact ih _ (wf_sampleStep s row pixels x hw)
  have plane : ∀ (row : Nat) (flags : List (Nat × Region)) (u : State), (detectRow row flags u).plane = u.plane :=
    fun row flags u => (detectRow_rest row flags u).1
  have rows : ∀ (row : Nat) (flags : List (Nat × Region)) (u : State), (detectRow row flags u).link.rowMap = u.link.rowMap :=
    fun row flags u => congrArg LinkReceiver.rowMap (detectRow_rest row flags u).2.1
  have settled : ∀ u : State, Memory.wf Pixel.cleared u.plane = true → u.link.rowMap = s.link.rowMap →
      MemoryWf (setRow e.row .ingested u) := by
    intro u kept map
    exact ⟨kept, by simpa [setRow, map] using Memory.wf_write h.rowMap _ _⟩
  unfold ingestEntryRow
  split
  · exact h
  rename_i record _
  split
  · rename_i pixels _
    refine settled _ ?_ ?_ <;> unfold ingestGood <;> simp only <;> split
    · exact folded _ _ _ _ h.plane
    · rw [plane]; exact folded _ _ _ _ h.plane
    · rfl
    · rw [rows]; rfl
  · refine settled _ ?_ ?_ <;> unfold ingestMarker <;> simp only <;> split
    · exact h.plane
    · rw [plane]; exact Memory.wf_update _ h.plane
    · rfl
    · rw [rows]; rfl

theorem memoryWf_ingestNext {s : State} (h : MemoryWf s) : MemoryWf (ingestNext s) := by
  unfold ingestNext
  split
  · exact h
  · exact ⟨(memoryWf_ingestEntryRow _ h).plane, (memoryWf_ingestEntryRow _ h).rowMap⟩

theorem memoryWf_of_ingestFinished {s u : State} (h : IngestFinished s u) (good : MemoryWf s) : MemoryWf u := by
  induction h with
  | done => exact good
  | next _ _ _ _ _ ih => exact ih (memoryWf_ingestNext good)

/-! ### The first stage of SETTLE -/

/-- The entry waits for ingest. -/
def FifoEntry.waits (e : FifoEntry) : Bool := decide (e.cls = .subframe) && !e.ingestDone

theorem FifoEntry.waits_iff {e : FifoEntry} : e.waits = true ↔ e.cls = .subframe ∧ e.ingestDone = false := by
  simp [FifoEntry.waits]

theorem FifoEntry.not_waits_iff {e : FifoEntry} : e.waits = false ↔ (e.cls = .subframe → e.ingestDone = true) := by
  cases h : e.ingestDone <;> simp [FifoEntry.waits, h]

/-- The next entry of ingest is the oldest of the subframe that is not done (R59). -/
theorem nextIngest_eq_some {s : State} {e : FifoEntry} : nextIngest s = some e ↔ e.cls = .subframe ∧ e.ingestDone = false
    ∧ ∃ before after, s.fifo.entries = before ++ e :: after ∧ ∀ b ∈ before, b.cls = .subframe → b.ingestDone = true := by
  have oldest : ∀ b : FifoEntry, (!b.waits) = true ↔ (b.cls = .subframe → b.ingestDone = true) := by
    intro b
    rw [← FifoEntry.not_waits_iff, Bool.not_eq_true']
  rw [show nextIngest s = s.fifo.entries.find? FifoEntry.waits from rfl, List.find?_eq_some_iff_append,
    FifoEntry.waits_iff, and_assoc]
  simp only [oldest]

theorem nextIngest_eq_none {s : State} : nextIngest s = none ↔ ∀ e ∈ s.fifo.entries, e.cls = .subframe → e.ingestDone = true := by
  rw [show nextIngest s = s.fifo.entries.find? FifoEntry.waits from rfl, List.find?_eq_none]
  simp only [Bool.not_eq_true, FifoEntry.not_waits_iff]

/-- The entries that ingest has still to take. -/
def entriesLeft (s : State) : Nat := s.fifo.entries.countP FifoEntry.waits

theorem ingestEntryRow_entries (e : FifoEntry) (s : State) : (ingestEntryRow e s).fifo.entries = s.fifo.entries := by
  have detected : ∀ (row : Nat) (flags : List (Nat × Region)) (u : State), (detectRow row flags u).fifo = u.fifo :=
    fun row flags u => (detectRow_rest row flags u).2.2
  unfold ingestEntryRow
  split
  · rfl
  · split
    · simp only [setRow, ingestGood]
      split
      · rfl
      · rw [detected]; rfl
    · simp only [setRow, ingestMarker]
      split
      · rfl
      · rw [detected]; rfl

/-- Ingest of an entry leaves fewer of them. -/
theorem entriesLeft_ingestNext {s : State} {e : FifoEntry} (h : nextIngest s = some e) :
    entriesLeft (ingestNext s) < entriesLeft s := by
  let mark := fun f : FifoEntry => if decide (f.number = e.number) then { f with ingestDone := true } else f
  have never : ∀ f, (mark f).waits = true → f.waits = true := by
    intro f
    simp only [mark]
    split <;> simp [FifoEntry.waits]
  have dropped : ∀ l : List FifoEntry, (l.dropWhile FifoEntry.finished).countP FifoEntry.waits ≤ l.countP FifoEntry.waits :=
    fun l => (List.dropWhile_sublist _).countP_le
  have kept : ∀ l : List FifoEntry, (l.map mark).countP FifoEntry.waits ≤ l.countP FifoEntry.waits := by
    intro l
    rw [List.countP_map]
    exact List.countP_mono_left fun f _ hf => never f hf
  obtain ⟨subframe, left, before, after, entries, -⟩ := nextIngest_eq_some.mp h
  have waits : e.waits = true := FifoEntry.waits_iff.mpr ⟨subframe, left⟩
  have done : (mark e).waits = false := by simp [mark, FifoEntry.waits]
  have shape : (ingestNext s).fifo.entries = (s.fifo.entries.map mark).dropWhile FifoEntry.finished := by
    unfold ingestNext
    rw [h]
    simp only [freeEntries, onEntries, ingestEntryRow_entries, mark]
  unfold entriesLeft
  rw [shape]
  refine Nat.lt_of_le_of_lt (dropped _) ?_
  rw [entries, List.map_append, List.map_cons, List.countP_append, List.countP_append, List.countP_cons, List.countP_cons,
    waits, done]
  have first := kept before
  have last := kept after
  simp only [Bool.false_eq_true, if_false, if_true]
  omega

theorem entriesLeft_le (s : State) : entriesLeft s ≤ s.fifo.entries.length := List.countP_le_length

theorem finishIngest_of_none {s : State} (h : nextIngest s = none) : ∀ k, finishIngest k s = s := by
  intro k
  induction k with
  | zero => rfl
  | succ k ih => rw [finishIngest, show ingestNext s = s by unfold ingestNext; rw [h], ih]

/-- With steps enough, ingest finishes what is left. -/
theorem ingestFinished_finishIngest : ∀ (k : Nat) (s : State), entriesLeft s ≤ k → IngestFinished s (finishIngest k s) := by
  intro k
  induction k with
  | zero =>
    intro s h
    have none : nextIngest s = none := by
      cases hn : nextIngest s with
      | none => rfl
      | some e => exact absurd (entriesLeft_ingestNext hn) (by omega)
    exact .done (nextIngest_eq_none.mp none)
  | succ k ih =>
    intro s h
    cases hn : nextIngest s with
    | none =>
      rw [finishIngest_of_none hn]
      exact .done (nextIngest_eq_none.mp hn)
    | some e =>
      obtain ⟨subframe, left, before, after, entries, oldest⟩ := nextIngest_eq_some.mp hn
      have fewer := entriesLeft_ingestNext hn
      exact .next entries subframe left oldest (ih (ingestNext s) (by omega))

/-- What ingest leaves is one state. -/
theorem IngestFinished.unique {s u v : State} (h : IngestFinished s u) (h' : IngestFinished s v) : u = v := by
  induction h with
  | done finished =>
    cases h' with
    | done => rfl
    | next entries subframe left =>
      exact absurd (finished _ (by rw [entries]; simp) subframe) (by rw [left]; decide)
  | next entries subframe left _ _ ih =>
    cases h' with
    | done finished => exact absurd (finished _ (by rw [entries]; simp) subframe) (by rw [left]; decide)
    | next _ _ _ _ rest => exact ih rest

/-- Behind it, ingest has nothing left. -/
theorem IngestFinished.none_left {s u : State} (h : IngestFinished s u) :
    ∀ e ∈ u.fifo.entries, e.cls = .subframe → e.ingestDone = true := by
  induction h with
  | done finished => exact finished
  | next _ _ _ _ _ ih => exact ih

/-- The close does what it does once ingest has finished what is left (R13; log 13). -/
theorem settleClose_of_ingestFinished {s u : State} (h : IngestFinished s u) : settleClose s = settleClose u := by
  have rest := ingestRest_of_ingestFinished h
  have seq : u.seq = s.seq := (fields_of_ingestRest rest).1
  have here : finishIngest s.fifo.entries.length s = u :=
    (ingestFinished_finishIngest _ _ (entriesLeft_le s)).unique h
  have there : finishIngest u.fifo.entries.length u = u :=
    finishIngest_of_none (nextIngest_eq_none.mpr h.none_left) _
  unfold settleClose
  simp only [here, there, openIsLight_of_ingestRest rest, seq]

/-- SETTLE_END, commanded with entries left, leaves what it leaves once they are done (R13; log 13). -/
theorem execSettleEnd_of_ingestFinished {s u : State} (h : IngestFinished s u) (phase : s.seq.phase = .settle)
    (holder : s.arb.holder = .ingest) : execSettleEnd s = execSettleEnd u := by
  have fields := fields_of_ingestRest (ingestRest_of_ingestFinished h)
  have phase' : u.seq.phase = .settle := by rw [fields.1, phase]
  have holder' : u.arb.holder = .ingest := by rw [fields.2.1, holder]
  simp [execSettleEnd, phase, holder, phase', holder', settleClose_of_ingestFinished h]

end Sys2Proof.Machine
end

