-- ==== Sys2Proof/WellFormed.lean ====
section
/-! DEFINITION. Which events can be sent at all, by the sizes the packet formats and the bus give their operands. -/

namespace Sys2Proof

/-- A bus transaction moves at most 16 data bytes (08 8.1), and the bytes sent after a device address are at most two of the
register address and sixteen of data, numbered from 0 (R147). -/
def BusEnd.wellFormed : BusEnd → Bool
  | .done data => decide (data.length ≤ 16)
  | .nackAddress _ => true
  | .nackData index => decide (index ≤ 17)

/-- A LINE's pixel count field is two bytes (R45), so it carries at most 65,535 words. The other operands are bounded by
their types. -/
def Instr.wellFormed : Instr → Bool
  | .line _ words _ => decide (words.length ≤ 65535)
  | .busTransactionEnd outcome => outcome.wellFormed
  | _ => true

end Sys2Proof
end

