-- ==== Sys2Proof/Tests/Slice0.lean ====
section
/-! SUPPORT. The model's own tests: the checks of WellFormed, the worked examples of the spec, one small step of each command, and
for every obligation with hypotheses a state that meets them. Expected values are the spec's, or worked by hand from its rules. -/

namespace Sys2Proof.Tests
open Sys2Proof Sys2Proof.Machine

/-! ### WellFormed: an ill-formed term for each check -/

theorem test_line_of_too_many_words_refused :
    (Instr.line 0#16 (List.replicate 65536 0#16) (some 0#16)).wellFormed = false := by
  simp only [Instr.wellFormed, List.length_replicate]
  decide

theorem test_bus_end_of_too_many_bytes_refused :
    (Instr.busTransactionEnd (.done (List.replicate 17 0#8))).wellFormed = false := by decide

theorem test_nack_beyond_last_byte_refused : (Instr.busTransactionEnd (.nackData 18)).wellFormed = false := by decide

theorem test_bus_end_at_the_limits_accepted :
    (Instr.busTransactionEnd (.done (List.replicate 16 0#8))).wellFormed = true
      ∧ (Instr.busTransactionEnd (.nackData 17)).wellFormed = true := by decide

/-! ### No word spells a command (log 33) -/

theorem test_no_word_decodes : decodeTableWord 8 0 = none ∧ State.reset.withFetchWord 8 0 = State.reset := ⟨rfl, rfl⟩

/-! ### The checks of R192 -/

theorem test_crc_of_zero_byte : crc16 [0x00#8] = 0xE1F0#16 := by decide

theorem test_crc_of_nine_digits :
    crc16 [0x31#8, 0x32#8, 0x33#8, 0x34#8, 0x35#8, 0x36#8, 0x37#8, 0x38#8, 0x39#8] = 0x29B1#16 := by decide +kernel

/-! ### The horizon example of 5.3 -/

def threeVertices : List Vertex := [⟨0, 2100⟩, ⟨2400, 1800⟩, ⟨5999, 2300⟩]

theorem test_horizon_rows :
    horizonRow threeVertices 1000 = some 1975 ∧ horizonRow threeVertices 2400 = some 1800
      ∧ horizonRow threeVertices 4000 = some 2022 ∧ horizonRow threeVertices 5999 = some 2300 := by decide

/-! ### The worked sequences of spec 05 -/

def worked : Policy := { Policy.default with warmup := 3 }

def afterFour : Pixel := { Pixel.cleared with n := 4, m16 := 1616, m2 := 5136 }

theorem test_worked_welford_sequence :
    welford (welford (welford (welford Pixel.cleared 100) 104) 98) 102 = afterFour
      ∧ visitLight worked (fun _ => false) 5 afterFour (some 400)
        = { pixel := afterFour, tally := .rejected, flagged := true, outlier := false } := by decide

def peaked : Policy := { worked with mode := .peak }

/-- The GROUND pixel at the end of record 16's visit. -/
def crossed : Pixel :=
  { Pixel.cleared with n := 4, m16 := 4808, m2 := 122676888, peak := some 104, pending := some (900, 16) }

theorem test_worked_peak_sequence :
    (visitLight peaked (fun _ => false) 16 { Pixel.cleared with n := 3, m16 := 1611, m2 := 4800, peak := some 104 } (some 900))
        = { pixel := crossed, tally := .admitted, flagged := true, outlier := true }
      ∧ (visitLight peaked (fun sf => decide (sf = 16)) 17 crossed (some 102)).pixel
        = { Pixel.cleared with n := 5, m16 := 4173, m2 := 130747104, peak := some 104 } := by decide

def fading : Policy := { peaked with mode := .peakFade }

theorem test_worked_fade :
    fadePeak fading { afterFour with peak := some 900 } = { afterFour with peak := some 819 }
      ∧ fadePeak fading { afterFour with peak := some 819 } = { afterFour with peak := some 746 }
      ∧ fadePeak fading { afterFour with peak := some 746 } = { afterFour with peak := some 680 } := by decide

/-! ### The worked dark-scaling case of 4.8 -/

def eightDarks : Calibration :=
  { cursor := 0, darkCount := 8, darkExposure := 240000000, darkTempTotal := 336, darkTempCount := 8, scale := none }

def threePoints : List CurvePoint := [⟨0, 2048⟩, ⟨24, 4096⟩, ⟨48, 8192⟩]

theorem test_worked_scale :
    scaleOf threePoints eightDarks 30120000 (some 16) = some 1958
      ∧ scaleSaturates threePoints eightDarks 30120000 (some 16) = false
      ∧ scaleOf threePoints eightDarks 30120000 none = some 4112
      ∧ scaleOf threePoints eightDarks 600000000 none = some 65535
      ∧ scaleSaturates threePoints eightDarks 600000000 none = true := by decide

theorem test_worked_samples :
    calibratedSample 512 (some 1958) { Pixel.cleared with darkN := 8, darkSum := 148 } 1800 = 1279
      ∧ calibratedSample 512 (some 1958) { Pixel.cleared with darkN := 8, darkSum := -20 } 505 = -7
      ∧ calibratedSample 512 (some 65535) { Pixel.cleared with darkN := 8, darkSum := 16000 } 3000 = -4096 := by decide

/-! ### Trails: the row of the merge in 6.8 -/

theorem test_segments_of_a_row :
    keptSegments Params.reset (([3000, 3001, 3002, 3004, 3005, 4100] : List Nat).map fun c => (c, Region.sky))
      = [{ left := 3000, right := 3005, flagged := 5, sky := true, ground := false }] := by decide

def t1 : OpenTrail :=
  { firstRow := 1500, lastRow := 1527, minCol := 3000, maxCol := 3059, spanLeft := 3054, spanRight := 3059, flagged := 161,
    sky := true, ground := false }

def t2 : OpenTrail :=
  { firstRow := 1525, lastRow := 1527, minCol := 3064, maxCol := 3069, spanLeft := 3064, spanRight := 3067, flagged := 12,
    sky := true, ground := false }

theorem test_merge_of_two_trails :
    (takeSegment 1528 { left := 3056, right := 3066, flagged := 10, sky := true, ground := false }
      { State.reset with trails.openTrails := [t1, t2] }).trails.openTrails
      = [{ t1 with lastRow := 1528, maxCol := 3069, spanLeft := 3056, spanRight := 3066, flagged := 183 }] := by decide

/-! ### The worked outputs of 7.6 -/

theorem test_worked_outputs :
    meanOutput 256 afterFour = some 660 ∧ meanOutput 256 { Pixel.cleared with n := 9, m16 := 1618 } = some 661
      ∧ meanOutput 256 { Pixel.cleared with n := 12, m16 := -2000 } = some 0
      ∧ meanOutput 256 { Pixel.cleared with sat := 7 } = some 65535 ∧ meanOutput 256 Pixel.cleared = none
      ∧ peakOutput 256 (fun _ => true) crossed = some 672 ∧ peakOutput 256 (fun _ => false) crossed = some 3856
      ∧ peakOutput 256 (fun _ => false) { Pixel.cleared with peak := some 16383 } = some 65535
      ∧ peakOutput 256 (fun _ => false) { Pixel.cleared with peak := some (-30) } = some 136 := by decide

theorem test_worked_hole_fill :
    let row := ([none, some 700, none, none, some 820, none, none, some 65535, none, none] : List (Option Nat)).foldl
      (fun w own => w.add own true) (RowOutput.start 256)
    row.values.reverse = [256, 700, 256, 700, 820, 700, 820, 65535, 820, 65535] ∧ row.holes = 7 ∧ row.fullScale = 1 := by decide

/-! ### The heater case of 2.7 and the register of 8.6 -/

theorem test_worked_heater :
    interpolate [⟨200, 340⟩, ⟨512, 100⟩, ⟨900, -120⟩] 600 = some 50
      ∧ heaterDuty [⟨-40, 256⟩, ⟨20, 128⟩, ⟨60, 0⟩] (some 50) = 32 ∧ activeTime 32 = 1250 := by decide

theorem test_worked_register :
    convertPoll 64 0 [0x00#8, 0xC4#8] = 49 ∧ convertPoll 64 0 [0x00#8, 0xBE#8] = 48 ∧ convertPoll 64 0 [0xFF#8, 0xBA#8] = -18
      ∧ convertPoll 64 0 [0x07#8, 0xD0#8] = 340 := by decide

theorem test_worked_feedback :
    feedbackTime { armed := true, startCapture := some 35200, endCapture := some 30041200 } = some 30006000 := by decide

/-! ### States for the tests -/

/-- The state a command answers. -/
def after (o : Out) : State :=
  match o with
  | .next t => t
  | _ => State.reset

/-- Both links locked. -/
def up : State := { State.reset with out.locked := true, link.locked := true }

/-- Both links locked, and the hold on, so that what is queued stays in the queue. -/
def held : State := { up with out.held := true }

def request (kind : Byte) (payload : List Byte) : Request := { tag := 7#8, kind := kind, payload := payload }

/-- The state with this one request in the Request Queue. -/
def asked (kind : Byte) (payload : List Byte) (s : State) : State := { s with port.requests := [request kind payload] }

theorem asked_can_be_taken (kind : Byte) (payload : List Byte) (s : State) (unmarked : s.port.waiting = none)
    (room : s.out.queue.length < 16) (locked : s.out.locked = true) :
    CanTake (asked kind payload s) kind.toNat (request kind payload) := ⟨rfl, rfl, unmarked, room, locked⟩

/-- What one request is answered with, from a state of the hold. -/
def answerTo (c : Instr) (kind : Byte) (payload : List Byte) (s : State) : Option QueuedPacket :=
  (after (exec c (asked kind payload s))).out.queue.head?

def light : PlanStep :=
  { kind := .light, count := 2, exposure := 1000, gap := 0, cadence := .internal, forward := false, stepLevel := true,
    scriptFirst := 0, scriptCount := 0 }

def dark : PlanStep := { light with kind := .dark, count := 1, stepLevel := false }

def planned (steps : List PlanStep) (s : State) : State := { s with tables.plan := { state := .ready, entries := steps } }

/-- A take of one light step in a frame of four by two, in this phase. -/
def running (p : Phase) (s : State) : State :=
  { planned [light] s with
    seq.takeState := .running, seq.phase := p, seq.planeValid := true, settings.width := 4, settings.height := 2 }

def inTake (t : TakeState) (s : State) : State :=
  { planned [light] s with
    seq.takeState := t, seq.planeValid := t.planeValid, settings.width := 4, settings.height := 2,
    arb.holder := if t = .clearing then .clearing else .none }

def record1 : SubframeRecord := SubframeRecord.opening 1 0 light

def inExpose (s : State) : State :=
  { running .expose s with log.openRecord := some record1, seq.exposureTimer := some 1000, meas.armed := true }

/-- A PREVIEW is in hand and has the plane. -/
def rendering (s : State) : State :=
  { s with render.state := .active, arb.holder := .render, render.startBegun := true }

def inHold (s : State) : State :=
  { rendering (running .hold s) with
    log.openRecord := some record1, seq.holdStart := 1000, seq.extensionTimer := some 5000, arb.waiting := .ingest,
    meas.armed := true }

def inReadout (s : State) : State :=
  { running .readout s with
    log.openRecord := some record1, arb.holder := .ingest, seq.readoutTimer := some 9000, meas.armed := true,
    link.readout := some { kind := .light, forward := false, seenFrame := false } }

/-- The subframe frame is in progress. -/
def inFrame (s : State) : State :=
  { inReadout s with
    link.frame := .subframe, link.readout := some { kind := .light, forward := false, seenFrame := true } }

def inSettle (s : State) : State := { running .settle s with log.openRecord := some record1, arb.holder := .ingest }

/-- A line of LINES for L0. -/
def listed (e : LineEntry) (s : State) : State := { s with tables.lines := { state := .ready, entries := [e] } }

def userLine : LineEntry := { line := 0, flags := 0#8, use := .output .user 500 }
def feedbackLine : LineEntry := { line := 0, flags := 0#8, use := .input .expFeedback 200 }
def triggerLine : LineEntry := { line := 0, flags := 0#8, use := .input .triggerIn 0 }
def pauseLine : LineEntry := { line := 0, flags := 2#8, use := .input .pauseIn 0 }
def stopLine : LineEntry := { line := 0, flags := 1#8, use := .input .stopIn 0 }

/-- The sensor bridge with device 0x50 allowed. -/
def allowed (s : State) : State := { s with tables.bridgeAllow := { state := .ready, entries := [0x50] } }

def relay1 (state : RelayState) : Relay :=
  { tag := 9#8, device := 0x50, reg := { wide := true, addr := 0x3012 }, access := .read 2, state := state }

def onWire (claimant : Claimant) (access : BusAccess) : Transaction :=
  { claimant := claimant, device := 0x50, reg := { wide := true, addr := 0x3012 }, access := access }

def flight (claimant : Claimant) (access : BusAccess) : InFlight :=
  { transaction := onWire claimant access, speed := 400, actions := busActions (onWire claimant access) }

/-- A transaction is on the bus. -/
def busy (claimant : Claimant) (access : BusAccess) (s : State) : State :=
  { allowed s with bridge.state := .busy, bridge.inFlight := some (flight claimant access) }

def entryOf (device : Nat) : ScriptEntry := { device := device, reg := { wide := false, addr := 1 }, data := [1#8] }

/-- BRIDGE_SCRIPT holds an entry for a device not allowed and two for one that is. -/
def scripted (s : State) : State :=
  { allowed s with tables.bridgeScript := { state := .ready, entries := [entryOf 0x51, entryOf 0x50, entryOf 0x50] } }

/-- A step that runs these indices. -/
def runs (first count : Nat) : PlanStep := { light with scriptFirst := first, scriptCount := count }

/-! ### One step of each command -/

theorem test_power_on : (after (exec (.powerOn 0b000100#6) up)).lines.l2.accepted = true
    ∧ (after (exec (.powerOn 0b000100#6) up)).lines.l1.accepted = false := by decide

theorem test_reset_n : (after (exec .resetN { up with lines.l3.outside := true })).lines.l3.accepted = true
    ∧ (after (exec .resetN up)).out.locked = false := by decide

/-- The sixth request hands over HOLD_REQ at once (R174). -/
theorem test_request_arrival :
    (after (exec (.requestArrival 1#8 17#8 0#8 [] (crc16 [0x21#8, 1#8, 17#8, 0#8]))
      { up with port.requests := List.replicate 5 (request 17 []) })).out.sent = [.symbol .holdReq] := by decide +kernel

theorem test_request_with_a_bad_crc :
    after (exec (.requestArrival 1#8 17#8 0#8 [] 0#16) up) = up := by decide +kernel

theorem test_unknown_kind : answerTo .requestUnknownKind 24#8 [] held = some (.reply 7#8 24#8 .unknownKind []) := by decide

theorem test_table_open : answerTo .tableOpen 1#8 [0#8] (planned [light] held) = some (.reply 7#8 1#8 .ok [1#8, 0#8, 0#8]) := by
  decide

/-- The second of two equal addresses conflicts: position 2, one appended, length 1 (R149, R180). -/
theorem test_table_append :
    answerTo .tableAppend 2#8 [9#8, 2#8, 0x50#8, 0x50#8] { held with tables := held.tables.opened .bridgeAllow }
      = some (.reply 7#8 2#8 .tableConflict [2#8, 1#8, 0#8, 1#8]) := by decide

theorem test_table_close_empty :
    answerTo .tableClose 3#8 [9#8] { held with tables := held.tables.opened .bridgeAllow }
      = some (.reply 7#8 3#8 .ok [0#8, 0#8, 0#8]) := by decide

theorem test_table_read :
    answerTo .tableRead 4#8 [9#8, 0#8, 0#8, 15#8] (allowed held)
      = some (.reply 7#8 4#8 .ok [2#8, 0#8, 1#8, 0#8, 0#8, 0x50#8]) := by decide

/-- 8193 is clamped to 8192 (R184). -/
theorem test_param_set :
    answerTo .paramSet 5#8 [1#8, 0#8, 0#8, 0x20#8, 1#8] held = some (.reply 7#8 5#8 .okClamped [1#8, 0#8, 0#8, 0x20#8, 0#8]) := by
  decide

/-- The default readout timeout is 1000 ms. -/
theorem test_param_get : answerTo .paramGet 6#8 [11#8] held = some (.reply 7#8 6#8 .ok [11#8, 0#8, 0#8, 3#8, 0xE8#8]) := by decide

theorem test_take_start :
    answerTo .takeStart 7#8 [] (planned [dark, light] held) = some (.reply 7#8 7#8 .ok [0#8, 3#8, 1#8, 0#8, 0#8])
      ∧ (after (exec .takeStart (asked 7#8 [] (planned [dark, light] held)))).seq.takeState = .clearing := by decide

theorem test_take_start_of_darks_only :
    answerTo .takeStart 7#8 [] (planned [dark] held) = some (.reply 7#8 7#8 .planInvalid [3#8, 0#8, 0#8]) := by decide

theorem test_take_pause : (after (exec .takePause (asked 8#8 [] (running .wait held)))).seq.takeState = .paused
    ∧ (after (exec .takePause (asked 8#8 [] (inExpose held)))).seq.pausePending = true := by decide

theorem test_take_resume :
    (after (exec .takeResume (asked 9#8 [] (planned [{ light with gap := 70 }] (inTake .paused held))))).seq.gapTimer = some 70 := by
  decide

/-- A step not started hands all its indices over from the first: on a busy bus its entry waits, and the next one is to come (R18,
R157). -/
theorem test_take_resume_hands_over_again :
    let t := after (exec .takeResume (asked 9#8 [] { planned [runs 1 2] (scripted (busy .relay (.read 2) (inTake .paused held))) with
      seq.notStarted := true }))
    t.seq.phase = .stepStart ∧ t.seq.scriptLeft = [2] ∧ t.bridge.state = .busy
      ∧ t.bridge.waitingScript.map Transaction.claimant = some (.script 0 1 true) := by decide

theorem test_take_stop : (after (exec .takeStop (asked 10#8 [] (inTake .paused held)))).seq.takeState = .complete := by decide

theorem test_take_finish : (after (exec .takeFinish (asked 11#8 [] (inTake .complete held)))).seq.takeState = .finishing
    ∧ (after (exec .takeFinish (asked 11#8 [] (inTake .complete held)))).render.kind = .final := by decide

/-- From WAIT of an INTERNAL step, COMPLETE makes READY active and FINISHING inactive: the line of L0 goes active for its
min_pulse (R29, R35). -/
theorem test_finish_pulses_ready :
    let t := after (exec .takeFinish (asked 11#8 []
      (listed { line := 0, flags := 0#8, use := .output .ready 500 } (running .wait held))))
    signalReady t = false ∧ t.lines.l0.driven = true ∧ t.lines.l0.minTimer = some 500 := by decide

theorem test_take_abort : (after (exec .takeAbort (asked 12#8 [] (inExpose held)))).seq.closeAbandoned = true
    ∧ (after (exec .takeAbort (asked 12#8 [] (inTake .finished held)))).seq.takeState = .aborted := by decide

theorem test_take_clear : (after (exec .takeClear (asked 13#8 [] (inTake .complete held)))).seq.takeState = .noTake := by decide

theorem test_render_preview :
    answerTo .renderPreview 14#8 [] { inTake .complete held with render.nextId := 37 }
      = some (.reply 7#8 14#8 .accepted [0#8, 37#8])
      ∧ answerTo .renderPreview 14#8 [] (inTake .aborted held) = some (.reply 7#8 14#8 .invalidPlane []) := by decide

theorem test_render_repeat : answerTo .renderRepeat 15#8 [] (inTake .finished held) = some (.reply 7#8 15#8 .accepted [0#8, 0#8])
    ∧ answerTo .renderRepeat 15#8 [] (inTake .complete held) = some (.reply 7#8 15#8 .badState []) := by decide

theorem test_log_read :
    answerTo .logRead 16#8 [0#8, 1#8, 4#8] { held with log.closed := [record1] }
      = some (.reply 7#8 16#8 .ok (1#8 :: record1.bytes)) ∧ record1.bytes.length = 63 := by decide

theorem test_status_read : (statusBytes up).length = 33 := by decide

theorem test_bridge_write_blocked :
    answerTo .bridgeWrite 18#8 [0x50#8, 16#8, 0x30#8, 0x12#8, 1#8, 0xAA#8] held = some (.reply 7#8 18#8 .blocked []) := by decide

theorem test_bridge_read_in_fault :
    answerTo .bridgeRead 19#8 [0x50#8, 16#8, 0x30#8, 0x12#8, 2#8] { allowed held with bridge.state := .fault }
      = some (.reply 7#8 19#8 .busStuck []) := by decide

theorem test_bridge_recover :
    (after (exec .bridgeRecover (asked 20#8 [] { held with bridge.state := .fault }))).port.waiting = some (.train 7#8 20#8) := by
  decide

theorem test_bridge_recover_done :
    (after (exec (.bridgeRecoverDone true)
      { held with bridge.state := .fault, bridge.train := some 400, port.waiting := some (.train 7#8 20#8) })).out.queue
      = [.reply 7#8 20#8 .ok [0#8]] := by decide

/-- A BRIDGE_RECOVER taken while a train runs whose request was lost gets a train of its own: two are sent, and the second answers
it (R152). -/
theorem test_bridge_recover_behind_a_train :
    let taken := after (exec .bridgeRecover (asked 20#8 [] { held with bridge.state := .fault, bridge.train := some 100 }))
    let first := after (exec (.bridgeRecoverDone true) taken)
    let second := after (exec (.bridgeRecoverDone false) first)
    first.out.queue = [] ∧ first.bridge.train = some 400 ∧ second.out.queue = [.reply 7#8 20#8 .busStuck []]
      ∧ second.bridge.bus = [ninePulses 400, ninePulses 100] := by decide

/-- The line follows at once, and its minimum pulse runs from the change (R29). -/
theorem test_line_level :
    (after (exec .lineLevel (asked 21#8 [0#8, 1#8] (listed userLine held)))).lines.l0.driven = true
      ∧ (after (exec .lineLevel (asked 21#8 [0#8, 1#8] (listed userLine held)))).lines.l0.minTimer = some 500 := by decide

theorem test_line_read :
    answerTo .lineRead 22#8 [] (listed stopLine held)
      = some (.reply 7#8 22#8 .ok ([0#8, 4#8, 5#8] ++ List.replicate 15 0#8)) := by decide

theorem test_part_reset :
    let t := after (exec .partReset (asked 23#8 [] (inExpose held)))
    t.out.inProgress = some (.queued (.reply 7#8 23#8 .ok []))
      ∧ t.out.queue = [.report .takeState false [0#8, 0#8, 0#8, 0#8, 0#8]] := by decide

theorem test_waiting_reply :
    (after (exec .waitingReplyQueued { held with port.waiting := some (.due (.reply 7#8 20#8 .ok [0#8])) })).out.queue
      = [.reply 7#8 20#8 .ok [0#8]] := by decide

theorem test_relay_reply :
    (after (exec .relayReplyQueued { held with bridge.relays := [relay1 (.replyWaiting .done [1#8, 2#8])] })).out.queue
      = [.reply 9#8 19#8 .done [0#8, 1#8, 2#8]] := by decide

/-- A relay found waiting by the loss of lock is not answered after the regain (R155, R171). -/
theorem test_relay_of_a_lost_link :
    (after (exec .linkOutLockRegain { State.reset with bridge.relays := [relay1 (.replyWaiting .done []), relay1 .onBus] })).bridge.relays
      = [relay1 .onBus] := by decide

def trail2 : TrailRecord :=
  { subframe := 88, number := 2, box := { firstRow := 1500, lastRow := 1579, minCol := 3000, maxCol := 3163 }, flagged := 489,
    sky := true, ground := false, vetoing := true }

/-- The close of T1 at row 1583 of 6.8: number 2, its box second in the list, vetoing, queued. -/
theorem test_close_of_a_trail :
    let s := { State.reset with
      log.openRecord := some { record1 with index := 88 }, trails.counter := 2, trails.current := ⟨some 88, [⟨0, 0, 0, 0⟩]⟩ }
    let u := closeTrail { t1 with lastRow := 1579, maxCol := 3163, flagged := 489 } s
    u.trails.counter = 3 ∧ u.trails.current.boxes = [⟨0, 0, 0, 0⟩, ⟨1500, 1579, 3000, 3163⟩] ∧ u.trails.queue = [trail2]
      ∧ u.log.openRecord = some { record1 with index := 88, trails := 1 } := by decide

theorem test_trail_drain :
    (after (exec .trailQueueDrain { held with trails.queue := [trail2] })).out.queue
      = [.report .trail false [0#8, 88#8, 2#8, 1#8, 1#8, 5#8, 0xDC#8, 6#8, 0x2B#8, 11#8, 0xB8#8, 12#8, 0x5B#8, 0#8, 0#8, 1#8,
          0xE9#8]] := by decide

theorem test_hold_out : (after (exec .holdOut up)).out.held = true := by decide

theorem test_go_out :
    (after (exec .goOut { held with out.queue := [.reply 1#8 17#8 .ok []] })).out.inProgress
      = some (.queued (.reply 1#8 17#8 .ok [])) := by decide

theorem test_unknown_symbol : after (exec .controlSymbolUnknown up) = up := by decide

/-- The three layouts of 11.2, a frame packet of a wrong length and an unknown type. -/
theorem test_link_in_packets :
    linkInCommand [0x01#8, 0x12#8, 0x34#8] = .frameStart 0x1234#16
      ∧ linkInCommand [0x02#8, 0#8, 5#8, 0#8, 1#8, 0x3F#8, 0xFE#8, 0xAB#8, 0xCD#8] = .line 5#16 [0x3FFE#16] (some 0xABCD#16)
      ∧ linkInCommand [0x03#8, 0x0F#8, 0xA0#8] = .frameEnd 4000#16
      ∧ linkInCommand [0x01#8, 0x12#8] = .linkInPacketDiscard ∧ linkInCommand [0x11#8, 0#8, 0#8] = .linkInPacketDiscard := by
  decide

/-- A LINE with a byte behind its CRC, and one whose count gives more words than it has (log 39). -/
theorem test_link_in_lines_of_other_lengths :
    linkInCommand [0x02#8, 0#8, 5#8, 0#8, 1#8, 0x3F#8, 0xFE#8, 0xAB#8, 0xCD#8, 0xFF#8] = .line 5#16 [0x3FFE#16] (some 0xABCD#16)
      ∧ linkInCommand [0x02#8, 0#8, 5#8, 0#8, 2#8, 0x3F#8, 0xFE#8, 0xAB#8, 0xCD#8] = .line 5#16 [0x3FFE#16, 0xABCD#16] none := by
  decide

theorem test_link_in_gained : (after (exec .linkInLockGained State.reset)).link.locked = true := by decide

theorem test_link_in_lost : (after (exec .linkInLockLost (inFrame up))).seq.phase = .settle := by decide

theorem test_frame_start : (after (exec (.frameStart 0x0102#16) (inReadout up))).link.frame = .subframe
    ∧ (after (exec (.frameStart 0x0102#16) up)).link.strayCount = 1 := by decide

/-- Row 1 in order skips row 0, and as row height - 1 ends the readout (R52, R53). -/
theorem test_line :
    let words : List Half := [0x4001#16, 0xFFFF#16, 3#16, 4#16]
    let t := after (exec (.line 1#16 words (some (crc16 (lineBytes 1#16 words)))) (inFrame up))
    t.log.openRecord.map SubframeRecord.lost = some 4 ∧ rowState t 0 = .lost ∧ t.seq.phase = .settle
      ∧ t.fifo.entries.map FifoEntry.pixels = [some [1, 16383, 3, 4]] := by decide +kernel

/-- A LINE that ends before its CRC loses the next row, which enters as a marker (R46, R52, R53). -/
theorem test_line_without_crc :
    let t := after (exec (.line 1#16 [1#16] none) (inFrame up))
    t.log.openRecord.map SubframeRecord.lost = some 4 ∧ t.link.lastRow = some 0 ∧ t.fifo.entries.map FifoEntry.pixels = [none] := by
  decide +kernel

theorem test_frame_end : (after (exec (.frameEnd 0#16) (inFrame up))).seq.phase = .settle := by decide

/-- A relay passed over in READOUT is selected at its end, and is BLOCKED when its address is no longer allowed (R150, R153). -/
theorem test_frame_end_selects_relay :
    (after (exec (.frameEnd 0#16) { inFrame up with bridge.relays := [relay1 .waiting] })).bridge.relays
      = [relay1 (.replyWaiting .blocked [])] := by decide

theorem test_packet_discard : after (exec .linkInPacketDiscard up) = up := by decide

theorem test_link_out_loss : (after (exec .linkOutLockLoss (inHold up))).seq.phase = .readout
    ∧ (after (exec .linkOutLockLoss (inHold up))).port.lostReports = true := by decide

theorem test_link_out_regain :
    (after (exec .linkOutLockRegain State.reset)).out.inProgress
      = some (.queued (.report .takeState false [0#8, 0#8, 0#8, 0#8, 0#8])) := by decide

theorem test_packet_end :
    (after (exec .linkOutPacketEnd
      { rendering (inTake .complete up) with
        out.inProgress := some (.render (.line .preview 1 []) true), render.row := 1, render.rowHanded := true })).render.state = .idle := by decide

/-- Four cleared records are four holes, at Bo (R139). -/
theorem test_row_read :
    (after (exec .renderRowRead (rendering (inTake .complete held)))).out.renderQueue = [.line .preview 0 [0, 0, 0, 0]]
      ∧ (after (exec .renderRowRead (rendering (inTake .complete held)))).render.holes = 4 := by decide

theorem test_clearing_complete :
    (after (exec .clearingPassComplete (inTake .clearing held))).seq.exposureTimer = some 1000 := by decide

/-- An index beyond the table is NO_ENTRY, and an address not allowed BLOCKED, in the order of the indices; a step whose entries have
all ended goes on (R7, R150, R157). -/
theorem test_clearing_reports_refused_entries :
    let complete := fun st : PlanStep => after (exec .clearingPassComplete { planned [st] (scripted (inTake .clearing held)) with
      params.reportMask := 0b01000000#8 })
    (complete (runs 3 1)).out.queue = [.report .scriptResult false [0#8, 3#8, 6#8, 0#8]]
      ∧ (complete (runs 0 1)).out.queue = [.report .scriptResult false [0#8, 0#8, 5#8, 0#8]]
      ∧ (complete (runs 0 1)).seq.phase = .expose := by decide

theorem test_settle_expiry :
    (after (exec .shutterSettleExpiry { running .stepStart held with seq.settleTimer := some 10 })).seq.phase = .expose := by
  decide

theorem test_gap_expiry :
    (after (exec .gapTimerExpiry { running .wait held with seq.gapTimer := some 10 })).seq.exposureTimer = some 1010 := by decide

theorem test_exposure_expiry : (after (exec .exposureTimerExpiry (inExpose held))).seq.phase = .readout
    ∧ (after (exec .exposureTimerExpiry (rendering (inExpose held)))).seq.phase = .hold := by decide

/-- HOLD from 1000 to 5000 joins held_us (R11). -/
theorem test_extension_expiry :
    (after (exec .extensionTimerExpiry (inHold held))).log.openRecord.map SubframeRecord.heldUs = some 4000
      ∧ (after (exec .extensionTimerExpiry (inHold held))).out.renderQueue = [.frameEnd .preview 0 true] := by decide

/-- A stray frame in progress ends with the readout (R55). -/
theorem test_readout_expiry_ends_stray_frame :
    (after (exec .readoutTimerExpiry { inReadout held with link.frame := .stray })).link.frame = .none := by decide

theorem test_readout_expiry : (after (exec .readoutTimerExpiry (inReadout held))).seq.phase = .settle := by decide

/-- A row of the frame waits for ingest. -/
def entry0 : FifoEntry :=
  { number := 0, row := 0, pixels := some [300, 16383, 256, 200], cls := .subframe, ingestDone := false, forward := .notRequested,
    frame := none }

/-- 300 - 256 = 44 is admitted, and 16383 is saturated (R73, R83). -/
theorem test_ingest :
    let t := after (exec .ingestEntry { inReadout held with fifo.entries := [entry0] })
    t.log.openRecord.map SubframeRecord.admitted = some 3 ∧ t.log.openRecord.map SubframeRecord.saturated = some 1
      ∧ (readPixel t 0).m16 = 704 ∧ (readPixel t 1).sat = 1 ∧ t.fifo.entries = [] := by decide +kernel

/-- No row arrived: eight samples are lost, and the record is MISSING (R24, R57). -/
theorem test_settle_end :
    let t := after (exec .settleEnd (inSettle held))
    t.log.closed.map SubframeRecord.lost = [8] ∧ t.log.closed.map SubframeRecord.outcome = [some .missing]
      ∧ t.seq.count = 1 := by decide +kernel

/-- In a PEAK region the pending value of an UNSEEN row is settled at the close, and that of an INGESTED row waits on (R57, R102). -/
theorem test_settle_end_commits :
    let s := { inSettle held with settings.sky := peaked, plane := [(0, crossed), (4, crossed)], link.rowMap := [(1, .ingested)] }
    (after (exec .settleEnd s)).plane = [(0, { crossed with peak := some 900, pending := none }), (4, crossed)] := by decide +kernel

theorem test_min_pulse_expiry :
    (after (exec (.minPulseExpiry 0) { listed userLine up with lines.l0.driven := true, lines.l0.minTimer := some 9 })).lines.l0.driven
      = false := by decide

theorem test_input_pin : (after (exec (.inputPinChange 0 true) (listed pauseLine (running .wait held)))).seq.takeState = .paused
    ∧ (after (exec (.inputPinChange 0 true) (listed feedbackLine held))).lines.l0.debounceTimer = some 200 := by decide

theorem test_debounce_expiry :
    (after (exec (.debounceExpiry 0)
      { listed feedbackLine (inExpose held) with lines.l0.outside := true, lines.l0.debounceTimer := some 450 })).meas.startCapture
      = some 450 := by decide

theorem test_adc_conversion :
    (after (exec (.adcConversion .th1 600#10)
      { held with
        temps.due := .th1, tables.adcCurve1 := { state := .ready, entries := [⟨200, 340⟩, ⟨512, 100⟩, ⟨900, -120⟩] } })).temps.th1
      = some 50 := by decide

/-- TH0 and then TH1, once each: neither TH1 first nor TH0 twice running is converted (R40). -/
theorem test_conversions_alternate :
    after (exec (.adcConversion .th1 600#10) up) = up
      ∧ (after (exec (.adcConversion .th0 600#10) up)).temps.due = .th1 := by decide

theorem test_pwm_period : (after (exec .heaterPwmPeriod { held with heater.duty := 32 })).heater.activeUs = 1250 := by decide

theorem test_pwm_active_end :
    (after (exec .pwmActiveEnd { held with heater.pwmActive := true, heater.activeUs := 1250 })).now = 1250 := by decide

theorem test_poll_claim :
    (after (exec .pollClaim { busy .relay (.read 2) held with params.pollDevice := 0x50, seq.pollAt := some 5 })).bridge.waitingPoll.isSome
      = true := by decide

theorem test_bus_end :
    (after (exec (.busTransactionEnd (.done [0#8, 196#8])) (busy (.poll 1 64 0) (.read 2) held))).bridge.lastGood = some 49 := by
  decide

/-- A poll of exposure 1 that ends in exposure 2 sets the value and is not exposure 2's poll; exposure 1's own is (R159, R161). -/
theorem test_leftover_poll_not_counted :
    let ends := fun k : Nat => after (exec (.busTransactionEnd (.done [0#8, 196#8]))
      { busy (.poll 1 64 0) (.read 2) held with seq.exposureNumber := k })
    (ends 2).bridge.lastGood = some 49 ∧ (ends 2).seq.pollDone = false ∧ (ends 1).seq.pollDone = true := by decide

/-- A WRITE and a READ of the 16-bit register 3012H of device 50H, byte by byte (R147). -/
theorem test_bytes_on_the_bus :
    busActions (onWire .relay (.write [0xAA#8]))
        = [.start, .address 0x50 .write, .send 0x30#8, .send 0x12#8, .send 0xAA#8, .stop]
      ∧ busActions (onWire .relay (.read 2))
        = [.start, .address 0x50 .write, .send 0x30#8, .send 0x12#8, .start, .address 0x50 .read, .take true, .take false,
          .stop] := by decide

/-- The third byte of a WRITE is refused, and of a READ the address in either direction: the stop follows at once (R148). -/
theorem test_refused_on_the_bus :
    let ended := fun (access : BusAccess) (o : BusEnd) =>
      (after (exec (.busTransactionEnd o) (busy .relay access held))).bridge.bus.map BusRun.actions
    ended (.write [0xAA#8, 0xBB#8]) (.nackData 2)
        = [[.start, .address 0x50 .write, .send 0x30#8, .send 0x12#8, .send 0xAA#8, .stop]]
      ∧ ended (.read 2) (.nackAddress .write) = [[.start, .address 0x50 .write, .stop]]
      ∧ ended (.read 2) (.nackAddress .read)
        = [[.start, .address 0x50 .write, .send 0x30#8, .send 0x12#8, .start, .address 0x50 .read, .stop]] := by decide

/-- While Link Out is unlocked the reply is discarded at the transaction's end, and the relay leaves its queue (R171). -/
theorem test_bus_timeout_while_unlocked :
    (after (exec .busClockTimeout { busy .relay (.read 2) State.reset with bridge.relays := [relay1 .onBus] })).bridge.relays = [] := by
  decide

theorem test_bus_timeout :
    (after (exec .busClockTimeout
      { busy .relay (.read 2) held with bridge.relays := [relay1 .onBus] })).bridge.relays.map Relay.state
      = [.replyWaiting .timeout []] := by decide

theorem test_idle_step : step State.reset = .next { State.reset with now := 1 } := rfl

/-! ### States that meet the hypotheses of the obligations -/

theorem witness_StepRunsFrontCommand :
    { up with pending := [.holdOut, .goOut] }.pending = .holdOut :: [.goOut] ∧ up.pending = [] := ⟨rfl, rfl⟩

def edge : State :=
  { up with
    fifo.entries := List.replicate 48 entry0, out.queue := List.replicate 16 (.reply 1#8 17#8 .ok []), out.rawRun := 32,
    port.requests := List.replicate 8 (request 17 []), bridge.relays := List.replicate 4 (relay1 .waiting),
    trails := {
      openTrails := List.replicate 16 t1, counter := 256, current := ⟨some 2, List.replicate 16 trail2.box⟩,
      previous := ⟨some 1, List.replicate 16 trail2.box⟩, queue := List.replicate 32 trail2 },
    link.strayCount := 65535, render.nextId := 65535, render.frameId := 65535, seq.autoCount := 254, params.autoPreview := 255,
    pending := [.frameStart 0#16] }

theorem witness_StepKeepsBounds : WithinBounds edge ∧ ∃ t, step edge = .next t :=
  ⟨by constructor <;> decide, _, rfl⟩

theorem coherent_inExpose : Coherent (inExpose up) := by constructor <;> decide
theorem coherent_inExpose_rendering : Coherent (rendering (inExpose up)) := by constructor <;> decide
theorem coherent_inHold : Coherent (inHold up) := by constructor <;> decide
theorem coherent_inReadout : Coherent (inReadout up) := by constructor <;> decide
theorem coherent_inFrame : Coherent (inFrame up) := by constructor <;> decide
theorem coherent_inSettle : Coherent (inSettle up) := by constructor <;> decide

/-- FINISHING with its FINAL render in hand, row 1 of two handed over and on the lane. -/
def finishing : State :=
  { rendering (inTake .finishing up) with
    render.kind := .final, render.row := 1, render.rowHanded := true,
    out.inProgress := some (.render (.line .final 1 []) true) }

theorem coherent_finishing : Coherent finishing := by constructor <;> decide

theorem witness_StepKeepsCoherence :
    Coherent { inSettle up with pending := [.settleEnd] } ∧ ∃ t, step { inSettle up with pending := [.settleEnd] } = .next t :=
  ⟨by constructor <;> decide, _, rfl⟩

theorem witness_StepKeepsQuietWhileUnlocked :
    Coherent State.reset ∧ QuietWhileUnlocked State.reset ∧ ∃ t, step State.reset = .next t :=
  ⟨by constructor <;> decide, by constructor <;> first | decide | exact fun _ => nofun, _, rfl⟩

/-- Tables with an entry each at a limit of its range. -/
def filled : Tables :=
  { Tables.reset with
    plan := { state := .ready, entries := [light] }, defects := { state := .loading, entries := [⟨6143, 8191, .exclude⟩] },
    horizon := { state := .ready, entries := threeVertices }, darkModel := { state := .ready, entries := threePoints },
    lines := { state := .ready, entries := [userLine, { pauseLine with line := 5 }] },
    bridgeAllow := { state := .ready, entries := [0, 127] } }

theorem filled_sound : Tables.Sound filled := by
  constructor <;> refine ⟨by constructor <;> decide, ?_⟩ <;> decide

theorem params_reset_inRange : Params.InRange Params.reset := by constructor <;> decide

theorem witness_StepKeepsTablesAndParameters :
    let s := { up with tables := filled, pending := [.tableAppend] }
    Tables.Sound s.tables ∧ Params.InRange s.params ∧ TakeSettings.InRange s.settings ∧ ∃ t, step s = .next t :=
  ⟨filled_sound, params_reset_inRange, by constructor <;> decide, _, rfl⟩

/-- A plane of two records, and a row-visited map. -/
def withRecords : State :=
  { inFrame up with tables := filled, plane := [(0, afterFour), (7, crossed)], link.rowMap := [(0, .lost)] }

theorem records_wf : MemoryWf withRecords := ⟨by decide, by decide⟩

theorem witness_StepKeepsMemoryCanonical : MemoryWf withRecords ∧ ∃ t, step withRecords = .next t := ⟨records_wf, _, rfl⟩

theorem witness_StepKeepsPixelRanges : PlaneSound withRecords ∧ ∃ t, step withRecords = .next t := by
  refine ⟨⟨filled_sound, by decide, ?_⟩, _, rfl⟩
  intro e h
  rcases List.mem_cons.mp h with rfl | h
  · constructor <;> decide
  · cases List.mem_singleton.mp h
    constructor <;> decide

/-! Requests -/

/-- The longest payload joins as the eighth request; the sixth makes the mark; and each way to be turned away. -/
theorem witness_RequestArrivalJoinsQueue :
    let payload := List.replicate 60 0#8
    let whole := fun (s : State) (tag kind length : Byte) (payload : List Byte) (crc : Half) => s.out.locked = true
      ∧ crc16 (requestBytes tag kind length payload) = crc ∧ length.toNat = payload.length
      ∧ length.toNat ≤ 60 ∧ s.port.requests.length < 8
    whole { up with port.requests := List.replicate 7 (request 17 []) } 1#8 2#8 60#8 payload (crc16 (requestBytes 1#8 2#8 60#8 payload))
      ∧ whole { up with port.requests := List.replicate 5 (request 17 []) } 1#8 17#8 0#8 [] (crc16 (requestBytes 1#8 17#8 0#8 []))
      ∧ { up with port.requests := List.replicate 5 (request 17 []) }.port.holdReqSent = false
      ∧ ¬ whole { up with port.requests := List.replicate 8 (request 17 []) } 1#8 17#8 0#8 [] (crc16 (requestBytes 1#8 17#8 0#8 []))
      ∧ ¬ whole up 1#8 17#8 1#8 [] (crc16 (requestBytes 1#8 17#8 1#8 []))
      ∧ ¬ whole State.reset 1#8 17#8 0#8 [] (crc16 (requestBytes 1#8 17#8 0#8 [])) := by
  refine ⟨⟨rfl, rfl, by decide, by decide, by decide⟩, ⟨rfl, rfl, by decide, by decide, by decide⟩, rfl,
    fun h => absurd h.2.2.2.2 (by decide), fun h => absurd h.2.2.1 (by decide), fun h => absurd h.1 (by decide)⟩

/-- Three requests and the flag set, with and without a packet in progress, and the flag clear. -/
theorem witness_TakingHandsOverGoReq :
    let s := { up with port.requests := List.replicate 3 (request 17 []), port.holdReqSent := true }
    (Instr.statusRead, (request 17 []).kind.toNat) ∈ requestRows
      ∧ CanTake { s with port.requests := List.replicate 3 (request 24 []) } 24 (request 24 [])
      ∧ CanTake s 17 (request 17 []) ∧ s.port.requests.length = 3 ∧ s.out.inProgress = none
      ∧ CanTake { s with out.inProgress := some (.rawEnd 0 false) } 17 (request 17 [])
      ∧ CanTake { s with port.holdReqSent := false } 17 (request 17 []) :=
  ⟨by decide, ⟨rfl, rfl, rfl, by decide, rfl⟩, ⟨rfl, rfl, rfl, by decide, rfl⟩, rfl, rfl, ⟨rfl, rfl, rfl, by decide, rfl⟩, ⟨rfl, rfl, rfl, by decide, rfl⟩⟩

/-- A full queue, a waiting reply, another kind at the head, no request; an unknown kind and a malformed PART_RESET at a full queue and
behind a waiting reply. -/
theorem witness_RequestWaitsItsTurn :
    let shut := fun s : State => s.port.waiting ≠ none ∨ 16 ≤ s.out.queue.length
    let waits := fun s : State => ∀ r, s.port.requests.head? = some r → r.kind.toNat = 17 → shut s
    let unknown := fun s : State => ∀ r, s.port.requests.head? = some r → r.kind.toNat = 0 ∨ 23 < r.kind.toNat → shut s
    let malformed := fun s : State => ∀ r, s.port.requests.head? = some r → r.kind.toNat = 23 → r.payload ≠ [] ∧ shut s
    let marked := { up with port.waiting := some (.train 1#8 20#8) }
    ((Instr.statusRead, 17) ∈ requestRows ∧ waits (asked 17#8 [] edge) ∧ waits (asked 17#8 [] marked) ∧ waits (asked 18#8 [] up)
        ∧ waits up)
      ∧ (unknown (asked 0#8 [] edge) ∧ unknown (asked 24#8 [] marked) ∧ unknown (asked 23#8 [] up))
      ∧ (malformed (asked 23#8 [0#8] edge) ∧ malformed (asked 23#8 [0#8] marked) ∧ malformed (asked 22#8 [] up)) := by
  refine ⟨⟨by decide, fun _ _ _ => .inr (by decide), fun _ _ _ => .inl (by decide), ?_, nofun⟩,
    ⟨fun _ _ _ => .inr (by decide), fun _ _ _ => .inl (by decide), ?_⟩,
    ⟨?_, ?_, ?_⟩⟩ <;> intro r h k <;> cases h
  · exact absurd k (by decide)
  · exact absurd k (by decide)
  · exact ⟨by decide, .inr (by decide)⟩
  · exact ⟨by decide, .inl (by decide)⟩
  · exact absurd k (by decide)

theorem witness_UnknownKindAndWrongLengthRefused :
    (CanTake (asked 0#8 [] up) 0 (request 0#8 []) ∧ CanTake (asked 24#8 [] up) 24 (request 24#8 []))
      ∧ ((Instr.tableRead, 4, 4) ∈ fixedLengthRows ∧ CanTake (asked 4#8 [0#8] up) 4 (request 4#8 [0#8]))
      ∧ ((Instr.partReset, 23, 0) ∈ fixedLengthRows ∧ CanTake (asked 23#8 [0#8] up) 23 (request 23#8 [0#8]))
      ∧ CanTake (asked 2#8 [0#8] up) 2 (request 2#8 [0#8])
      ∧ CanTake (asked 18#8 [0#8, 8#8, 0#8, 0#8] up) 18 (request 18#8 [0#8, 8#8, 0#8, 0#8]) :=
  ⟨⟨asked_can_be_taken _ _ _ rfl (by decide) rfl, asked_can_be_taken _ _ _ rfl (by decide) rfl⟩,
    ⟨by decide, asked_can_be_taken _ _ _ rfl (by decide) rfl⟩, ⟨by decide, asked_can_be_taken _ _ _ rfl (by decide) rfl⟩,
    asked_can_be_taken _ _ _ rfl (by decide) rfl, asked_can_be_taken _ _ _ rfl (by decide) rfl⟩

/-! Tables: LINES opens and closes, an unknown table is named, a take-fixed one is refused. -/

theorem witness_TableOpenEmptiesTable :
    CanTake (asked 1#8 [5#8] (listed userLine up)) 1 (request 1#8 [5#8])
      ∧ CanTake (asked 1#8 [11#8] up) 1 (request 1#8 [11#8]) ∧ TableName.ofCode 11 = none
      ∧ CanTake (asked 1#8 [5#8] (inExpose up)) 1 (request 1#8 [5#8]) ∧ TableName.ofCode 5 = some .lines
      ∧ TableName.lines ∈ takeFixedTables ∧ (inExpose up).seq.takeState ∉ [.noTake, .aborted, .finished]
      ∧ up.seq.takeState ∈ [.noTake, .aborted, .finished] :=
  ⟨asked_can_be_taken _ _ _ rfl (by decide) rfl, asked_can_be_taken _ _ _ rfl (by decide) rfl, rfl,
    asked_can_be_taken _ _ _ rfl (by decide) rfl, rfl, by decide, by decide, by decide⟩

def twoAllowed : List Byte := [9#8, 2#8, 0x50#8, 0x7F#8]

theorem witness_TableAppendTakesEntries :
    let s := asked 2#8 twoAllowed { up with tables := up.tables.opened .bridgeAllow }
    CanTake s 2 (request 2#8 twoAllowed) ∧ 2 ≤ twoAllowed.length ∧ TableName.ofCode (read1 twoAllowed 0) = some .bridgeAllow
      ∧ 1 ≤ read1 twoAllowed 1 ∧ read1 twoAllowed 1 ≤ 15
      ∧ splitEntries .bridgeAllow (read1 twoAllowed 1) (twoAllowed.drop 2) = some [[0x50#8], [0x7F#8]]
      ∧ s.tables.stateOf .bridgeAllow = .loading :=
  ⟨asked_can_be_taken _ _ _ rfl (by decide) rfl, by decide, rfl, by decide, by decide, by decide, rfl⟩

/-- The counts 0 and 16 beside the range, one byte too few, and a table that is not LOADING. -/
theorem witness_TableAppendRefusedWhole :
    CanTake (asked 2#8 [11#8, 1#8] up) 2 (request 2#8 [11#8, 1#8]) ∧ CanTake (asked 2#8 [9#8, 0#8] up) 2 (request 2#8 [9#8, 0#8])
      ∧ CanTake (asked 2#8 [9#8, 16#8] up) 2 (request 2#8 [9#8, 16#8])
      ∧ CanTake (asked 2#8 [9#8, 1#8] up) 2 (request 2#8 [9#8, 1#8]) ∧ splitEntries .bridgeAllow 1 [] = none
      ∧ splitEntries .bridgeScript 2 [0x50#8, 8#8, 0#8, 1#8, 1#8, 7#8, 0x50#8, 8#8, 0#8, 1#8, 2#8, 8#8, 9#8]
        = some [[0x50#8, 8#8, 0#8, 1#8, 1#8, 7#8], [0x50#8, 8#8, 0#8, 1#8, 2#8, 8#8, 9#8]]
      ∧ CanTake (asked 2#8 twoAllowed up) 2 (request 2#8 twoAllowed) ∧ up.tables.stateOf .bridgeAllow ≠ .loading :=
  ⟨asked_can_be_taken _ _ _ rfl (by decide) rfl, asked_can_be_taken _ _ _ rfl (by decide) rfl,
    asked_can_be_taken _ _ _ rfl (by decide) rfl, asked_can_be_taken _ _ _ rfl (by decide) rfl, rfl,
    by decide, asked_can_be_taken _ _ _ rfl (by decide) rfl, by decide⟩

/-- LINES closes with a line listed as OUTPUT, and with none. -/
theorem witness_TableCloseSetsState :
    let s := asked 3#8 [5#8] { up with tables.lines := { state := .loading, entries := [userLine] } }
    CanTake s 3 (request 3#8 [5#8]) ∧ s.tables.stateOf .lines = .loading
      ∧ lineSetup { s with tables := s.tables.closed .lines } 0 = { use := .output .user 500, invert := false, notify := false }
      ∧ CanTake (asked 3#8 [5#8] up) 3 (request 3#8 [5#8]) ∧ up.tables.stateOf .lines ≠ .loading
      ∧ CanTake (asked 3#8 [11#8] up) 3 (request 3#8 [11#8]) :=
  ⟨asked_can_be_taken _ _ _ rfl (by decide) rfl, rfl, by decide, asked_can_be_taken _ _ _ rfl (by decide) rfl, by decide,
    asked_can_be_taken _ _ _ rfl (by decide) rfl⟩

/-- The first index at the table's length, and one beyond; the count at 15 and at 16. -/
theorem witness_TableReadReturnsEntries :
    let s := { up with tables := filled }
    CanTake (asked 4#8 [0#8, 0#8, 1#8, 15#8] s) 4 (request 4#8 [0#8, 0#8, 1#8, 15#8]) ∧ s.tables.lengthOf .plan = 1
      ∧ Tables.Sound s.tables ∧ CanTake (asked 4#8 [0#8, 0#8, 2#8, 15#8] s) 4 (request 4#8 [0#8, 0#8, 2#8, 15#8])
      ∧ CanTake (asked 4#8 [0#8, 0#8, 0#8, 16#8] s) 4 (request 4#8 [0#8, 0#8, 0#8, 16#8]) :=
  ⟨asked_can_be_taken _ _ _ rfl (by decide) rfl, rfl, filled_sound, asked_can_be_taken _ _ _ rfl (by decide) rfl,
    asked_can_be_taken _ _ _ rfl (by decide) rfl⟩

/-- A PLAN entry, a REGIONS entry and a LINES entry in the bytes of 11.4, and what is read of them; of the flags byte every bit is
kept (log 26). -/
theorem test_entry_layouts :
    readPlanStep [1#8, 0#8, 2#8, 0#8, 0#8, 3#8, 0xE8#8, 0#8, 1#8, 0#8, 5#8, 1#8, 0#8, 1#8, 30#8, 2#8]
        = some {
          kind := .light, count := 2, exposure := 1000, gap := 65541, cadence := .external, forward := false, stepLevel := true,
          scriptFirst := 30, scriptCount := 2 }
      ∧ readRegionEntry [1#8, 2#8, 16#8, 3#8, 255#8, 4#8, 0#8, 1#8] = some ⟨.ground, {
          mode := .peakFade, kappa := 16, warmup := 3, sigmaFloor := 255, fade := 4, trailDetect := false, veto := true }⟩
      ∧ readLineEntry [5#8, 1#8, 0xFF#8, 6#8, 1#8, 0#8] = some { line := 5, flags := 0xFF#8, use := .output .readout 256 }
      ∧ readLineEntry [5#8, 2#8, 0#8, 6#8, 1#8, 0#8] = none := by decide

/-- A full table; entries read and not read; and for each kind of check against the table an entry that stands against the newest
or a held one, and one that does not. -/
theorem witness_EntryChecksInOrder :
    let full := { Tables.reset with regions := {
      state := .loading, entries := [⟨.sky, Policy.default⟩, ⟨.ground, Policy.default⟩] } }
    TableName.regions.capacity ≤ full.lengthOf .regions
      ∧ filled.plan.entries.length < TableName.plan.capacity
      ∧ readPlanStep light.bytes = some light ∧ readPlanStep (2#8 :: light.bytes.tail) = none
      ∧ readScriptEntry [0x50#8, 9#8, 0#8, 0#8, 1#8, 0#8] = none
      ∧ readScriptEntry [0x7F#8, 8#8, 0#8, 255#8, 1#8, 0#8] = some ⟨127, ⟨false, 255⟩, [0#8]⟩
      ∧ (∃ p ∈ filled.defects.entries.getLast?, ¬ (p.row < 6143 ∨ p.row = 6143 ∧ p.column < 8191))
      ∧ Tables.reset.horizon.entries = [] ∧ (∃ p ∈ filled.horizon.entries.getLast?, 5999 ≤ p.column)
      ∧ (∃ p ∈ [(⟨.sky, Policy.default⟩ : RegionEntry)], p.region = .sky)
      ∧ NotRising filled.darkModel.entries ⟨48, 1⟩ ∧ ¬ NotRising filled.darkModel.entries ⟨49, 1⟩
      ∧ (∃ p ∈ filled.lines.entries, p.line = userLine.line)
      ∧ (∃ f ∈ [LineFunction.expFeedback, .triggerIn], (∃ d, triggerLine.use = .input f d) ∧ ∃ d, triggerLine.use = .input f d)
      ∧ 127 ∈ filled.bridgeAllow.entries ∧ 126 ∉ filled.bridgeAllow.entries := by
  refine ⟨by decide, by decide, by decide, by decide, by decide, by decide, ⟨_, rfl, by decide⟩, rfl, ⟨_, rfl, by decide⟩,
    by decide, ⟨_, rfl, by decide⟩, ?_, by decide, ⟨.triggerIn, by decide, ⟨_, rfl⟩, _, rfl⟩, by decide, by decide⟩
  rintro ⟨p, h, k⟩
  cases h
  exact absurd k (by decide)

/-! Parameters, log, status: the clauses are told apart by the name and the value sent. -/

theorem witness_ParamSetStoresValue :
    CanTake (asked 5#8 [26#8, 0#8, 0#8, 0#8, 0#8] up) 5 (request 5#8 [26#8, 0#8, 0#8, 0#8, 0#8]) ∧ Param.ofCode 26 = none
      ∧ CanTake (asked 5#8 [1#8, 0#8, 0#8, 1#8, 0#8] (inExpose up)) 5 (request 5#8 [1#8, 0#8, 0#8, 1#8, 0#8])
      ∧ Param.width.takeFixed = true ∧ (inExpose up).seq.takeState ∉ [.noTake, .aborted, .finished]
      ∧ Param.bridgeSpeed.stored 200 = none ∧ Param.width.stored 8193 = some 8192 ∧ Param.width.stored 8192 = some 8192
      ∧ Param.width.stored 255 = some 256 ∧ Param.reportMask.stored 0 = some 0 := by
  refine ⟨asked_can_be_taken _ _ _ rfl (by decide) rfl, rfl, asked_can_be_taken _ _ _ rfl (by decide) rfl, rfl, ?_⟩
  decide

/-- A record in the bytes of the table of 11.3. -/
theorem test_record_bytes :
    ({ record1 with
      index := 0x0102, step := 3, outcome := some .partialFrame, frameCounter := some 0x0405#16, heldUs := 6, exposedUs := some 7,
      exposureSource := some .lineTime, tempState := some .stale, temperature := some (-2), scale := some 8, admitted := 9,
      rejected := 10, saturated := 11, excluded := 12, lost := 13, outliers := 14, clamped := 15, extraLines := 16, trails := 17,
      unattributed := 18, trailQueueFull := true, feedbackMissing := true } : SubframeRecord).bytes
      = [1#8, 2#8, 1#8, 3#8, 1#8, 3#8, 4#8, 5#8, 0#8, 0#8, 3#8, 0xE8#8, 0#8, 0#8, 0#8, 6#8, 0#8, 0#8, 0#8, 7#8, 1#8, 1#8, 0xFF#8, 0xFE#8,
        0#8, 8#8, 0#8, 0#8, 0#8, 9#8, 0#8, 0#8, 0#8, 10#8, 0#8, 0#8, 0#8, 11#8, 0#8, 0#8, 0#8, 12#8, 0#8, 0#8, 0#8, 13#8,
        0#8, 0#8, 0#8, 14#8, 0#8, 0#8, 0#8, 15#8, 0#8, 0#8, 0#8, 16#8, 0#8, 17#8, 0#8, 18#8, 10#8] := by decide

/-- The last closed record, and the open one, which is not read. -/
theorem witness_ParamGetAndLogReadAnswer :
    let s := { inExpose up with log.closed := [record1] }
    CanTake (asked 6#8 [25#8] s) 6 (request 6#8 [25#8])
      ∧ CanTake (asked 16#8 [0#8, 1#8, 4#8] s) 16 (request 16#8 [0#8, 1#8, 4#8])
      ∧ CanTake (asked 16#8 [0#8, 2#8, 1#8] s) 16 (request 16#8 [0#8, 2#8, 1#8]) :=
  ⟨asked_can_be_taken _ _ _ rfl (by decide) rfl, asked_can_be_taken _ _ _ rfl (by decide) rfl,
    asked_can_be_taken _ _ _ rfl (by decide) rfl⟩

theorem witness_StatusReadReportsPart : CanTake (asked 17#8 [] (inExpose up)) 17 (request 17#8 []) :=
  asked_can_be_taken _ _ _ rfl (by decide) rfl

/-! Take commands -/

theorem firstAt_append {α : Type} {p : α → Prop} {before rest : List α} {a : α} (found : p a) (none : ∀ b ∈ before, ¬ p b) :
    FirstAt p (before ++ a :: rest) before.length := by
  refine ⟨⟨a, by simp, found⟩, fun j hj b hb => none b ?_⟩
  rw [List.getElem?_append_left hj] at hb
  exact List.mem_of_getElem? hb

theorem darksFirst_append {darks lights : List PlanStep} (hd : ∀ st ∈ darks, st.kind = .dark) (hl : ∀ st ∈ lights, st.kind = .light) :
    DarksFirst (darks ++ lights) := by
  rintro j ⟨⟨st, hj, dk⟩, i, hij, st', hi, lk⟩
  by_cases h : j < darks.length
  · rw [List.getElem?_append_left (by omega)] at hi
    exact absurd ((hd _ (List.mem_of_getElem? hi)).symm.trans lk) (by decide)
  · rw [List.getElem?_append_right (by omega)] at hj
    exact absurd (dk.symm.trans (hl _ (List.mem_of_getElem? hj))) (by decide)

/-- A plan at both limits: 4096 subframes, 255 darks. -/
def fullPlan : List PlanStep := [{ dark with count := 255 }, { light with count := 3841 }]

theorem fullPlan_sound : PlanSound fullPlan :=
  ⟨by decide, darksFirst_append (darks := [{ dark with count := 255 }]) (by decide) (by decide), by decide, by decide, by decide⟩

/-- In the exposure of the last subframe of a plan of 255 darks and a light one. -/
def lastOfPlan : State :=
  { planned [{ dark with count := 255 }, { light with count := 1 }] (inExpose up) with
    seq.step := 1, log.closed := List.replicate 255 { record1 with kind := .dark }, cal.darkCount := 255, heater.duty := 256 }

theorem witness_StepKeepsBounds_take :
    Coherent lastOfPlan ∧ Tables.Sound lastOfPlan.tables ∧ TakeWithinPlan lastOfPlan ∧ ∃ t, step lastOfPlan = .next t := by
  refine ⟨by constructor <;> decide, ?_, ?_, _, rfl⟩
  · constructor <;> (refine ⟨by constructor <;> decide, ?_⟩; decide)
  · exact ⟨by decide, by decide +kernel, by decide +kernel, by decide, by decide, fun q h => ⟨_, rfl, by cases h; rfl⟩,
      fun _ => ⟨by decide, fun st h => by cases h; decide, by decide +kernel, by decide +kernel, by decide +kernel⟩⟩

theorem witness_TakeStartBeginsClearing :
    CanTake (asked 7#8 [] (planned fullPlan up)) 7 (request 7#8 []) ∧ up.seq.takeState ∈ [.noTake, .aborted, .finished]
      ∧ up.render.state = .idle ∧ Startable (planned fullPlan up).tables up.params :=
  ⟨asked_can_be_taken _ _ _ rfl (by decide) rfl, by decide, rfl,
    by unfold NoneLoading; decide, fullPlan_sound, fun h => absurd h (by decide), nofun⟩

/-- For each check of R4 a plan that fails it first: the fewest subframes too many, and each step at its place. -/
theorem witness_TakeStartRefusedByFirstCheck :
    CanTake (asked 7#8 [] (inExpose up)) 7 (request 7#8 []) ∧ CanTake (asked 7#8 [] (rendering up)) 7 (request 7#8 [])
      ∧ FirstAt (fun m => { up.tables with horizon := Table.opened }.stateOf m = .loading) takeFixedTables 2
      ∧ NoneLoading up.tables ∧ up.tables.plan.seen = []
      ∧ (DarkAfterLightAt [light, dark] 1 ∧ ∀ k < 1, ¬ DarkAfterLightAt [light, dark] k)
      ∧ DarksFirst [dark]
      ∧ DarksFirst [{ light with count := 4095 }, light] ∧ plannedSubframes [{ light with count := 4095 }, light] = 4097
      ∧ DarksFirst [{ dark with count := 256 }, light] ∧ plannedDarks [{ dark with count := 256 }, light] = 256
      ∧ (PlanSound fullPlan ∧ ¬ HasTrigger up.tables)
      ∧ FirstAt (fun st : PlanStep => st.cadence = .external) [light, { light with cadence := .external }] 1
      ∧ HasTrigger (listed triggerLine up).tables
      ∧ FirstAt (VertexOutside { up.params with width := 5000 }) threeVertices 2 := by
  refine ⟨asked_can_be_taken _ _ _ rfl (by decide) rfl, asked_can_be_taken _ _ _ rfl (by decide) rfl, ?_,
    by unfold NoneLoading; decide, rfl, ?_, ?_, ?_, by decide, ?_, by decide, ⟨fullPlan_sound, ?_⟩, ?_, ?_, ?_⟩
  · exact firstAt_append (before := [TableName.plan, .defects]) rfl (by decide)
  · refine ⟨⟨⟨dark, rfl, rfl⟩, 0, by decide, light, rfl, rfl⟩, ?_⟩
    rintro k hk ⟨_, i, hi, _⟩
    omega
  · exact darksFirst_append (darks := [dark]) (lights := []) (by decide) (by decide)
  · exact darksFirst_append (darks := []) (by decide) (by decide)
  · exact darksFirst_append (darks := [{ dark with count := 256 }]) (by decide) (by decide)
  · rintro ⟨e, m, _⟩
    cases m
  · exact firstAt_append (before := [light]) (by decide) (by decide)
  · exact ⟨triggerLine, List.mem_singleton.mpr rfl, 0, rfl⟩
  · exact firstAt_append (before := [(⟨0, 2100⟩ : Vertex), ⟨2400, 1800⟩]) (.inl (by decide)) (by unfold VertexOutside; decide)

theorem witness_TakePauseActsByPhase :
    CanTake (asked 8#8 [] (running .stepStart up)) 8 (request 8#8 []) ∧ CanTake (asked 8#8 [] (inHold up)) 8 (request 8#8 [])
      ∧ CanTake (asked 8#8 [] up) 8 (request 8#8 []) ∧ (running .stepStart up).seq.takeState = .running
      ∧ (running .stepStart up).seq.phase ∈ [Phase.stepStart, .wait] ∧ (inHold up).seq.phase ∈ [Phase.expose, .hold, .readout, .settle]
      ∧ up.seq.takeState ≠ .running :=
  ⟨asked_can_be_taken _ _ _ rfl (by decide) rfl, asked_can_be_taken _ _ _ rfl (by decide) rfl,
    asked_can_be_taken _ _ _ rfl (by decide) rfl, by decide⟩

theorem witness_TakeStopCompletesTake :
    CanTake (asked 10#8 [] (running .wait up)) 10 (request 10#8 []) ∧ CanTake (asked 10#8 [] (inTake .paused up)) 10 (request 10#8 [])
      ∧ CanTake (asked 10#8 [] (inSettle up)) 10 (request 10#8 []) ∧ CanTake (asked 10#8 [] up) 10 (request 10#8 [])
      ∧ (running .wait up).seq.phase ∈ [Phase.stepStart, .wait] ∧ (inTake .paused up).seq.takeState = .paused
      ∧ (inSettle up).seq.phase ∈ [Phase.expose, .hold, .readout, .settle] ∧ up.seq.takeState ∉ [.running, .paused] :=
  ⟨asked_can_be_taken _ _ _ rfl (by decide) rfl, asked_can_be_taken _ _ _ rfl (by decide) rfl,
    asked_can_be_taken _ _ _ rfl (by decide) rfl, asked_can_be_taken _ _ _ rfl (by decide) rfl, by decide⟩

/-- Each take state, with the Render Unit IDLE and with a preview in hand, and an OUTPUT line of READY that is inactive. -/
theorem witness_TakeFinishAsksFinalRender :
    let good := fun s : State => Coherent (asked 11#8 [] s) ∧ CanTake (asked 11#8 [] s) 11 (request 11#8 [])
    let ready := listed { line := 0, flags := 0#8, use := .output .ready 500 } (running .wait up)
    good (running .stepStart up) ∧ good (inTake .paused up) ∧ good (inTake .complete up) ∧ good (rendering (inTake .complete up))
      ∧ good (inHold up) ∧ good (inTake .finished up) ∧ good (inTake .noTake up) ∧ good ready
      ∧ (lineSetup ready 0).use = .output .ready 500 ∧ (ready.lines.get 0).driven = false ∧ (ready.lines.get 0).minTimer = none := by
  refine ⟨?_, ?_, ?_, ?_, ?_, ?_, ?_, ?_, by decide⟩ <;>
    exact ⟨by constructor <;> decide, asked_can_be_taken _ _ _ rfl (by decide) rfl⟩

/-- WAIT for a trigger, a gap of 1 and of 0, and a step not started whose shutter changes, and whose shutter stays, with script
entries, with entries that all end at their hand-over, and with none. -/
theorem witness_TakeResumeContinuesPlan :
    let good := fun (s : State) (st : PlanStep) => CanTake (asked 9#8 [] s) 9 (request 9#8 []) ∧ s.tables.plan.seen[s.seq.step]? = some st
    good (planned [{ light with cadence := .external }] (inTake .paused up)) { light with cadence := .external }
      ∧ good (planned [{ light with gap := 1 }] (inTake .paused up)) { light with gap := 1 } ∧ good (inTake .paused up) light
      ∧ good { planned [dark] (inTake .paused up) with seq.notStarted := true } dark
      ∧ levelBefore { planned [dark] (inTake .paused up) with seq.notStarted := true } ≠ decide (dark.kind = .dark)
      ∧ good { planned [runs 1 2] (scripted (inTake .paused up)) with seq.notStarted := true } (runs 1 2)
      ∧ good { planned [runs 3 2] (scripted (inTake .paused up)) with seq.notStarted := true } (runs 3 2)
      ∧ good { inTake .paused up with seq.notStarted := true } light
      ∧ levelBefore { inTake .paused up with seq.notStarted := true } = decide (light.kind = .dark)
      ∧ CanTake (asked 9#8 [] up) 9 (request 9#8 []) := by
  refine ⟨?_, ?_, ?_, ?_, by decide, ?_, ?_, ?_, by decide, asked_can_be_taken _ _ _ rfl (by decide) rfl⟩ <;>
    exact ⟨asked_can_be_taken _ _ _ rfl (by decide) rfl, rfl⟩

/-- Where the take stands, a render in hand or none, a CLEARING pass over a plane with records, and EXPOSE of a dark subframe. -/
theorem witness_TakeAbortInvalidatesTake :
    let good := fun s : State => Coherent (asked 12#8 [] s) ∧ CanTake (asked 12#8 [] s) 12 (request 12#8 [])
    good up ∧ good (inTake .aborted up) ∧ good (inTake .clearing up) ∧ good (inTake .finished up) ∧ good (running .wait up)
      ∧ good (rendering (inExpose up)) ∧ good (inHold up) ∧ good (inReadout up) ∧ good (inSettle up)
      ∧ good (rendering (running .stepStart up))
      ∧ good { rendering (inExpose up) with out.queue := List.replicate 15 (.reply 1#8 17#8 .ok []) }
      ∧ good { inTake .clearing up with plane := [(0, afterFour), (9, crossed)] }
      ∧ good { inExpose up with log.openRecord := some { record1 with kind := .dark }, link.rowMap := [(1, .lost)] }
      ∧ ((rendering (inExpose up)).render.state ≠ .idle ∧ up.params.reportMask.getLsbD 4 = true ∧ up.out.queue.length < 15) := by
  refine ⟨?_, ?_, ?_, ?_, ?_, ?_, ?_, ?_, ?_, ?_, ?_, ?_, ?_, by decide⟩ <;>
    exact ⟨by constructor <;> decide, asked_can_be_taken _ _ _ rfl (by decide) rfl⟩

theorem witness_TakeClearForgetsTake :
    CanTake (asked 13#8 [] (inTake .complete up)) 13 (request 13#8 [])
      ∧ CanTake (asked 13#8 [] (rendering (inTake .finished up))) 13 (request 13#8 []) ∧ CanTake (asked 13#8 [] up) 13 (request 13#8 [])
      ∧ (inTake .complete up).seq.takeState ∈ [.complete, .finished, .aborted] ∧ (inTake .complete up).render.state = .idle
      ∧ (rendering (inTake .finished up)).render.state ≠ .idle ∧ up.seq.takeState ∉ [.complete, .finished, .aborted] :=
  ⟨asked_can_be_taken _ _ _ rfl (by decide) rfl, asked_can_be_taken _ _ _ rfl (by decide) rfl,
    asked_can_be_taken _ _ _ rfl (by decide) rfl, by decide⟩

/-- ABORTED, NO_TAKE, a render in hand, a free plane, and an ingest that holds it. -/
theorem witness_RenderRequestsJudgedInOrder :
    let good := fun s : State => CanTake (asked 14#8 [] s) 14 (request 14#8 []) ∧ CanTake (asked 15#8 [] s) 15 (request 15#8 [])
    good (inTake .aborted up) ∧ good up ∧ good (rendering (inTake .finished up)) ∧ good (inTake .finished up)
      ∧ good (inSettle up) ∧ (inSettle up).arb.holder ≠ .none := by
  refine ⟨?_, ?_, ?_, ?_, ?_, by decide⟩ <;>
    exact ⟨asked_can_be_taken _ _ _ rfl (by decide) rfl, asked_can_be_taken _ _ _ rfl (by decide) rfl⟩

/-! The sensor bus -/

def readAsk : List Byte := [0x50#8, 16#8, 0xFF#8, 0xFF#8, 16#8]
def writeAsk : List Byte := [0x50#8, 8#8, 0#8, 255#8, 1#8, 0xAA#8]

theorem asks_good : relayFieldsGood readAsk ∧ relayFieldsGood writeAsk ∧ ¬ relayFieldsGood (0x80#8 :: readAsk.tail)
    ∧ ¬ relayFieldsGood [0x50#8, 8#8, 1#8, 0#8, 1#8] ∧ ¬ relayFieldsGood [0x50#8, 16#8, 0#8, 0#8, 17#8] := by
  unfold relayFieldsGood
  decide

theorem witness_RelayRequestsRefusedInOrder :
    CanTake (asked 19#8 readAsk (allowed up)) 19 (request 19#8 readAsk)
      ∧ CanTake (asked 18#8 writeAsk (allowed up)) 18 (request 18#8 writeAsk)
      ∧ CanTake (asked 18#8 readAsk (allowed up)) 18 (request 18#8 readAsk) ∧ readAsk.length ≠ 5 + read1 readAsk 4
      ∧ read1 readAsk 0 ∉ up.tables.bridgeAllow.seen ∧ read1 readAsk 0 ∈ (allowed up).tables.bridgeAllow.seen
      ∧ { allowed up with bridge.state := .fault }.bridge.state = .fault ∧ 4 ≤ edge.bridge.relays.length :=
  ⟨asked_can_be_taken _ _ _ rfl (by decide) rfl, asked_can_be_taken _ _ _ rfl (by decide) rfl,
    asked_can_be_taken _ _ _ rfl (by decide) rfl, by decide, by decide, by decide, rfl, by decide⟩

theorem quiet_bus (s : State) (state : s.bridge = SensorBridge.reset) (left : s.seq.scriptLeft = []) : QuietBus s := by
  constructor <;> simp_all [SensorBridge.reset]

/-- A busy bus, an idle one in READOUT, also behind a relay and a script entry that wait, and an idle one outside it. -/
theorem witness_RelayWaitsOrStarts :
    let good := fun s : State => CanTake (asked 19#8 readAsk s) 19 (request 19#8 readAsk) ∧ relayFieldsGood readAsk
      ∧ read1 readAsk 0 ∈ s.tables.bridgeAllow.seen ∧ s.bridge.state ≠ .fault ∧ s.bridge.relays.length < 4 ∧ StepStartStands s
    good (busy .relay (.read 2) up) ∧ (busy .relay (.read 2) up).bridge.state = .busy
      ∧ (good (allowed (inReadout up)) ∧ (allowed (inReadout up)).bridge.waitingPoll = none)
      ∧ (let behind := { allowed (inReadout up) with
          bridge.relays := [relay1 .waiting], bridge.waitingScript := some (onWire (.script 0 0 false) (.write [1#8])) }
        good behind ∧ behind.bridge.state = .idle ∧ behind.bridge.waitingPoll = none ∧ behind.seq.phase = .readout)
      ∧ good (allowed up) ∧ QuietBus (allowed up) ∧ CanTake (asked 18#8 writeAsk (allowed up)) 18 (request 18#8 writeAsk) := by
  refine ⟨?_, rfl, ⟨?_, rfl⟩, ⟨?_, rfl, rfl, rfl⟩, ?_, quiet_bus _ rfl rfl, asked_can_be_taken _ _ _ rfl (by decide) rfl⟩ <;>
    exact ⟨asked_can_be_taken _ _ _ rfl (by decide) rfl, asks_good.1, by decide, by decide, by decide, nofun⟩

theorem witness_BridgeRecoverRunsPulseTrain :
    CanTake (asked 20#8 [] up) 20 (request 20#8 []) ∧ CanTake (asked 20#8 [] { up with bridge.state := .fault }) 20 (request 20#8 [])
      ∧ CanTake (asked 20#8 [] { up with bridge.state := .fault, bridge.train := some 400 }) 20 (request 20#8 [])
      ∧ { up with bridge.train := some 400, port.waiting := some (.train 7#8 20#8) }.bridge.trainsWaiting = 0
      ∧ up.out.locked = true ∧ up.out.queue.length < 16 ∧ 16 ≤ edge.out.queue.length
      ∧ (State.reset.out.locked = false ∧ { State.reset with bridge.train := some 100 }.port.waiting = none)
      ∧ { State.reset with bridge.train := some 100, bridge.trainsWaiting := 1 }.bridge.trainsWaiting = 0 + 1 :=
  ⟨asked_can_be_taken _ _ _ rfl (by decide) rfl, asked_can_be_taken _ _ _ rfl (by decide) rfl,
    asked_can_be_taken _ _ _ rfl (by decide) rfl, rfl, rfl, by decide, by decide, ⟨rfl, rfl⟩, rfl⟩

/-- A poll to claim on an idle bus, and a transaction of each claimant that ends; the poll's claim is in witness_PollClaimed, and what
follows STEP_START in witness_WaitEntered. -/
theorem witness_BusTransactionsEndWithOutcome :
    { allowed up with seq.pollAt := some 5 }.seq.pollAt = some 5 ∧ QuietBus { allowed up with seq.pollAt := some 5 }
      ∧ 0x50 ∈ (allowed up).tables.bridgeAllow.seen ∧ (allowed up).params.pollDevice ∉ (allowed up).tables.bridgeAllow.seen
      ∧ (busy (.poll 1 256 0) (.read 2) up).bridge.inFlight = some (flight (.poll 1 256 0) (.read 2))
      ∧ (∃ freed, EndsTransaction (busy (.poll 1 256 0) (.read 2) up) (flight (.poll 1 256 0) (.read 2))
        (.busTransactionEnd (.done [0x7F#8, 0xFF#8])) .done [0x7F#8, 0xFF#8] freed)
      ∧ (∃ freed, EndsTransaction (busy (.poll 1 256 0) (.read 2) up) (flight (.poll 1 256 0) (.read 2))
        (.busTransactionEnd (.nackAddress .read)) .nackAddress [] freed)
      ∧ (∃ freed, EndsTransaction (busy (.script 0 0 true) (.write [1#8]) up) (flight (.script 0 0 true) (.write [1#8]))
        (.busTransactionEnd (.nackData 2)) (.nackData 2) [] freed)
      ∧ (∃ freed, EndsTransaction (busy .relay (.read 2) up) (flight .relay (.read 2)) .busClockTimeout .timeout [] freed)
      ∧ (∀ q ∈ { busy .relay (.read 2) up with bridge.relays := [relay1 .onBus] }.bridge.relays, q.isWaiting = false)
      ∧ (busy .relay (.read 2) State.reset).out.locked = false
      ∧ (busy .relay (.read 2) up).bridge.waitingPoll = none ∧ (busy .relay (.read 2) up).bridge.waitingScript = none
      ∧ (busy .relay (.read 2) up).seq.scriptLeft = [] ∧ (busy .relay (.read 2) up).seq.phase ≠ .stepStart :=
  ⟨rfl, quiet_bus _ rfl rfl, by decide, by decide, rfl, ⟨_, .inl ⟨_, rfl, by decide, rfl, rfl, rfl⟩⟩,
    ⟨_, .inl ⟨_, rfl, by decide, rfl, rfl, rfl⟩⟩, ⟨_, .inl ⟨_, rfl, by decide, rfl, rfl, rfl⟩⟩, ⟨_, .inr ⟨rfl, rfl, rfl, rfl⟩⟩,
    by decide, rfl, rfl, rfl, rfl, by decide⟩

/-- In STEP_START a script entry ends: the last one, one with a next index in the table, and one whose next index is not in it. -/
theorem witness_BusTransactionsEndWithOutcome_in_step_start :
    let s := busy (.script 0 0 true) (.write [1#8]) (running .stepStart up)
    let entry : ScriptEntry := { device := 0x50, reg := { wide := false, addr := 0 }, data := [1#8] }
    let scripted := { s with seq.scriptLeft := [1], tables.bridgeScript := { state := .ready, entries := [entry, entry] } }
    s.bridge.inFlight = some (flight (.script 0 0 true) (.write [1#8])) ∧ s.seq.phase = .stepStart ∧ s.seq.scriptLeft = []
      ∧ s.seq.settleTimer = none ∧ s.tables.plan.seen[s.seq.step]? = some light ∧ pollLater light s
      ∧ (∃ freed, EndsTransaction s (flight (.script 0 0 true) (.write [1#8])) (.busTransactionEnd (.done [])) .done [] freed)
      ∧ (∃ freed, EndsTransaction s (flight (.script 0 0 true) (.write [1#8])) .busClockTimeout .timeout [] freed)
      ∧ s.bridge.waitingPoll = none ∧ s.bridge.waitingScript = none ∧ (∀ q ∈ s.bridge.relays, q.isWaiting = false)
      ∧ scripted.seq.scriptLeft = 1 :: [] ∧ scripted.tables.bridgeScript.seen[1]? = some entry
      ∧ entry.device ∈ scripted.tables.bridgeAllow.seen ∧ { scripted with seq.settleTimer := some 9 }.seq.settleTimer ≠ none
      ∧ { entry with device := 0x51 }.device ∉ scripted.tables.bridgeAllow.seen ∧ s.tables.bridgeScript.seen[1]? = none := by
  unfold pollLater
  refine ⟨rfl, rfl, rfl, rfl, rfl, by decide, ⟨_, .inl ⟨_, rfl, by decide, rfl, rfl, rfl⟩⟩, ⟨_, .inr ⟨rfl, rfl, rfl, rfl⟩⟩, ?_⟩
  decide

/-- Each claimant on the bus, its transaction ended in each way, with other claims waiting: a poll, a script entry with an index behind
it and one whose step has been left, and a relay by itself, between an answered one and a waiting one, and in READOUT. -/
theorem witness_BusServesPollThenScriptThenRelay :
    let ends := fun (s : State) (c : Claimant) (a : BusAccess) (i : Instr) (o : BusOutcome) (data : List Byte) =>
      s.bridge.inFlight = some (flight c a) ∧ ∃ freed, EndsTransaction s (flight c a) i o data freed
    let relays := fun (s : State) (before after : List Relay) => s.bridge.relays = before ++ relay1 .onBus :: after
      ∧ (relay1 .onBus).state = .onBus ∧ ∀ b ∈ before, b.state ≠ .onBus
    let on := fun s : State => { busy .relay (.read 2) s with bridge.relays := [relay1 .onBus] }
    let answered := relay1 (.replyWaiting .done [1#8, 2#8])
    let between := { on up with bridge.relays := [answered, relay1 .onBus, relay1 .waiting] }
    let claimed := fun s : State => { s with
      bridge.waitingPoll := some (onWire (.poll 2 256 0) (.read 2)), bridge.relays := [relay1 .waiting] }
    ends (claimed (busy (.poll 1 256 0) (.read 2) up)) (.poll 1 256 0) (.read 2) (.busTransactionEnd (.done [0#8, 9#8])) .done [0#8, 9#8]
      ∧ ends (claimed (busy (.poll 1 256 0) (.read 2) up)) (.poll 1 256 0) (.read 2)
        (.busTransactionEnd (.nackAddress .write)) .nackAddress []
      ∧ ends { claimed (busy (.script 0 0 true) (.write [1#8]) idleBus) with seq.scriptLeft := [1] } (.script 0 0 true) (.write [1#8])
        (.busTransactionEnd (.done [])) .done []
      ∧ ends (claimed (busy (.script 0 0 false) (.write [1#8]) up)) (.script 0 0 false) (.write [1#8])
        (.busTransactionEnd (.nackData 2)) (.nackData 2) []
      ∧ ends between .relay (.read 2) (.busTransactionEnd (.done [3#8, 4#8])) .done [3#8, 4#8]
      ∧ relays between [answered] [relay1 .waiting]
      ∧ ends (on (inReadout up)) .relay (.read 2) .busClockTimeout .timeout [] ∧ relays (on (inReadout up)) [] []
      ∧ (∀ q ∈ (busy .relay (.read 2) up).bridge.relays, q.state ≠ .onBus) ∧ (inReadout up).seq.phase = .readout := by
  refine ⟨⟨rfl, _, .inl ⟨_, rfl, by decide, rfl, rfl, rfl⟩⟩, ⟨rfl, _, .inl ⟨_, rfl, by decide, rfl, rfl, rfl⟩⟩,
    ⟨rfl, _, .inl ⟨_, rfl, by decide, rfl, rfl, rfl⟩⟩, ⟨rfl, _, .inl ⟨_, rfl, by decide, rfl, rfl, rfl⟩⟩,
    ⟨rfl, _, .inl ⟨_, rfl, by decide, rfl, rfl, rfl⟩⟩, by decide, ⟨rfl, _, .inr ⟨rfl, rfl, rfl, rfl⟩⟩, by decide, by decide, rfl⟩

/-- In STEP_START a relay ends before a script entry that is BLOCKED when it is selected: the step's last one, behind which STEP_START
ends, and one with a next index in the table and a settle timer. -/
theorem witness_BusServesPollThenScriptThenRelay_in_step_start :
    let f := flight .relay (.read 2)
    let last := { busy .relay (.read 2) (running .stepStart up) with
      bridge.relays := [relay1 .onBus],
      bridge.waitingScript := some { onWire (.script 0 0 true) (.write [1#8]) with device := 0x51 } }
    let served := fun (s u v : State) => ∃ freed, EndsTransaction s f .busClockTimeout .timeout [] freed
      ∧ ClaimantTold f .timeout [] freed u ∧ BusServed u v
    (last.bridge.inFlight = some f ∧ last.seq.phase = .stepStart ∧ last.seq.settleTimer = none
        ∧ last.tables.plan.seen[last.seq.step]? = some light ∧ ∃ u v, served last u v ∧ scriptsEnded v = true)
      ∧ ∃ u v, served { scripted last with seq.scriptLeft := [0], seq.settleTimer := some 9 } u v ∧ v.seq.scriptLeft = [] :=
  ⟨⟨rfl, rfl, rfl, rfl, _, _, ⟨_, .inr ⟨rfl, rfl, rfl, rfl⟩, claimantTold_endClaimant _ _ _ _, busServed_iff.mpr rfl⟩, by decide⟩,
    _, _, ⟨_, .inr ⟨rfl, rfl, rfl, rfl⟩, claimantTold_endClaimant _ _ _ _, busServed_iff.mpr rfl⟩, by decide⟩

def pollClaim1 : Transaction := onWire (.poll 1 256 0) (.read 2)
def entryClaim1 : Transaction := onWire (.script 0 1 true) (.write [1#8])
def answered1 : Relay := relay1 (.replyWaiting .timeout [])

/-- In STEP_START, the bus IDLE, nothing waits; with the address of these claims allowed, and with none allowed. -/
def idleBus : State := scripted (running .stepStart up)
def closedBus : State := { idleBus with tables.bridgeAllow.entries := [], params.reportMask := 0b01000000#8 }

/-- A bus that is not IDLE, one that no claim waits for, READOUT, and each claimant selected. -/
theorem witness_BusServed :
    (∃ v, BusServed (busy .relay (.read 2) { idleBus with bridge.waitingPoll := some pollClaim1 }) v ∧ v.bridge.waitingPoll.isSome = true)
      ∧ BusServed idleBus idleBus
      ∧ (∃ v, BusServed { idleBus with seq.phase := .readout, bridge.relays := [relay1 .waiting] } v
        ∧ v.bridge.relays = [relay1 .waiting])
      ∧ (∃ v, BusServed { idleBus with bridge.waitingPoll := some pollClaim1 } v)
      ∧ (∃ v, BusServed { idleBus with bridge.waitingScript := some entryClaim1, seq.scriptLeft := [2] } v)
      ∧ ∃ v, BusServed { idleBus with bridge.relays := [answered1, relay1 .waiting] } v :=
  ⟨⟨_, .kept (by decide), rfl⟩, .unclaimed rfl rfl (.inr ⟨rfl, nofun⟩), ⟨_, .unclaimed rfl rfl (.inl rfl), rfl⟩,
    ⟨_, .poll rfl rfl (by decide)⟩, ⟨_, .script rfl rfl (by decide) rfl (by decide)⟩,
    ⟨_, .relay (before := [answered1]) (after := []) rfl rfl (by decide) rfl rfl rfl (by decide) (by decide)⟩⟩

/-- Each claimant BLOCKED at its selection: a POLL, a script entry and the index behind it, a relay behind an answered one. -/
theorem witness_BusServed_blocked :
    (∃ v, BusServed { closedBus with bridge.waitingPoll := some pollClaim1 } v ∧ v.bridge.waitingPoll = none)
      ∧ (∃ v, BusServed { closedBus with bridge.waitingScript := some entryClaim1, seq.scriptLeft := [2] } v
        ∧ v.out.queue = [.report .scriptResult false [0#8, 1#8, 5#8, 0#8], .report .scriptResult false [0#8, 2#8, 5#8, 0#8]])
      ∧ ∃ v, BusServed { closedBus with bridge.relays := [answered1, relay1 .waiting] } v
        ∧ v.bridge.relays = [answered1, relay1 (.replyWaiting .blocked [])] := by
  refine ⟨?_, ?_, ?_⟩ <;> exact ⟨_, busServed_iff.mpr rfl, by decide⟩

/-- An exposure of 1000 µs is not longer than poll_lead, and the poll reads device 0x50. -/
def pollsAtOnce (s : State) : State :=
  { s with params.tempSource := .sensorRegister, params.pollDevice := 0x50, params.pollLead := 1, seq.pollAt := some 5 }

/-- A poll claimed while an earlier one still waits: on a busy bus it takes its place, and BLOCKED or in FAULT none waits; and one on an
idle bus. -/
theorem witness_PollClaimed :
    let earlier := fun s : State => pollsAtOnce { s with bridge.waitingPoll := some pollClaim1, seq.exposureNumber := 2 }
    (∃ v, PollClaimed (earlier (busy .relay (.read 2) up)) v
        ∧ v.bridge.waitingPoll.map Transaction.claimant = some (.poll 2 256 0))
      ∧ (∃ v, PollClaimed (earlier up) v ∧ v.bridge.waitingPoll = none)
      ∧ (∃ v, PollClaimed (earlier { allowed up with bridge.state := .fault }) v ∧ v.bridge.waitingPoll = none)
      ∧ ∃ v, PollClaimed (earlier (allowed up)) v :=
  ⟨⟨_, pollClaimed_claimPoll _, by decide⟩, ⟨_, pollClaimed_claimPoll _, by decide⟩, ⟨_, pollClaimed_claimPoll _, by decide⟩,
    _, pollClaimed_claimPoll _⟩

/-- WAIT entered for a trigger, for a gap, and for a gap of 0, the poll scheduled, and claimed at once on a busy bus, and BLOCKED. -/
theorem witness_WaitEntered :
    let soon := pollsAtOnce (busy .relay (.read 2) (running .stepStart up))
    let entered := fun (st : PlanStep) (s : State) (p : State → Prop) =>
      s.tables.plan.seen[s.seq.step]? = some st ∧ ∃ v, WaitEntered st s v ∧ p v
    entered { light with cadence := .external } (planned [{ light with cadence := .external }] soon) (fun v => v.seq.phase = .wait)
      ∧ entered { light with gap := 1 } (planned [{ light with gap := 1 }] soon) (fun v => v.seq.gapTimer = some 1)
      ∧ (pollLater light (running .stepStart up) ∧ entered light (running .stepStart up) fun v => v.bridge.waitingPoll = none)
      ∧ (¬ pollLater light soon ∧ entered light soon fun v => v.seq.phase = .expose ∧ v.seq.pollAt = none
        ∧ v.bridge.waitingPoll.map Transaction.claimant = some (.poll 1 256 0))
      ∧ entered light (pollsAtOnce (running .stepStart up)) fun v => v.seq.phase = .expose ∧ v.bridge.waitingPoll = none := by
  unfold pollLater
  exact ⟨⟨rfl, _, waitEntered_enterWait rfl, by decide⟩, ⟨rfl, _, waitEntered_enterWait rfl, by decide⟩,
    ⟨by decide, rfl, _, waitEntered_enterWait rfl, by decide⟩, ⟨by decide, rfl, _, waitEntered_enterWait rfl, by decide⟩,
    rfl, _, waitEntered_enterWait rfl, by decide⟩

/-- A step whose entries all end at their hand-over is left for EXPOSE, its poll claimed at once behind a busy bus. -/
theorem witness_StepScripted_leaves :
    let s := pollsAtOnce (busy .relay (.read 2) (planned [runs 3 2] idleBus))
    ∃ v t, StepScripted (runs 3 2) s v t ∧ t.seq.phase = .expose
      ∧ t.bridge.waitingPoll.map Transaction.claimant = some (.poll 1 256 0) :=
  ⟨_, _, ⟨busServed_iff.mpr rfl, by decide, fun h => absurd h (by decide),
    fun _ => ⟨_, waitEntered_enterWait rfl, ⟨rfl, rfl, rfl, rfl⟩, rfl, rfl, rfl, ⟨rfl, rfl⟩, rfl, rfl⟩, ⟨[], by decide⟩⟩, by decide⟩

/-- STEP_START entered with an entry that waits for a busy bus, with one on a free bus, and with none that passes its hand-over: the
step stands in the first, and its entries have ended in the last. -/
theorem witness_StepScripted :
    let entered := fun (st : PlanStep) (s : State) =>
      scriptsPresented (List.range' st.scriptFirst st.scriptCount) { s with seq.phase := .stepStart }
    (∃ v, BusServed (entered (runs 0 3) (busy .relay (.read 2) idleBus)) v ∧ scriptsEnded v = false ∧ v.seq.scriptLeft = [2])
      ∧ (∃ p, (entered (runs 1 1) idleBus).bridge.waitingScript = some p ∧ p.device ∈ idleBus.tables.bridgeAllow.seen)
      ∧ ∃ v, BusServed (entered (runs 3 2) closedBus) v ∧ scriptsEnded v = true
        ∧ v.out.queue = [.report .scriptResult false [0#8, 3#8, 6#8, 0#8], .report .scriptResult false [0#8, 4#8, 6#8, 0#8]] :=
  ⟨⟨_, busServed_iff.mpr rfl, by decide⟩, ⟨_, rfl, by decide⟩, ⟨_, busServed_iff.mpr rfl, by decide⟩⟩

/-! Lines, PART_RESET, Link Out -/

/-- A USER line at both levels, level 2, and a line that is no USER line. -/
theorem witness_LineRequestsSetAndRead :
    CanTake (asked 21#8 [0#8, 1#8] (listed userLine up)) 21 (request 21#8 [0#8, 1#8])
      ∧ CanTake (asked 21#8 [0#8, 2#8] (listed userLine up)) 21 (request 21#8 [0#8, 2#8])
      ∧ CanTake (asked 21#8 [5#8, 1#8] (listed userLine up)) 21 (request 21#8 [5#8, 1#8])
      ∧ CanTake (asked 22#8 [] (listed userLine up)) 22 (request 22#8 [])
      ∧ lineSetup (listed userLine up) 0 = { use := .output .user 500, invert := false, notify := false }
      ∧ lineSetup (listed userLine up) 5 = LineSetup.unlisted :=
  ⟨asked_can_be_taken _ _ _ rfl (by decide) rfl, asked_can_be_taken _ _ _ rfl (by decide) rfl,
    asked_can_be_taken _ _ _ rfl (by decide) rfl, asked_can_be_taken _ _ _ rfl (by decide) rfl, by decide, by decide⟩

/-- Taken at a full queue, in a take with a render in hand whose LINE is on the lane, the HOLD_REQ flag set and a transaction on the
bus; with nothing on the lane, and a pulse train on the bus, and with a render's FRAME_END kept back by the hold; with a RAW packet on the lane at a raw-run count of 32; and in CLEARING. -/
theorem witness_PartResetLeavesResetState :
    let good := fun s : State => s.port.requests.head? = some (request 23#8 []) ∧ s.out.locked = true
      ∧ (s.seq.takeState = .clearing ↔ s.arb.holder = .clearing)
    let s := asked 23#8 [] { busy .relay (.read 2) (inHold up) with
      out.queue := List.replicate 16 (.reply 1#8 17#8 .ok []), port.holdReqSent := true,
      out.renderQueue := [.frameEnd .final 2 false, .line .preview 1 []],
      out.inProgress := some (.render (.line .preview 0 []) true) }
    let quiet := asked 23#8 [] { up with port.holdReqSent := true, bridge.train := some 400 }
    let raw := asked 23#8 [] { up with out.rawRun := 32, out.inProgress := some (.rawEnd 0 false) }
    (request 23#8 []).kind.toNat = 23 ∧ (request 23#8 []).payload = [] ∧ (good s ∧ s.render.state = .active ∧ s.render.startBegun = true)
      ∧ (good quiet ∧ quiet.out.inProgress = none)
      ∧ (let back := asked 23#8 [] { held with out.renderQueue := [.frameEnd .final 2 false] }
        good back ∧ back.out.inProgress = none ∧ back.render.state ≠ .active) ∧ (good raw ∧ raw.out.inProgress ≠ none)
      ∧ (good (asked 23#8 [] (inTake .clearing up)) ∧ (inTake .clearing up).arb.holder = .clearing) := by decide

/-- The render's waiting LINE is withdrawn, and the frame is closed behind the LINE on the lane; an earlier FRAME_END stays (R142). -/
theorem test_part_reset_of_a_render :
    let t := after (exec .partReset (asked 23#8 [] { inHold up with
      out.renderQueue := [.frameEnd .final 2 false, .line .preview 1 []],
      out.inProgress := some (.render (.line .preview 0 []) true) }))
    t.out.inProgress = some (.render (.line .preview 0 []) false)
      ∧ t.out.renderQueue = [.frameEnd .final 2 false, .frameEnd .preview 1 true] := by decide

theorem witness_ReportsAndWaitingTrafficJoinQueue :
    up.params.reportMask.getLsbD (ReportKind.trail.code - 1) = true ∧ up.out.locked = true ∧ up.out.queue.length < 16
      ∧ ¬ (edge.out.locked = true ∧ edge.out.queue.length < 16) ∧ 16 ≤ edge.out.queue.length ∧ State.reset.out.locked = false
      ∧ { up with params.reportMask := 0#8 }.params.reportMask.getLsbD (ReportKind.trail.code - 1) = false
      ∧ { up with port.waiting := some (.due (.reply 1#8 20#8 .ok [])) }.port.waiting = some (.due (.reply 1#8 20#8 .ok []))
      ∧ { up with bridge.relays := [relay1 .onBus, relay1 (.replyWaiting .done [1#8, 2#8])] }.bridge.relays
        = [relay1 .onBus] ++ relay1 (.replyWaiting .done [1#8, 2#8]) :: []
      ∧ (∀ b ∈ [relay1 .onBus], b.isAnswered = false) ∧ edge.trails.queue = trail2 :: List.replicate 31 trail2 :=
  ⟨by decide, rfl, by decide, by decide, by decide, rfl, by decide, rfl, rfl, by decide, rfl⟩

def frame0 : ForwardedFrame :=
  { number := 0, frameId := 5, width := 4, height := 2, startBegun := true, linesSent := 1, isOpen := false, truncated := false }

def lined : FifoEntry := { entry0 with forward := .pending, frame := some 0 }

/-- RENDER_PREVIEW and RENDER_REPEAT on an idle lane, in COMPLETE and in FINISHED. -/
def previewAsked : State := asked 14#8 [] (inTake .complete up)
def repeatAsked : State := asked 15#8 [] (inTake .finished up)

/-- A packet end after which the lane is idle with nothing due, a render request on an idle lane, a queued packet at a raw-run count of
32, and a frame with its FRAME_START, a line, a FRAME_END and a truncated end due. -/
theorem witness_LaneServesSourcesInOrder :
    let queued := [QueuedPacket.reply 1#8 17#8 .ok []]
    let ends := { up with out.inProgress := some (.rawEnd 0 false) }
    let idle := fun s : State => LaneIdle s ∧ NothingOffered s ∧ s.render.state = .idle ∧ s.arb.holder = .none
    (¬ LaneIdle ends ∧ LaneIdle (after (exec .linkOutPacketEnd ends)))
      ∧ (idle previewAsked ∧ CanTake previewAsked 14 (request 14#8 [])
        ∧ previewAsked.seq.takeState ∉ [.aborted, .noTake, .clearing, .finishing])
      ∧ (idle repeatAsked ∧ CanTake repeatAsked 15 (request 15#8 []) ∧ repeatAsked.seq.takeState = .finished)
      ∧ { up with out.queue := queued, out.rawRun := 32 }.out.inProgress = none
      ∧ { up with fifo.frames := [{ frame0 with startBegun := false }] }.out.queue = []
      ∧ { up with fifo.frames := [frame0], fifo.entries := [lined] }.fifo.entries = [] ++ lined :: []
      ∧ (lined.forward = .pending ∧ lined.frame = some frame0.number) ∧ frame0.isOpen = false
      ∧ { frame0 with truncated := true }.truncated = true
      ∧ { up with out.renderQueue := [.frameEnd .final 2 false] }.out.renderQueue = .frameEnd .final 2 false :: []
      ∧ { up with out.inProgress := some (.rawEnd 0 false) }.out.inProgress ≠ none ∧ State.reset.out.locked = false :=
  ⟨⟨fun h => absurd h.2.2 (by decide), rfl, rfl, rfl⟩,
    ⟨⟨⟨rfl, rfl, rfl⟩, ⟨rfl, rfl, nofun⟩, rfl, rfl⟩, asked_can_be_taken _ _ _ rfl (by decide) rfl, by decide⟩,
    ⟨⟨⟨rfl, rfl, rfl⟩, ⟨rfl, rfl, nofun⟩, rfl, rfl⟩, asked_can_be_taken _ _ _ rfl (by decide) rfl, rfl⟩,
    rfl, rfl, rfl, ⟨rfl, rfl⟩, rfl, rfl, rfl, by decide, rfl⟩

/-- Either packet of RENDER_PREVIEW may start on an idle lane, and the other waits (R165). -/
theorem test_preview_or_its_reply_first :
    (after (exec .renderPreview previewAsked)).out.inProgress
      = some (if Config.idleLaneChoice 0 % 2 = 0 then .queued (.reply 7#8 14#8 .accepted [0#8, 0#8])
        else .render (.frameStart .preview 0 4 2) true) := by
  have free : laneFree (renderPreview (request 14#8 []) (removeRequest previewAsked)) = true := by decide
  have both : offers (renderPreview (request 14#8 []) (removeRequest previewAsked))
      = [.queued (.reply 7#8 14#8 .accepted [0#8, 0#8]), .render (.frameStart .preview 0 4 2) true] := by decide
  have event : after (exec .renderPreview previewAsked)
      = endEvent (renderPreview (request 14#8 []) (removeRequest previewAsked)) := rfl
  rw [event]
  unfold endEvent
  rw [startFirst_of_two_offers free both]
  change (beginPacket (if Config.idleLaneChoice 0 % 2 = 0 then _ else _) _).out.inProgress = _
  split <;> rfl

theorem witness_LinkOutLossAndRegain :
    (Coherent (inHold up) ∧ (inHold up).out.locked = true ∧ (inHold up).seq.phase = .hold) ∧ Coherent finishing
      ∧ finishing.seq.takeState = .finishing ∧ (Coherent (inReadout up) ∧ (inReadout up).seq.phase ≠ .hold)
      ∧ ((inHold up).log.openRecord = some record1 ∧ (inHold up).tables.plan.seen[(inHold up).seq.step]? = some light)
      ∧ (∃ p ∈ { inHold up with out.queue := [.report .trail false []] }.out.queue, p.isReport = true)
      ∧ State.reset.out.locked = false ∧ State.reset.out.queue = [] :=
  ⟨⟨coherent_inHold, rfl, rfl⟩, coherent_finishing, rfl, ⟨coherent_inReadout, by decide⟩, ⟨rfl, rfl⟩, by decide, rfl, rfl⟩

/-- A PREVIEW's last LINE is on the lane, and the Sequencer holds a FINAL request behind it. -/
def finalBehind : State :=
  { finishing with render.kind := .preview, seq.finalHeld := true, out.inProgress := some (.render (.line .preview 1 []) true) }

/-- An ingest waits in HOLD behind a PREVIEW whose last LINE is on the lane. -/
def holdBehind : State :=
  { inHold up with render.row := 1, render.rowHanded := true, out.inProgress := some (.render (.line .preview 1 []) true) }

/-- A RAW line, a reply, a LINE before the last and the last one: of the Sequencer's FINAL, of a PREVIEW behind which it holds one,
and of a PREVIEW with an ingest waiting. -/
theorem witness_PacketEndMovesItsSource :
    (Coherent { up with out.inProgress := some (.rawLine 0 0 0 []) } ∧ up.out.locked = true)
      ∧ Coherent { up with out.inProgress := some (.queued (.reply 1#8 17#8 .ok [])) }
      ∧ ((LanePacket.queued (.reply 1#8 17#8 .ok [])) matches .rawLine _ _ _ _) = false
      ∧ (Coherent { finishing with render.row := 0 } ∧ { finishing with render.row := 0 }.render.row + 1 < finishing.settings.height)
      ∧ (Coherent finishing ∧ finishing.settings.height ≤ finishing.render.row + 1 ∧ finishing.seq.finalHeld = false
        ∧ finishing.arb.waiting = .none ∧ finishing.render.kind = .final)
      ∧ (Coherent finalBehind ∧ finalBehind.seq.finalHeld = true)
      ∧ (Coherent holdBehind ∧ holdBehind.arb.waiting = .ingest ∧ holdBehind.log.openRecord = some record1
        ∧ holdBehind.tables.plan.seen[holdBehind.seq.step]? = some light) := by
  refine ⟨⟨?_, rfl⟩, ?_, rfl, ⟨?_, by decide⟩, ⟨coherent_finishing, by decide⟩, ⟨?_, rfl⟩, ?_, rfl, rfl, rfl⟩ <;> constructor <;> decide

/-! Link In -/

theorem witness_LinkInLockAndDiscardedInput :
    [1#16].length ≤ 65535 ∧ ([0#8, 5#8, 0#8, 1#8, 0#8, 0#8, 0#8] : List Byte).length < 6 + 2 * read2 [0#8, 5#8, 0#8, 1#8] 2
      ∧ (0x11#8 : Byte) ∉ [0x01#8, 0x02#8, 0x03#8] ∧ [0#8].length ≠ 2
      ∧ State.reset.link.locked = false ∧ (up.link.locked = true ∧ up.link.readout = none)
      ∧ (inFrame up).link.locked = true ∧ (inFrame up).link.readout ≠ none := by decide

/-- No readout, one that waits for its frame, and one that has seen it, with an open record of either kind; and frames that are
forwarded, Link Out locked or not, behind one whose last FRAME_END is due; and a stray one that the next FRAME_START ends. -/
theorem witness_FrameStartBeginsFrame :
    up.link.locked = true ∧ up.link.readout = none
      ∧ (inReadout up).link.readout = some { kind := .light, forward := false, seenFrame := false }
      ∧ (inFrame up).link.readout = some { kind := .light, forward := false, seenFrame := true }
      ∧ (inReadout up).log.openRecord = some record1
      ∧ { inReadout up with link.readout := some { kind := .dark, forward := true, seenFrame := false } }.link.readout
        = some { kind := .dark, forward := true, seenFrame := false }
      ∧ { up with params.strayForward := true, fifo.frames := [frame0] }.link.locked = true
      ∧ (let s := { up with
          link.frame := .stray, link.forwarding := .frame 0, fifo.frames := [{ frame0 with isOpen := true }], fifo.nextFrame := 1 }
        s.link.locked = true ∧ s.link.forwarding = .frame 0 ∧ 0 < s.fifo.nextFrame)
      ∧ ({ up with out.locked := false, params.strayForward := true }.link.locked = true ∧ up.out.locked = true) := by decide

def fourWords : List Half := [1#16, 2#16, 3#16, 4#16]

/-- A bad CRC, a row before the next one, the next, the last and one beyond it, at a FIFO with room and at a full one, and one
that ends before its CRC; a LINE without a frame; and a stray LINE of a forwarded frame, in an empty FIFO and in the last place. -/
theorem witness_LineSettlesItsRow :
    let second := { inFrame up with link.lastRow := some 0 }
    let stray := { running .wait up with
      link.frame := .stray, link.forwarding := .frame 0, fifo.frames := [{ frame0 with isOpen := true }] }
    (inFrame up).link.frame = .subframe ∧ crc16 (lineBytes 0#16 fourWords) ≠ 0#16 ∧ fourWords.length = (inFrame up).settings.width
      ∧ (0#16 : Half).toNat < (second.link.lastRow.map fun r => r + 1).getD 0
      ∧ ((second.link.lastRow.map fun r => r + 1).getD 0 ≤ (1#16 : Half).toNat ∧ (1#16 : Half).toNat + 1 = second.settings.height)
      ∧ second.settings.height ≤ (2#16 : Half).toNat ∧ second.log.openRecord = some record1
      ∧ (inFrame up).fifo.entries.length < 48 ∧ ¬ { inFrame up with fifo := edge.fifo }.fifo.entries.length < 48
      ∧ up.link.frame = .none ∧ stray.link.frame = .stray ∧ stray.link.forwarding = .frame 0 ∧ stray.link.locked = true
      ∧ fourWords.length = stray.settings.width ∧ stray.link.forwarding ≠ .no ∧ stray.fifo.entries.length < 48
      ∧ { stray with fifo.entries := List.replicate 47 lined }.fifo.entries.length < 48
      ∧ (none : Option Half) ≠ some (crc16 (lineBytes 0#16 fourWords)) := by decide +kernel

/-- At the sixteenth place and a drop level of 16 every line that waits is given up, those ingest has finished leave, and the frame is
truncated; one place below, the line joins PENDING (R60, R62). -/
theorem test_drop_level :
    let waiting := { lined with cls := LineClass.stray, ingestDone := true }
    let pushes := fun (count : Nat) => pushEntry 3 (some [1, 2, 3, 4]) .subframe { up with
      params.forwardDropLevel := 16, fifo.entries := List.replicate count waiting, fifo.frames := [frame0],
      link.forwarding := .frame 0 }
    let (full, below) := (pushes 15, pushes 14)
    full.fifo.entries.map FifoEntry.forward = [.abandoned] ∧ full.fifo.frames = [{ frame0 with truncated := true }]
      ∧ full.link.forwarding = .abandoned
      ∧ below.fifo.entries.map FifoEntry.forward = List.replicate 15 .pending ∧ below.link.forwarding = .frame 0 := by decide

theorem witness_FrameEndAndTimeoutEndReadout :
    (inFrame up).link.locked = true ∧ (inFrame up).link.frame = .subframe
      ∧ { up with link.frame := .stray }.link.frame = .stray ∧ up.link.frame = .none
      ∧ (inReadout up).seq.readoutTimer = some 9000
      ∧ { inFrame (allowed up) with bridge.relays := [relay1 .waiting] }.bridge.state = .idle := by decide

/-! The Sequencer's events -/

/-- A dark first step with a settle time, and a light one with a trigger, a gap of 1 and a gap of 0, and one with script entries on a
free and on a busy bus; what serving the bus leaves there is in witness_StepScripted. -/
theorem witness_ClearingPassStartsFirstStep :
    let good := fun (s : State) (st : PlanStep) => MemoryWf s ∧ s.seq.takeState = .clearing ∧ s.arb.holder = .clearing
      ∧ s.tables.plan.seen[s.seq.step]? = some st ∧ s.seq.shutter = false
    good (planned [dark] (inTake .clearing up)) dark ∧ dark.kind = .dark ∧ up.params.shutterSettle ≠ 0
      ∧ good (inTake .clearing up) light
      ∧ good (planned [runs 0 3] (scripted (inTake .clearing up))) (runs 0 3)
      ∧ good (planned [runs 0 3] (busy .relay (.read 2) (scripted (inTake .clearing up)))) (runs 0 3)
      ∧ good (planned [{ light with gap := 1 }] (inTake .clearing up)) { light with gap := 1 }
      ∧ good (planned [{ light with cadence := .external }] (inTake .clearing up)) { light with cadence := .external } := by
  refine ⟨⟨⟨rfl, rfl⟩, ?_⟩, rfl, by decide, ⟨⟨rfl, rfl⟩, ?_⟩, ⟨⟨rfl, rfl⟩, ?_⟩, ⟨⟨rfl, rfl⟩, ?_⟩, ⟨⟨rfl, rfl⟩, ?_⟩,
    ⟨⟨rfl, rfl⟩, ?_⟩⟩ <;> decide

/-- Script entries outstanding or not, each cadence, and an exposure as long as poll_lead and one longer; what the entry to EXPOSE leaves
is in witness_WaitEntered. -/
theorem witness_SettleAndGapTimersLeadToExposure :
    let s := { running .stepStart up with seq.settleTimer := some 10 }
    s.seq.settleTimer = some 10 ∧ s.seq.phase = .stepStart ∧ scriptsEnded s = true
      ∧ scriptsEnded { s with seq.scriptLeft := [31] } = false ∧ s.tables.plan.seen[s.seq.step]? = some light
      ∧ { running .wait up with seq.gapTimer := some 10 }.seq.gapTimer = some 10 ∧ pollLater light s
      ∧ ¬ pollLater light { s with params.tempSource := .sensorRegister, params.pollLead := 1 }
      ∧ pollLater { light with exposure := 1001 } { s with params.tempSource := .sensorRegister, params.pollLead := 1 } := by
  unfold pollLater
  decide

theorem witness_ExposureEndClaimsPlane :
    (Coherent (inExpose up) ∧ (inExpose up).seq.exposureTimer = some 1000 ∧ (inExpose up).arb.holder = .none)
      ∧ (Coherent (rendering (inExpose up)) ∧ (rendering (inExpose up)).arb.holder ≠ .none)
      ∧ (inExpose up).params.maxExtension ≠ 0 ∧ Coherent { rendering (inExpose up) with params.maxExtension := 0 }
      ∧ (Coherent (inHold up) ∧ (inHold up).seq.extensionTimer = some 5000)
      ∧ (inExpose up).log.openRecord = some record1 ∧ (inHold up).tables.plan.seen[(inHold up).seq.step]? = some light :=
  ⟨⟨coherent_inExpose, rfl, rfl⟩, ⟨coherent_inExpose_rendering, by decide⟩, by decide, by constructor <;> decide,
    ⟨coherent_inHold, rfl⟩, rfl, rfl⟩

/-- The defect cursor at the opening of a readout passes what is outside the geometry up to the first entry within it (R68, R69). -/
theorem test_defect_cursor :
    (after (exec .exposureTimerExpiry { inExpose up with tables.defects := {
      state := .ready, entries := [⟨0, 4, .exclude⟩, ⟨1, 3, .substitute⟩, ⟨1, 4, .exclude⟩, ⟨2, 0, .exclude⟩] } })).cal.cursor = 1 := by
  decide

/-- A GOOD row and a lost-row marker, in a light and in a dark subframe, behind an entry already done, in a frame of the smallest
width and in one too small for the values. -/
theorem witness_IngestCountsEverySample :
    let good := fun (s : State) (e : FifoEntry) (q : SubframeRecord) => MemoryWf s ∧ s.arb.holder = .ingest ∧ 0 < s.settings.width
      ∧ s.fifo.entries = [{ lined with ingestDone := true }] ++ e :: [] ∧ e.cls = .subframe ∧ e.ingestDone = false
      ∧ (∀ b ∈ [{ lined with ingestDone := true }], b.cls = .subframe → b.ingestDone = true) ∧ s.log.openRecord = some q
      ∧ ∀ pixels, e.pixels = some pixels → pixels.length = s.settings.width
    let s := fun (e : FifoEntry) (q : SubframeRecord) =>
      { inReadout up with fifo.entries := [{ lined with ingestDone := true }, e], log.openRecord := some q }
    let wide := fun (e : FifoEntry) (q : SubframeRecord) => { s e q with settings.width := 256, tables := filled }
    let row := { entry0 with number := 1, pixels := some (List.replicate 256 16383) }
    let marker := { entry0 with number := 1, pixels := none }
    good (s { entry0 with number := 1 } record1) { entry0 with number := 1 } record1
      ∧ good (wide row record1) row record1 ∧ good (wide marker { record1 with kind := .dark }) marker { record1 with kind := .dark }
      ∧ 256 ≤ (wide row record1).settings.width ∧ row.row < (wide row record1).settings.height
      ∧ Tables.Sound (wide row record1).tables := by
  refine ⟨⟨⟨rfl, rfl⟩, rfl, by decide, rfl, rfl, rfl, by decide, rfl, ?_⟩, ⟨⟨rfl, rfl⟩, rfl, by decide, rfl, rfl, rfl, by decide, rfl, ?_⟩,
    ⟨⟨rfl, rfl⟩, rfl, by decide, rfl, rfl, rfl, by decide, rfl, nofun⟩, by decide, by decide, filled_sound⟩
  · intro pixels h
    cases h
    rfl
  · intro pixels h
    cases h
    exact List.length_replicate

/-- A segment at the edge of a trail's margin and one beyond it, with room and at 16 open trails; a trail one short of min_extent
and one of min_extent, at the 255th number and after it. -/
theorem witness_IngestCountsEverySample_detector :
    let hit := fun (s : State) (g : Segment) (t : OpenTrail) => decide (1528 ≤ t.lastRow + 1 + s.params.gapRows
      ∧ t.spanLeft ≤ g.right + s.params.margin ∧ g.left ≤ t.spanRight + s.params.margin)
    let s := { up with trails.openTrails := [t2, t1] }
    let at_ := fun left : Nat => ({ left := left, right := left + 3, flagged := 4, sky := true, ground := false } : Segment)
    let closing := { t1 with firstRow := 1500, lastRow := 1503, minCol := 3000, maxCol := 3063 }
    hit s (at_ 3047) t1 = true ∧ hit s (at_ 3047) t2 = false ∧ hit s (at_ 3046) t1 = false ∧ s.trails.openTrails = [t2] ++ t1 :: []
      ∧ (∀ t ∈ edge.trails.openTrails, hit edge (at_ 3046) t = false) ∧ 16 ≤ edge.trails.openTrails.length
      ∧ s.trails.openTrails.length < 16
      ∧ s.params.minExtent ≤ max (closing.lastRow - closing.firstRow + 1) (closing.maxCol - closing.minCol + 1)
      ∧ max (closing.lastRow - closing.firstRow + 1) (3062 - closing.minCol + 1) < s.params.minExtent
      ∧ { up with trails.counter := 255 }.trails.counter ≤ 255 ∧ 255 < edge.trails.counter := by decide

/-- SETTLE with a row of four samples and a marker left in the Line FIFO, of a frame of four by two. -/
def leftOver : State :=
  { inSettle held with
    log.openRecord := some { record1 with lost := 4 },
    fifo.entries := [{ entry0 with pixels := some [300, 300, 300, 300] }, { entry0 with number := 1, row := 1, pixels := none }] }

/-- The last subframe of the plan and one before it; each flag that decides what follows; a light and a dark record; the
auto-preview counter at its mark, before it, and off; and two entries left to ingest, one of them a marker. -/
theorem witness_SettleEndClosesSubframe :
    let good := fun s : State => Coherent s ∧ MemoryWf s ∧ 0 < s.settings.width ∧ s.seq.phase = .settle
      ∧ s.tables.plan.seen[s.seq.step]? = some light
    good (inSettle up) ∧ good { inSettle up with seq.count := 1 } ∧ good { inSettle up with seq.abortPending := true }
      ∧ good { inSettle up with seq.stopPending := true, seq.finishPending := true }
      ∧ good { inSettle up with seq.pausePending := true, seq.closeAbandoned := true }
      ∧ good { inSettle up with log.openRecord := some { record1 with kind := .dark, frameCounter := some 1#16 } }
      ∧ good { inSettle up with params.autoPreview := 1 } ∧ good { inSettle up with params.autoPreview := 2 }
      ∧ good { inSettle up with settings.sky := peaked, plane := [(0, crossed), (4, crossed)], link.rowMap := [(1, .ingested)] }
      ∧ good { inSettle up with out.queue := List.replicate 16 (.reply 1#8 17#8 .ok []) }
      ∧ good leftOver := by
  refine ⟨?_, ?_, ?_, ?_, ?_, ?_, ?_, ?_, ?_, ?_, ?_⟩ <;>
    exact ⟨by constructor <;> decide, by constructor <;> decide, by decide, rfl, rfl⟩

/-- What is left to ingest goes into the record that SETTLE_END closes: a row of four samples, and a marker that settles nothing. -/
theorem test_settle_end_finishes_ingest :
    IngestFinished leftOver (ingestNext (ingestNext leftOver))
      ∧ ((after (exec .settleEnd leftOver)).log.closed.map fun q => (q.admitted, q.lost)) = [(4, 4)] :=
  ⟨ingestFinished_finishIngest 2 leftOver (by decide), by decide +kernel⟩

/-- A step that ends where the take goes on: SHUTTER changes or stays, with each cadence, with script entries on a free and on a busy
bus, with entries that all end at their hand-over, and behind a render PENDING; and a step that goes on. -/
theorem witness_SettleEndClosesSubframe_goes_on :
    let ends := fun (first second : PlanStep) => planned [first, second] (inSettle up)
    let good := fun (s : State) (st next : PlanStep) => Coherent s ∧ MemoryWf s ∧ 0 < s.settings.width
      ∧ s.log.openRecord = some record1
      ∧ s.tables.plan.seen[s.seq.step]? = some st ∧ s.tables.plan.seen[s.seq.step + if st.count ≤ s.seq.count + 1 then 1 else 0]? = some next
      ∧ s.seq.abortPending = false ∧ s.seq.stopPending = false ∧ s.seq.pausePending = false
    let one := { light with count := 1 }
    good (ends one { light with gap := 5 }) one { light with gap := 5 } ∧ good (ends one light) one light
      ∧ good (ends one { light with cadence := .external }) one { light with cadence := .external }
      ∧ good { ends one light with seq.shutter := true } one light ∧ good (ends { light with count := 2 } light) { light with count := 2 } { light with count := 2 }
      ∧ good (ends one (runs 0 3) |> scripted) one (runs 0 3) ∧ good (ends one (runs 0 3) |> scripted |> busy .relay (.read 2)) one (runs 0 3)
      ∧ good (ends one (runs 3 2) |> scripted) one (runs 3 2)
      ∧ (good { ends one light with render.state := .pending, arb.waiting := .render } one light
        ∧ { ends one light with render.state := .pending, arb.waiting := .render }.render.state = .pending)
      ∧ up.params.shutterSettle ≠ 0 := by
  refine ⟨?_, ?_, ?_, ?_, ?_, ?_, ?_, ?_, ⟨?_, rfl⟩, by decide⟩ <;>
    exact ⟨by constructor <;> decide, by constructor <;> decide, by decide⟩

/-- The step moves from dark to light: SHUTTER goes inactive and the settle time runs from then (R7, R14). -/
theorem test_settle_end_moves_on :
    let t := after (exec .settleEnd { planned [dark, light] (inSettle held) with
      log.openRecord := some { record1 with kind := .dark }, seq.shutter := true, now := 7 })
    t.seq.phase = .stepStart ∧ t.seq.shutter = false ∧ t.seq.settleTimer = some 500007 := by decide +kernel

/-! Pins, temperatures -/

/-- An OUTPUT and INPUT lines of each function, a pin that moves and one that does not, a debounce of 0 and of 200. -/
theorem witness_PinsAndEdges :
    let out := { listed userLine up with lines.l0.minTimer := some 9 }
    let edged := { listed feedbackLine (inExpose up) with lines.l0.outside := true, lines.l0.debounceTimer := some 450 }
    (out.lines.get 0).minTimer = some 9 ∧ (lineSetup out 0).use = .output .user 500 ∧ (out.lines.get 0).outside ≠ true
      ∧ (lineSetup edged 0).use = .input .expFeedback 200 ∧ (edged.lines.get 0).debounceTimer = some 450
      ∧ (edged.lines.get 0).outside ≠ (edged.lines.get 0).accepted ∧ edged.meas.armed = true ∧ edged.meas.startCapture = none
      ∧ ({ edged with lines.l0.accepted := true }.lines.get 0).outside = ({ edged with lines.l0.accepted := true }.lines.get 0).accepted
      ∧ (lineSetup (listed triggerLine up) 0).use = .input .triggerIn 0
      ∧ (lineSetup (listed pauseLine (running .wait up)) 0).use = .input .pauseIn 0
      ∧ ((listed pauseLine (running .wait up)).lines.get 0).outside ≠ true
      ∧ ((listed pauseLine (running .wait up)).lines.get 0).accepted ≠ true
      ∧ (running .wait up).seq.phase ∈ [Phase.stepStart, .wait] ∧ (listed stopLine (inTake .paused up)).seq.takeState = .paused
      ∧ (lineSetup (listed stopLine (inHold up)) 0).use = .input .stopIn 0 ∧ (lineSetup up 0).use = .input .none 0
      ∧ ({ listed pauseLine up with lines.l0.accepted := true }.lines.get 0).outside ≠ true
      ∧ ({ listed pauseLine up with lines.l0.accepted := true }.lines.get 0).accepted = true
      ∧ { light with cadence := .external }.cadence = .external
      ∧ ¬ pollLater light { up with params.tempSource := .sensorRegister, params.pollLead := 1 } := by
  unfold pollLater
  decide

theorem witness_TemperaturesAndHeater :
    up.temps.due = .th0 ∧ { up with temps.due := .th1 }.temps.due = .th1
      ∧ { up with heater.pwmActive := true, heater.activeUs := 9999 }.heater.activeUs < 10000
      ∧ 10000 ≤ { up with heater.pwmActive := true, heater.activeUs := 10000 }.heater.activeUs ∧ up.heater.pwmActive = false
      ∧ signalHeater { up with heater.pwmActive := true, params.heaterEnable := true } = true
      ∧ (lineSetup (listed { line := 0, flags := 1#8, use := .output .heater 0 } (inExpose up)) 0).use = .output .heater 0
      ∧ (inExpose up).seq.exposureTimer ≠ none ∧ (inExpose up).arb.holder = .none ∧ (up.lines.get 0).minTimer = none := by
  decide

/-! Renders and visits -/

/-- The last row of a frame with a record, a saturated one and holes, under MEAN_REJECT, and a PEAK and an EXCLUDE region. -/
theorem witness_RenderFormsRowFromPlane :
    let s := { rendering (inTake .complete up) with render.row := 1, plane := [(4, afterFour), (5, { Pixel.cleared with sat := 1 })] }
    s.render.state = .active ∧ s.render.rowHanded = false ∧ s.render.row < s.settings.height ∧ readPixel s 4 = afterFour
      ∧ (pixelPolicy s.settings 1 0).mode = .meanReject
      ∧ (pixelPolicy { s.settings with sky := peaked } 1 3).mode = .peak
      ∧ (pixelPolicy { s.settings with vertices := [⟨0, 0⟩], ground := { peaked with mode := .exclude } } 1 3).mode = .exclude := by
  decide

/-- A sample exactly at the limit passes, and one step beyond it is an outlier (R93): with n 4, m16 0, M2 0 and kq 16 the limit
is |d| = 32. -/
theorem witness_LightVisitUpdatesRecord :
    let p : Policy := { worked with kappa := 16 }
    let px : Pixel := { Pixel.cleared with n := 4 }
    let outlier := fun y : Int => p.warmup ≤ px.n
      ∧ (p.kappa ^ 2 * max (px.m2 / (px.n - 1)) (256 * p.sigmaFloor ^ 2) : Int) < (16 * y - px.m16) ^ 2 * 256
    ¬ outlier 2 ∧ outlier 3 ∧ ¬ outlier (-2) ∧ outlier (-3) ∧ worked.mode = .meanReject ∧ peaked.mode = .peak
      ∧ fading.mode = .peakFade ∧ (4095 : Nat) ≤ { px with n := 4095 }.n := by decide

theorem witness_CurvesInterpolateAndRound :
    (-1 : Int) ≤ (⟨0, 2048⟩ : CurvePoint).x ∧ threePoints = [⟨0, 2048⟩, ⟨24, 4096⟩] ++ [⟨48, 8192⟩]
      ∧ threePoints.Pairwise (fun a b => a.x < b.x) ∧ (48 : Int) ≤ 48
      ∧ threePoints = [] ++ ⟨0, 2048⟩ :: ⟨24, 4096⟩ :: [⟨48, 8192⟩] ∧ ((0 : Int) ≤ 0 ∧ (24 : Int) ≤ 24) ∧ (0 : Int) < 2
      ∧ { eightDarks with darkCount := 0 }.darkCount = 0 ∧ 0 < eightDarks.darkCount ∧ { eightDarks with darkTempCount := 0 }.darkTempCount = 0
      ∧ 0 < eightDarks.darkTempCount ∧ interpolate threePoints 16 = some 3413
      ∧ interpolate threePoints (roundDiv eightDarks.darkTempTotal eightDarks.darkTempCount) = some 7168 := by decide

/-! Rules of the whole part -/

theorem witness_HeldLaneStartsNothing :
    ∃ t, exec .linkOutPacketEnd { held with out.inProgress := some (.rawEnd 0 false), out.renderQueue := [.frameEnd .final 2 false] }
      = .next t ∧ t.out.held = true := ⟨_, rfl, by decide⟩

theorem witness_PlaneChangesOnlyUnderItsHolder :
    Coherent (rendering (inExpose up)) ∧ (rendering (inExpose up)).arb.holder = .render
      ∧ Instr.extensionTimerExpiry ≠ .resetN ∧ (∀ pins, Instr.extensionTimerExpiry ≠ .powerOn pins)
      ∧ ∃ t, exec .exposureTimerExpiry (rendering (inExpose up)) = .next t :=
  ⟨coherent_inExpose_rendering, rfl, by decide, nofun, _, rfl⟩

theorem witness_LogAndSetupChangeOnlyByTheirRequests :
    Instr.settleEnd ≠ .resetN ∧ (∀ pins, Instr.settleEnd ≠ .powerOn pins) ∧ (∃ t, exec .settleEnd (inSettle up) = .next t)
      ∧ Instr.settleEnd ∉ [Instr.takeStart, .takeClear, .partReset]
      ∧ Instr.settleEnd ∉ [Instr.tableOpen, .tableAppend, .tableClose] :=
  ⟨by decide, nofun, ⟨_, rfl⟩, by decide, by decide⟩

end Sys2Proof.Tests
end

section
/-! PROOFS. TAKE_CLEAR (R22): states that differ in the HOLD_REQ flag and in flow symbols alone still do after a reply, a report
or the forgetting of the take, so the request's effect can be read off the state in which it has simply left the queue. -/

namespace Sys2Proof.Machine

/-! ### What keeps two states apart in flow symbols alone -/

/-- Two such states may queue the same packet. -/
theorem FlowApart.append {u v : State} (h : FlowApart u v) (p : QueuedPacket) :
    FlowApart { u with out.queue := u.out.queue ++ [p] } { v with out.queue := v.out.queue ++ [p] } :=
  ⟨congrArg (fun w : State => { w with out.queue := w.out.queue ++ [p] }) h.rest, h.begun⟩

/-- They may set or clear the lost-reports flag alike. -/
theorem FlowApart.lostReports {u v : State} (h : FlowApart u v) (lost : Bool) :
    FlowApart { u with port.lostReports := lost } { v with port.lostReports := lost } :=
  ⟨congrArg (fun w : State => { w with port.lostReports := lost }) h.rest, h.begun⟩

/-- A report is formed, queued or lost in the one state as in the other (R166, R188, R189). -/
theorem FlowApart.queueReport {u v : State} (h : FlowApart u v) (k : ReportKind) (p : List Byte) :
    FlowApart (queueReport k p u) (queueReport k p v) := by
  have params : v.params = u.params := congrArg (·.params) h.rest
  have queue : v.out.queue = u.out.queue := congrArg (·.out.queue) h.rest
  have locked : v.out.locked = u.out.locked := congrArg (·.out.locked) h.rest
  have enabled : reportEnabled v k = reportEnabled u k := by simp only [reportEnabled, params]
  have taken : (v.out.locked && outQueueHasRoom v) = (u.out.locked && outQueueHasRoom u) := by
    simp only [outQueueHasRoom, locked, queue]
  have lost : v.port.lostReports = u.port.lostReports := congrArg (·.port.lostReports) h.rest
  simp only [Machine.queueReport, formReport, enabled, taken, lost]
  split_ifs with formed joins
  · exact (h.append (.report k u.port.lostReports p)).lostReports false
  · exact h.lostReports true
  · exact h

/-- The reply of a request just taken, seen from the state in which it has simply left the queue (R176). -/
theorem replied_apart {s : State} {n : Nat} {r : Request} (can : CanTake s n r) (st : Status) (p : List Byte) :
    FlowApart (replied r st p s) (answer r st p (removeRequest s)) := by
  rw [answer_queued (by simpa using can.locked) (by simpa using can.room)]
  exact (removeRequest_apart s).append (r.reply st p)

/-! ### The take forgotten (R22) -/

/-- What R22 clears: the log, the plane's mark, the pending flags and the position; the take stands in NO_TAKE, with the phase
and the step signals that R1 and R16 give it there. -/
def forgetTake (s : State) : State :=
  { s with
    seq := { s.seq with
      takeState := .noTake, phase := .none, planeValid := false, step := 0, count := 0, pausePending := false,
      stopPending := false, finishPending := false, abortPending := false, shutter := false, stepLevel := false },
    log := { closed := [], openRecord := none } }

/-- They may forget the take alike. -/
theorem FlowApart.forgetTake {u v : State} (h : FlowApart u v) : FlowApart (forgetTake u) (forgetTake v) :=
  ⟨congrArg Machine.forgetTake h.rest, h.begun⟩

/-- The TAKE_STATE report then names NO_TAKE, phase NONE, step 0 and subframe index 0 (R1, R2). -/
theorem takeStatePayload_forgetTake (s : State) : takeStatePayload (forgetTake s) = [0#8, 0#8, 0#8, 0#8, 0#8] := by
  have zeros : byteOf 0 :: byteOf 0 :: byteOf 0 :: bytes2 0 = [0#8, 0#8, 0#8, 0#8, 0#8] := by decide
  exact zeros

/-- TAKE_CLEAR's effect is the take forgotten, and then the TAKE_STATE report (R1, R22). -/
theorem clearTake_ends (s : State) :
    Ends (queueReport .takeState [0#8, 0#8, 0#8, 0#8, 0#8] (forgetTake s)) (clearTake s) := by
  have entered : clearTake s = driveLines (reportTakeState (forgetTake s)) := by
    simp only [clearTake, enterTake, TakeState.keepsLevels, Bool.and_false]
    rfl
  rw [entered, ← takeStatePayload_forgetTake s]
  exact ⟨stillPart_driveLines _, rfl, rfl⟩

/-- The model's check names the take states of R22. -/
theorem clearable_iff (t : TakeState) : t.clearable = true ↔ t ∈ [TakeState.complete, .finished, .aborted] := by
  cases t <;> decide

/-! ### The request -/

/-- TAKE_CLEAR that can be taken is carried out on the state in which it has left the queue. -/
theorem exec_takeClear {s : State} {r : Request} (can : CanTake s 13 r) (empty : r.payload = []) :
    exec .takeClear s = .next (endEvent (takeClear r (removeRequest s))) := by
  have carried : fixedLength 0 takeClear r (removeRequest s) = takeClear r (removeRequest s) := if_pos (by simp [empty])
  rw [← carried]
  exact takeRequest_of_canTake can (fixedLength 0 takeClear)

/-- What TAKE_CLEAR looks at is not moved by its taking: the take state and the Render Unit's state (R22). -/
theorem takeClear_removeRequest (r : Request) (s : State) :
    takeClear r (removeRequest s) =
      if s.seq.takeState.clearable = false then answer r .badState [] (removeRequest s)
      else if s.render.state ≠ .idle then answer r .busy [] (removeRequest s)
      else clearTake (answer r .ok [] (removeRequest s)) := by
  have take : (removeRequest s).seq = s.seq := by rw [removeRequest_frame]
  have unit : (removeRequest s).render = s.render := by rw [removeRequest_frame]
  simp [takeClear, take, unit]

/-- TAKE_CLEAR taken and granted: the reply, then the take forgotten and its report. -/
theorem clearTake_answer_ends {s : State} {n : Nat} {r : Request} (can : CanTake s n r) :
    Ends (queueReport .takeState [0#8, 0#8, 0#8, 0#8, 0#8] (forgetTake (replied r .ok [] s)))
      (endEvent (clearTake (answer r .ok [] (removeRequest s)))) :=
  have reported := ((replied_apart can .ok []).forgetTake.queueReport .takeState [0#8, 0#8, 0#8, 0#8, 0#8]).ends
  (reported.trans (clearTake_ends _)).endEvent

/-- Settles O31: the request is judged on the take and the Render Unit it found, and each outcome ends as its reply alone or, when
granted, as the reply, the take forgotten and the report. -/
theorem takeClearForgetsTake : Obligations.TakeClearForgetsTake := by
  intro s r can empty
  refine ⟨_, exec_takeClear can empty, ?_, ?_, ?_⟩ <;> rw [takeClear_removeRequest, ← clearable_iff]
  · intro clears idle
    simp only [clears, idle, Bool.true_eq_false, ne_eq, not_true_eq_false, if_false]
    exact clearTake_answer_ends can
  · intro clears working
    simpa [clears, working] using answer_ends can .busy []
  · intro refused
    simpa [refused] using answer_ends can .badState []

end Sys2Proof.Machine
end

section
/-! PROOFS. A light sample's visit to a pixel record (R93 to R101): each of the Accumulator's steps in the spec's own words, the
visits of the three modes put together from them, and the box test behind a veto. -/

namespace Sys2Proof.Machine

/-! ### Running statistics (R93, R94) -/

/-- The outlier test on the exact integers (R93). -/
def BeyondLimit (p : Policy) (px : Pixel) (y : Int) : Prop :=
  p.warmup ≤ px.n
    ∧ (p.kappa ^ 2 * max (px.m2 / (px.n - 1)) (256 * p.sigmaFloor ^ 2) : Int) < (16 * y - px.m16) ^ 2 * 256

theorem isOutlier_iff {p : Policy} {px : Pixel} {y : Int} : isOutlier p px y = true ↔ BeyondLimit p px y := by
  simp [isOutlier, BeyondLimit, variance256, deviation]

/-- A record x folds y in and becomes x', unless its n is 4095 already (R94). -/
def Folded (x x' : Pixel) (y : Int) : Prop :=
  if 4095 ≤ x.n then x' = x
  else x' = { x with n := x.n + 1, m16 := x.m16 + roundDiv (16 * y - x.m16) (x.n + 1), m2 := x'.m2 }
    ∧ (x'.m2 : Int) = x.m2 + (16 * y - x.m16) * (16 * y - x'.m16)

/-- A rounded share of d stays between 0 and d, so what it leaves of d has the sign of d: M2 never decreases (R94). -/
theorem deviations_product_nonneg (d : Int) (n : Nat) : 0 ≤ d * (d - roundDiv d (n + 1)) := by
  obtain ⟨low, high⟩ := roundDiv_share (d := d) (k := 1) (b := n + 1) (by omega) (by omega) (by omega)
  rw [mul_one] at low high
  rcases le_total 0 d with nonneg | nonpos
  · exact mul_nonneg nonneg (by omega)
  · exact mul_nonneg_of_nonpos_of_nonpos nonpos (by omega)

theorem folded_welford (px : Pixel) (y : Int) : Folded px (welford px y) y := by
  unfold Folded welford
  split
  · rfl
  · have gain := deviations_product_nonneg (16 * y - px.m16) px.n
    rw [sub_sub] at gain
    exact ⟨rfl, by rw [deviation, Nat.cast_add, Int.toNat_of_nonneg gain]⟩

/-- The Welford update leaves the peak and the pending value alone. -/
theorem welford_peak (px : Pixel) (y : Int) : (welford px y).peak = px.peak := by
  unfold welford
  split <;> rfl

theorem welford_pending (px : Pixel) (y : Int) : (welford px y).pending = px.pending := by
  unfold welford
  split <;> rfl

/-! ### The steps of a peak visit (R97, R99, R101) -/

/-- A value lies above an optional peak. -/
theorem raises_iff {v : Int} {peak : Option Int} : raises v peak = true ↔ ∀ k ∈ peak, k < v := by
  cases peak <;> simp [raises]

/-- Step (a): no pending value is left, and the peak is the settled one (R97). -/
theorem commitPending_eq (vetoed : Nat → Bool) (px : Pixel) :
    commitPending vetoed px = { px with peak := settledPeak vetoed px, pending := none } := by
  obtain ⟨n, sat, m16, m2, darkN, darkSum, peak, pending⟩ := px
  cases pending with
  | none => rfl
  | some waiting =>
    obtain ⟨v, sf⟩ := waiting
    simp only [commitPending, settledPeak, Bool.and_eq_true, Bool.not_eq_true', raises_iff]

/-- The peak after step (b): moved toward the mean in PEAK_FADE once n is at least 1 (R99). -/
def fadedPeak (p : Policy) (px : Pixel) : Option Int :=
  if p.mode = .peakFade ∧ 1 ≤ px.n
    then px.peak.map fun k => roundDiv (px.m16 * 256 + (16 * k - px.m16) * p.fade) 4096 else px.peak

/-- Step (b) writes the peak alone. -/
theorem fadePeak_eq (p : Policy) (px : Pixel) : fadePeak p px = { px with peak := fadedPeak p px } := by
  unfold fadePeak fadedPeak
  split
  next mode peak =>
    by_cases counted : 1 ≤ px.n
    · simp [mode, peak, counted]
    · simp [counted]
  next other =>
    split
    next fades =>
      cases peak : px.peak with
      | none => rw [Option.map_none, ← peak]
      | some k => exact absurd peak (other k fades.1)
    next => rfl

/-- A record keeps a peak and holds the candidate v when it is above that peak; otherwise the pending value is as given. -/
def Held (subframe : Nat) (v : Int) (x : Pixel) (peak : Option Int) (pending : Option (Int × Nat)) : Prop :=
  x.peak = peak ∧ ((∀ k ∈ peak, k < v) → x.pending = some (v, subframe)) ∧ (¬ (∀ k ∈ peak, k < v) → x.pending = pending)

/-- Step (d) (R101). -/
theorem held_holdCandidate (subframe : Nat) (v : Int) (px : Pixel) :
    Held subframe v (holdCandidate subframe v px) px.peak none := by
  simp only [Held, holdCandidate, ← raises_iff]
  split
  next above => exact ⟨rfl, fun _ => rfl, fun below => absurd above below⟩
  next below => exact ⟨rfl, fun above => absurd above below, fun _ => rfl⟩

/-- Step (d) writes pending alone. -/
theorem holdCandidate_pending (subframe : Nat) (v : Int) (px : Pixel) :
    { holdCandidate subframe v px with pending := none } = { px with pending := none } := by
  unfold holdCandidate
  split <;> rfl

/-! ### The visits by mode (R92) -/

theorem visitLight_meanReject {p : Policy} (mode : p.mode = .meanReject) (vetoed : Nat → Bool) (subframe : Nat) (px : Pixel)
    (sample : Option Int) : visitLight p vetoed subframe px sample = visitMeanReject p px sample := by
  simp [visitLight, Mode.isPeak, mode]

/-- The record a peak visit's sample meets: settled, faded, nothing pending (R97, R99). -/
def peakRest (p : Policy) (vetoed : Nat → Bool) (px : Pixel) : Pixel :=
  { px with peak := fadedPeak p { px with peak := settledPeak vetoed px }, pending := none }

theorem fadePeak_commitPending (p : Policy) (vetoed : Nat → Bool) (px : Pixel) :
    fadePeak p (commitPending vetoed px) = peakRest p vetoed px := by
  rw [commitPending_eq, fadePeak_eq]
  rfl

/-- A saturated sample at a peak record: 16383 is the candidate (R100). -/
theorem visitLight_peak_saturated {p : Policy} (mode : p.mode = .peak ∨ p.mode = .peakFade) (vetoed : Nat → Bool)
    (subframe : Nat) (px : Pixel) :
    visitLight p vetoed subframe px none =
      { pixel := holdCandidate subframe 16383 (countSaturated (peakRest p vetoed px)), tally := .saturated, flagged := false,
        outlier := false } := by
  rcases mode with mode | mode <;> simp [visitLight, Mode.isPeak, mode, visitPeak, fadePeak_commitPending]

/-- Any other sample at a peak record: the outlier test sees the statistics as the visit found them, y is folded in and is the
candidate (R100). -/
theorem visitLight_peak_sample {p : Policy} (mode : p.mode = .peak ∨ p.mode = .peakFade) (vetoed : Nat → Bool)
    (subframe : Nat) (px : Pixel) (y : Int) :
    visitLight p vetoed subframe px (some y) =
      { pixel := holdCandidate subframe y (welford (peakRest p vetoed px) y), tally := .admitted, flagged := isOutlier p px y,
        outlier := isOutlier p px y } := by
  have unmoved : isOutlier p (peakRest p vetoed px) y = isOutlier p px y := rfl
  rcases mode with mode | mode <;> simp [visitLight, Mode.isPeak, mode, visitPeak, fadePeak_commitPending, unmoved]

/-- The record after step (d), its candidate set aside, is the folded one. -/
theorem folded_holdCandidate (px : Pixel) (empty : px.pending = none) (subframe : Nat) (y : Int) :
    Folded px { holdCandidate subframe y (welford px y) with pending := none } y := by
  rw [holdCandidate_pending, ← (welford_pending px y).trans empty]
  exact folded_welford px y

/-! ### Vetoes (R97, R98, R127) -/

/-- The pixel lies in a box of the list, and the list belongs to the subframe (R98). -/
theorem listVetoes_iff {margin : Nat} {v : VetoList} {subframe row column : Nat} :
    listVetoes margin v subframe row column = true ↔ v.index = some subframe ∧ ∃ b ∈ v.boxes,
      (b.firstRow : Int) - margin ≤ row ∧ (row : Int) ≤ b.lastRow + margin
        ∧ (b.minCol : Int) - margin ≤ column ∧ (column : Int) ≤ b.maxCol + margin := by
  simp [listVetoes, inBox]

/-- Settles O56: in MEAN_REJECT by the cases of R96, in the peak modes by what the sample meets once the pending value is settled
and the peak faded, and the veto by the box test of either list. -/
theorem lightVisitUpdatesRecord : Obligations.LightVisitUpdatesRecord := by
  refine ⟨fun p vetoed subframe px => ⟨fun mode => ?_, fun mode => ?_⟩, fun set det p row column subframe => ?_⟩
  · simp only [visitLight_meanReject mode]
    refine ⟨rfl, fun y => ⟨fun outlier => ?_, fun inside => ?_⟩⟩
    · exact if_pos (isOutlier_iff.mpr outlier)
    · have admitted : visitMeanReject p px (some y) =
          { pixel := welford px y, tally := .admitted, flagged := false, outlier := false } :=
        if_neg (mt isOutlier_iff.mp inside)
      rw [admitted]
      exact ⟨folded_welford px y, rfl, rfl, rfl⟩
  · simp only [visitLight_peak_saturated mode, visitLight_peak_sample mode, true_and]
    refine ⟨held_holdCandidate subframe 16383 _, holdCandidate_pending subframe 16383 _, fun y => ?_⟩
    have held := held_holdCandidate subframe y (welford (peakRest p vetoed px) y)
    rw [welford_peak] at held
    exact ⟨held, isOutlier_iff, isOutlier_iff, folded_holdCandidate (peakRest p vetoed px) rfl subframe y⟩
  · simp [isVetoed, listVetoes_iff]

end Sys2Proof.Machine
end

section
/-! PROOFS. RENDER_PREVIEW and RENDER_REPEAT (R131, R132): what a taken render leaves (R134) is shown once for both, and each
request is then judged by the take state it found. -/

namespace Sys2Proof.Machine

/-! ### A request without a payload -/

/-- A kind whose payload is empty, when it can be taken, is carried out on the state in which it has left the queue (R176). -/
theorem takeRequest_empty {s : State} {n : Nat} {r : Request} (can : CanTake s n r) (empty : r.payload = [])
    (carry : Request → State → State) :
    takeRequest (isKind n) (fixedLength 0 carry) s = .next (endEvent (carry r (removeRequest s))) := by
  have carried : fixedLength 0 carry r (removeRequest s) = carry r (removeRequest s) := if_pos (by simp [empty])
  rw [takeRequest_of_canTake can, carried]

theorem removeRequest_seq (s : State) : (removeRequest s).seq = s.seq := by rw [removeRequest_frame]

theorem removeRequest_render (s : State) : (removeRequest s).render = s.render := by rw [removeRequest_frame]

/-! ### A render taken (R134) -/

/-- On a free plane a render begins at once. -/
theorem takeRender_free {s : State} (free : s.arb.holder = .none) (kind : RenderKind) :
    takeRender kind s = renderBegun kind s := if_pos free

/-- Behind an ingest it waits. -/
theorem takeRender_held {s : State} (held : s.arb.holder ≠ .none) (kind : RenderKind) :
    takeRender kind s = renderWaiting kind s := if_neg held

/-- States apart in flow symbols alone may begin a render alike. -/
theorem FlowApart.renderBegun {u v : State} (h : FlowApart u v) (kind : RenderKind) :
    FlowApart (renderBegun kind u) (renderBegun kind v) :=
  ⟨congrArg (Machine.renderBegun kind) h.rest, h.begun⟩

/-- They may let one wait alike. -/
theorem FlowApart.renderWaiting {u v : State} (h : FlowApart u v) (kind : RenderKind) :
    FlowApart (renderWaiting kind u) (renderWaiting kind v) :=
  ⟨congrArg (Machine.renderWaiting kind) h.rest, h.begun⟩

/-- The state an accepted request leaves, before the event ends: the reply with the frame id the render takes, and the render
begun or waiting by who holds the plane. -/
theorem acceptRender_apart {s : State} {n : Nat} {r : Request} (can : CanTake s n r) (kind : RenderKind) :
    FlowApart (if s.arb.holder = .none then renderBegun kind (replied r .accepted (bytes2 s.render.nextId) s)
        else renderWaiting kind (replied r .accepted (bytes2 s.render.nextId) s))
      (acceptRender kind r (removeRequest s)) := by
  have apart := replied_apart can .accepted (bytes2 s.render.nextId)
  have holder : (answer r .accepted (bytes2 s.render.nextId) (removeRequest s)).arb.holder = s.arb.holder :=
    congrArg (·.arb.holder) apart.rest
  unfold acceptRender
  rw [removeRequest_render]
  split_ifs with free
  · rw [takeRender_free (holder.trans free)]
    exact apart.renderBegun kind
  · rw [takeRender_held fun h => free (holder.symm.trans h)]
    exact apart.renderWaiting kind

/-- What a render request leaves once the take allows it: BUSY while the Render Unit works, and otherwise a render taken. -/
theorem acceptRender_or_busy {s : State} {n : Nat} {r : Request} (can : CanTake s n r) (kind : RenderKind) :
    let t := endEvent (if s.render.state = .idle then acceptRender kind r (removeRequest s)
      else answer r .busy [] (removeRequest s))
    if s.render.state ≠ .idle then Ends (replied r .busy [] s) t
    else if s.arb.holder = .none then Ends (renderBegun kind (replied r .accepted (bytes2 s.render.nextId) s)) t
    else Ends (renderWaiting kind (replied r .accepted (bytes2 s.render.nextId) s)) t := by
  have accepted := (acceptRender_apart can kind).ends.endEvent
  by_cases idle : s.render.state = .idle
  · simp only [idle, ne_eq, not_true_eq_false, if_false, if_true]
    split_ifs at accepted ⊢ <;> exact accepted
  · simpa only [idle, ne_eq, not_false_eq_true, if_true, if_false] using answer_ends can .busy []

/-- Settles O32: either request is judged on the take it found; a take state that refuses it leaves the reply alone, and one
that allows it leaves the question of the Render Unit and the plane. -/
theorem renderRequestsJudgedInOrder : Obligations.RenderRequestsJudgedInOrder := by
  constructor <;> intro s r can empty
  · refine ⟨_, takeRequest_empty can empty renderPreview, ?_⟩
    simp only [renderPreview, removeRequest_seq, removeRequest_render]
    cases s.seq.takeState with
    | aborted => exact answer_ends can .invalidPlane []
    | noTake | clearing | finishing => exact answer_ends can .badState []
    | running | paused | complete | finished => exact acceptRender_or_busy can .preview
  · refine ⟨_, takeRequest_empty can empty renderRepeat, ?_⟩
    simp only [renderRepeat, removeRequest_seq, removeRequest_render]
    cases s.seq.takeState with
    | aborted => exact answer_ends can .invalidPlane []
    | finished => exact acceptRender_or_busy can .final
    | noTake | clearing | running | paused | complete | finishing => exact answer_ends can .badState []

end Sys2Proof.Machine
end

section
/-! PROOFS. The forming of a row (R136 to R140): what one record gives, the outputs of a row as a line in which a hole looks two
places back, and the row the model forms column by column as the outputs of that line. -/

namespace Sys2Proof.Machine

/-! ### One output value (R136 to R138) -/

/-- The effective value is the peak settled, which is not written (R137). -/
theorem effectiveValue_eq (vetoed : Nat → Bool) (px : Pixel) : effectiveValue vetoed px = settledPeak vetoed px :=
  congrArg Pixel.peak (commitPending_eq vetoed px)

/-- The output a record itself gives, none where it gives none: a hole, or a record of an EXCLUDE region, which is not read. -/
def recordOutput (pedestal : Nat) (p : Policy) (vetoed : Nat → Bool) (px : Pixel) : Option Nat :=
  match p.mode with
  | .exclude => none
  | .meanReject =>
    if 1 ≤ px.n then some (outputClamp (pedestal + roundDiv px.m16 4)) else if 0 < px.sat then some 65535 else none
  | _ => (settledPeak vetoed px).map fun v => outputClamp (pedestal + 4 * v)

theorem recordOutput_exclude {p : Policy} (mode : p.mode = .exclude) (pedestal : Nat) (vetoed : Nat → Bool) (px : Pixel) :
    recordOutput pedestal p vetoed px = none := by simp [recordOutput, mode]

/-- An EXCLUDE region gives Bo (R138). -/
theorem ownOutput_exclude {p : Policy} (mode : p.mode = .exclude) (pedestal : Nat) (vetoed : Nat → Bool) (px : Pixel) :
    ownOutput pedestal p vetoed px = some pedestal := by simp [ownOutput, mode]

/-- Every other region gives what the record gives (R136, R137). -/
theorem ownOutput_record {p : Policy} (mode : p.mode ≠ .exclude) (pedestal : Nat) (vetoed : Nat → Bool) (px : Pixel) :
    ownOutput pedestal p vetoed px = recordOutput pedestal p vetoed px := by
  unfold ownOutput recordOutput
  cases h : p.mode with
  | exclude => exact absurd h mode
  | meanReject => rfl
  | peak | peakFade => simp only [peakOutput, effectiveValue_eq]

/-- A hole: a record that is read and gives no output (R139). -/
theorem ownOutput_isNone (pedestal : Nat) (p : Policy) (vetoed : Nat → Bool) (px : Pixel) :
    (ownOutput pedestal p vetoed px).isNone
      = (decide (p.mode ≠ .exclude) && decide (recordOutput pedestal p vetoed px = none)) := by
  by_cases mode : p.mode = .exclude
  · simp [ownOutput_exclude mode, mode]
  · rw [ownOutput_record mode]
    cases recordOutput pedestal p vetoed px <;> simp [mode]

/-- Full scale: the record itself gives 65535; an EXCLUDE region at Bo does not count (R138). -/
theorem ownOutput_fullScale (pedestal : Nat) (p : Policy) (vetoed : Nat → Bool) (px : Pixel) :
    (decide (p.mode ≠ .exclude) && decide (ownOutput pedestal p vetoed px = some 65535))
      = decide (recordOutput pedestal p vetoed px = some 65535) := by
  by_cases mode : p.mode = .exclude
  · simp [recordOutput_exclude mode, mode]
  · simp [ownOutput_record mode, mode]

/-! ### One row (R139, R140) -/

/-- The outputs of a row behind the two Bo that stand before its start: column c is at place c + 2, so a hole takes what stands
two places before it (R139). -/
def outputLine (pedestal : Nat) (own : Nat → Option Nat) : Nat → Nat
  | 0 => pedestal
  | 1 => pedestal
  | c + 2 => (own c).getD (outputLine pedestal own c)

/-- A row formed column by column is the outputs of that line, and its counts are those of the columns (R138 to R140). -/
theorem foldl_add_eq (pedestal : Nat) (own : Nat → Option Nat) (counted : Nat → Bool) (n : Nat) :
    (List.range n).foldl (fun w c => w.add (own c) (counted c)) (RowOutput.start pedestal) =
      { back2 := outputLine pedestal own n, back1 := outputLine pedestal own (n + 1),
        values := ((List.range n).map fun c => outputLine pedestal own (c + 2)).reverse,
        holes := (List.range n).countP fun c => (own c).isNone,
        fullScale := (List.range n).countP fun c => counted c && decide (own c = some 65535) } := by
  induction n with
  | zero => rfl
  | succ n ih =>
    rw [List.range_succ, List.foldl_append, ih]
    simp [RowOutput.add, outputLine, boolCode, List.countP_append, List.countP_singleton]

/-- What the record at a column of the row at the cursor gives. -/
def columnRecordOutput (s : State) (c : Nat) : Option Nat :=
  let p := pixelPolicy s.settings s.render.row c
  recordOutput s.render.pedestal p (isVetoed s.settings s.trails p s.render.row c)
    (readPixel s (s.render.row * s.settings.width + c))

/-- What the model forms there, before hole fill. -/
def columnOwnOutput (s : State) (c : Nat) : Option Nat :=
  let p := pixelPolicy s.settings s.render.row c
  ownOutput s.render.pedestal p (isVetoed s.settings s.trails p s.render.row c)
    (readPixel s (s.render.row * s.settings.width + c))

/-- The values of the row at the cursor, in column order. -/
def rowValues (s : State) : List Nat :=
  (List.range s.settings.width).map fun c => outputLine s.render.pedestal (columnOwnOutput s) (c + 2)

theorem rowValues_getElem? {s : State} {c : Nat} (inside : c < s.settings.width) :
    (rowValues s)[c]? = some ((columnOwnOutput s c).getD (outputLine s.render.pedestal (columnOwnOutput s) c)) := by
  simp [rowValues, inside, outputLine]

/-- A column with an output of its own takes it. -/
theorem rowValues_own {s : State} {c v : Nat} (inside : c < s.settings.width) (own : columnOwnOutput s c = some v) :
    (rowValues s)[c]? = some v := by
  rw [rowValues_getElem? inside, own, Option.getD_some]

/-- A hole takes the output two columns to the left, or Bo (R139). -/
theorem rowValues_hole {s : State} {c : Nat} (inside : c < s.settings.width) (hole : columnOwnOutput s c = none) :
    (rowValues s)[c]? = if c < 2 then some s.render.pedestal else (rowValues s)[c - 2]? := by
  rw [rowValues_getElem? inside, hole, Option.getD_none]
  match c with
  | 0 | 1 => rfl
  | c + 2 => exact (rowValues_getElem? (Nat.lt_of_add_right_lt inside)).symm

/-- The columns counted as holes (R139). -/
def holesOf (s : State) : Nat :=
  (List.range s.settings.width).countP fun c =>
    decide ((pixelPolicy s.settings s.render.row c).mode ≠ .exclude) && decide (columnRecordOutput s c = none)

/-- The columns counted as full scale (R138). -/
def fullScaleOf (s : State) : Nat :=
  (List.range s.settings.width).countP fun c => decide (columnRecordOutput s c = some 65535)

/-- The row the model forms: its values, last first, and its two counts. -/
theorem formRow_cursor (s : State) :
    (formRow s s.render.row).values = (rowValues s).reverse ∧ (formRow s s.render.row).holes = holesOf s
      ∧ (formRow s s.render.row).fullScale = fullScaleOf s := by
  have formed : formRow s s.render.row = _ := foldl_add_eq s.render.pedestal (columnOwnOutput s)
    (fun c => decide ((pixelPolicy s.settings s.render.row c).mode ≠ .exclude)) s.settings.width
  rw [formed]
  exact ⟨rfl, List.countP_congr fun c _ => iff_of_eq (congrArg (· = true) (ownOutput_isNone _ _ _ _)),
    List.countP_congr fun c _ => iff_of_eq (congrArg (· = true) (ownOutput_fullScale _ _ _ _))⟩

/-- The row at the cursor is handed over with its counts added, and nothing else changes (R140). -/
theorem handRow_eq (s : State) :
    handRow s = { s with
      render := { s.render with
        rowHanded := true, holes := s.render.holes + holesOf s, fullScale := s.render.fullScale + fullScaleOf s },
      out.renderQueue := s.out.renderQueue ++ [.line s.render.kind s.render.row (rowValues s)] } := by
  obtain ⟨values, holes, fullScale⟩ := formRow_cursor s
  simp only [handRow, values, holes, fullScale, List.reverse_reverse]

/-- RENDER_ROW_READ of an ACTIVE render with no LINE handed over reads the row. -/
theorem exec_renderRowRead {s : State} (active : s.render.state = .active) (free : s.render.rowHanded = false)
    (inside : s.render.row < s.settings.height) : exec .renderRowRead s = .next (endEvent (handRow s)) :=
  if_pos ⟨active, free, inside⟩

/-- Settles O55: the row's values are those of the output line, read column by column, and the event leaves the handed row. -/
theorem renderFormsRowFromPlane : Obligations.RenderFormsRowFromPlane := by
  intro s active free inside record policy clamp16 effective own
  have gives : ∀ c, own c = columnRecordOutput s c := fun c => rfl
  refine ⟨_, rowValues s, exec_renderRowRead active free inside, by simp [rowValues], fun c column => ⟨?_, ?_, ?_⟩, ?_⟩
  · exact fun excluded => rowValues_own column (ownOutput_exclude excluded _ _ _)
  · intro v value
    have read : (policy c).mode ≠ .exclude := fun excluded => by
      rw [gives, columnRecordOutput, recordOutput_exclude excluded] at value
      exact absurd value nofun
    exact rowValues_own column ((ownOutput_record read _ _ _).trans value)
  · exact fun read hole => rowValues_hole column ((ownOutput_record read _ _ _).trans hole)
  · have handed := ends_endEvent (handRow s)
    rw [handRow_eq s] at handed ⊢
    exact handed

end Sys2Proof.Machine
end

section
/-! PROOFS. One step, and the state that power and RESET_N leave. -/

namespace Sys2Proof.Machine

/-- Settles O1, by the two branches of the step. -/
theorem stepRunsFrontCommand : Obligations.StepRunsFrontCommand := by
  refine ⟨fun c rest s queued => ?_, fun s empty => ?_⟩
  · simp only [step, queued]
  · simp only [step, empty, tick]

/-- With LINES empty every line is an unlisted INPUT (R26). -/
theorem lineSetup_of_reset {t : State} (empty : t.tables = Tables.reset) (l : LineNo) : lineSetup t l = LineSetup.unlisted := by
  simp only [lineSetup, empty]
  rfl

/-- The pin of an unlisted line is as the outside holds it (R31). -/
theorem pinLevel_of_reset {t : State} (empty : t.tables = Tables.reset) (l : LineNo) : pinLevel t l = (t.lines.get l).outside := by
  simp only [pinLevel, lineSetup_of_reset empty]
  rfl

/-- Every block at its power-on value, and lines that accept the levels sampled: what the chapters state of power-on, whatever the
model's own counts (log 34). -/
theorem atPowerOn_of_blocks_reset {level : LineNo → Bool} {lines : LineBank} (sampled : ∀ l, lines.get l = LineState.reset (level l))
    (free choices : Nat) (waiting : List Instr) :
    AtPowerOn level { State.powerOn 0#6 with lines := lines, freeSeq := free, out.choices := choices, pending := waiting } where
  lines := fun l => ⟨lineSetup_of_reset rfl l, by simp only [sampled]; rfl, by simp only [sampled]; rfl,
    by rw [pinLevel_of_reset rfl]; simp only [sampled]; rfl⟩
  link := ⟨rfl, rfl, rfl, rfl, fun _ => rfl, rfl, rfl, rfl⟩
  tables := by intro n; cases n <;> exact ⟨rfl, rfl⟩
  params := fun e listed => (by decide : ∀ e ∈ parameterDefaults, Params.reset.value e.1 = e.2) e listed
  take := ⟨rfl, rfl, rfl, rfl⟩
  marks := ⟨rfl, rfl, rfl, rfl, rfl, rfl, rfl, rfl⟩
  signals := ⟨rfl, rfl, rfl, rfl, rfl⟩
  heater := ⟨rfl, rfl, rfl, rfl⟩
  darks := ⟨rfl, rfl, rfl, rfl, rfl, rfl⟩
  plane := ⟨rfl, rfl⟩
  trails := ⟨rfl, rfl, rfl, rfl, rfl⟩
  render := ⟨rfl, rfl⟩
  bridge := ⟨rfl, rfl, rfl, rfl, rfl, rfl⟩
  output := ⟨rfl, rfl, rfl, rfl, rfl, rfl, rfl⟩
  port := ⟨rfl, rfl, rfl, rfl⟩
  settings := ⟨rfl, rfl, rfl, rfl, rfl⟩

theorem get_reset (pins : BitVec 6) (l : LineNo) : (LineBank.reset pins).get l = LineState.reset (pins.getLsbD l.val) := by
  fin_cases l <;> rfl

theorem get_map (f : LineNo → LineState → LineState) (b : LineBank) (l : LineNo) : (b.map f).get l = f l (b.get l) := by
  fin_cases l <;> rfl

/-- Settles O3: both events leave every block at its power-on value, with the lines at the levels sampled or present. -/
theorem powerOnAndResetNLeaveResetState : Obligations.PowerOnAndResetNLeaveResetState := by
  intro pins s
  refine ⟨⟨_, rfl, atPowerOn_of_blocks_reset (get_reset pins) s.freeSeq s.out.choices s.pending, rfl⟩,
    ⟨_, rfl, atPowerOn_of_blocks_reset (fun l => ?_) s.freeSeq s.out.choices s.pending, rfl⟩⟩
  rw [get_map]

/-- An empty table keeps the rules of every table (R178). -/
theorem sound_reset {α : Type} (capacity : Nat) : Table.Sound capacity (Table.reset : Table α) :=
  ⟨Nat.zero_le _, fun _ => rfl, fun ready => nomatch ready⟩

theorem tables_sound_reset : Tables.Sound Tables.reset := by
  constructor
  case plan | bridgeScript => exact ⟨sound_reset _, List.forall_mem_nil _⟩
  case horizon => exact ⟨sound_reset _, List.forall_mem_nil _, .nil, fun _ none => nomatch none⟩
  all_goals exact ⟨sound_reset _, List.forall_mem_nil _, .nil⟩

/-- Settles O4: the reset state is a literal, and each clause of an invariant is read off it. -/
theorem resetMeetsInvariants : Obligations.ResetMeetsInvariants := by
  have sampled : ∀ l, (LineBank.reset 0#6).get l = LineState.reset false := by decide
  refine ⟨atPowerOn_of_blocks_reset sampled 0 0 [], ?bounds, ?coherent, ?quiet, tables_sound_reset, ?params,
    reset_memoryWf, ⟨tables_sound_reset, by decide, List.forall_mem_nil _⟩, ?plan, ?settings⟩
  case bounds | coherent | params | settings => constructor <;> decide
  case quiet =>
    constructor
    case forwarding => exact fun _ _ forwarded => nomatch forwarded
    all_goals decide
  case plan =>
    constructor
    case opened => exact fun _ none => nomatch none
    case underWay => exact fun standing => absurd (by decide) standing
    all_goals decide

end Sys2Proof.Machine
end

section
/-! PROOFS. Every command by its effect: each is the taking of a request, an event of the part, or nothing; its effect is the state
before the end of the event, with the guards under which the event happens. -/

namespace Sys2Proof.Machine

/-! ### Requests and their meanings -/

/-- What each command that takes a request carries out, with the number of the kind it takes (R176, R191). -/
inductive Meaning : Instr → Nat → (Request → State → State) → Prop
  | tableOpen : Meaning .tableOpen 1 (fixedLength 1 openTable)
  | tableAppend : Meaning .tableAppend 2 appendTable
  | tableClose : Meaning .tableClose 3 (fixedLength 1 closeTable)
  | tableRead : Meaning .tableRead 4 (fixedLength 4 readTable)
  | paramSet : Meaning .paramSet 5 (fixedLength 5 setParam)
  | paramGet : Meaning .paramGet 6 (fixedLength 1 getParam)
  | takeStart : Meaning .takeStart 7 (fixedLength 0 takeStart)
  | takePause : Meaning .takePause 8 (fixedLength 0 takePause)
  | takeResume : Meaning .takeResume 9 (fixedLength 0 takeResume)
  | takeStop : Meaning .takeStop 10 (fixedLength 0 takeStop)
  | takeFinish : Meaning .takeFinish 11 (fixedLength 0 takeFinish)
  | takeAbort : Meaning .takeAbort 12 (fixedLength 0 takeAbort)
  | takeClear : Meaning .takeClear 13 (fixedLength 0 takeClear)
  | renderPreview : Meaning .renderPreview 14 (fixedLength 0 renderPreview)
  | renderRepeat : Meaning .renderRepeat 15 (fixedLength 0 renderRepeat)
  | logRead : Meaning .logRead 16 (fixedLength 3 readLog)
  | statusRead : Meaning .statusRead 17 (fixedLength 0 readStatus)
  | bridgeWrite : Meaning .bridgeWrite 18 bridgeWrite
  | bridgeRead : Meaning .bridgeRead 19 (fixedLength 5 bridgeRead)
  | bridgeRecover : Meaning .bridgeRecover 20 (fixedLength 0 bridgeRecover)
  | lineLevel : Meaning .lineLevel 21 (fixedLength 2 setLineLevel)
  | lineRead : Meaning .lineRead 22 (fixedLength 0 readLines)

/-- A command with a meaning runs it through the taking of R175. -/
theorem exec_of_meaning {c : Instr} {n : Nat} {carry : Request → State → State} (m : Meaning c n carry) (s : State) :
    exec c s = takeRequest (isKind n) carry s := by
  cases m <;> rfl

/-- Such commands are those of the table of requests. -/
theorem exists_meaning {c : Instr} {n : Nat} (row : (c, n) ∈ requestRows) : ∃ carry, Meaning c n carry := by
  simp only [requestRows, List.mem_cons, Prod.mk.injEq, List.not_mem_nil, or_false] at row
  rcases row with ⟨rfl, rfl⟩ | ⟨rfl, rfl⟩ | ⟨rfl, rfl⟩ | ⟨rfl, rfl⟩ | ⟨rfl, rfl⟩ | ⟨rfl, rfl⟩ | ⟨rfl, rfl⟩ | ⟨rfl, rfl⟩
    | ⟨rfl, rfl⟩ | ⟨rfl, rfl⟩ | ⟨rfl, rfl⟩ | ⟨rfl, rfl⟩ | ⟨rfl, rfl⟩ | ⟨rfl, rfl⟩ | ⟨rfl, rfl⟩ | ⟨rfl, rfl⟩ | ⟨rfl, rfl⟩
    | ⟨rfl, rfl⟩ | ⟨rfl, rfl⟩ | ⟨rfl, rfl⟩ | ⟨rfl, rfl⟩ | ⟨rfl, rfl⟩ <;> exact ⟨_, by constructor⟩

/-- A request is taken and carried out, or the command changes nothing. -/
theorem takeRequest_inv {isK : Byte → Bool} {carry : Request → State → State} {s t : State}
    (h : takeRequest isK carry s = .next t) :
    t = s ∨ ∃ r, s.port.requests.head? = some r ∧ isK r.kind = true ∧ mayTake s = true
      ∧ t = endEvent (carry r (removeRequest s)) := by
  unfold takeRequest at h
  split at h
  · cases h; exact .inl rfl
  · rename_i r rest requests
    split at h
    · rename_i taken
      obtain ⟨kind, may⟩ := Bool.and_eq_true_iff.mp taken
      cases h
      exact .inr ⟨r, by rw [requests]; rfl, kind, may, rfl⟩
    · cases h; exact .inl rfl

/-! ### What an event does before its end -/

/-- The event's own effect: u is the state that the command makes of s, before the end of the event lets the lane and the lines
follow. The guards are those under which the event happens. -/
inductive Effect : Instr → State → State → Prop
  | arrival {s : State} {tag kind length : Byte} {payload : List Byte} {crc : Half} (locked : s.out.locked = true)
      (joins : requestJoins tag kind length payload crc s = true) :
      Effect (.requestArrival tag kind length payload crc) s
        (markHold { s with port.requests := s.port.requests ++ [{ tag := tag, kind := kind, payload := payload }] })
  | taken {c : Instr} {n : Nat} {carry : Request → State → State} {s : State} {r : Request} (meaning : Meaning c n carry)
      (head : s.port.requests.head? = some r) (kind : r.kind.toNat = n) (may : mayTake s = true) :
      Effect c s (carry r (removeRequest s))
  | unknown {s : State} {r : Request} (head : s.port.requests.head? = some r) (kind : kindKnown r.kind = false)
      (may : mayTake s = true) : Effect .requestUnknownKind s (answer r .unknownKind [] (removeRequest s))
  | reset {s : State} {r : Request} (head : s.port.requests.head? = some r) (kind : r.kind.toNat = 23) (empty : r.payload = []) :
      Effect .partReset s (partReset r s)
  | resetLength {s : State} {r : Request} (head : s.port.requests.head? = some r) (kind : r.kind.toNat = 23)
      (length : r.payload ≠ []) (may : mayTake s = true) : Effect .partReset s (answer r .badLength [] (removeRequest s))
  | recoverDone {s : State} {speed : Nat} {high : Bool} (train : s.bridge.train = some speed) :
      Effect (.bridgeRecoverDone high) s (endTrain speed high s)
  | waitingReply {s : State} {reply : QueuedPacket} (waits : s.port.waiting = some (.due reply)) (room : outQueueHasRoom s = true) :
      Effect .waitingReplyQueued s (joinReply reply { s with port.waiting := none })
  | relayReply {s : State} {q : Relay} {o : BusOutcome} {data : List Byte} (oldest : s.bridge.relays.find? Relay.isAnswered = some q)
      (due : q.state = .replyWaiting o data) (room : (outQueueHasRoom s || !s.out.locked) = true) :
      Effect .relayReplyQueued s (queueReply q.tag q.kindByte o.status (relayPayload o data)
        { s with bridge.relays := s.bridge.relays.eraseP Relay.isAnswered })
  | trailDrain {s : State} {t : TrailRecord} {rest : List TrailRecord} (queue : s.trails.queue = t :: rest)
      (locked : s.out.locked = true) (room : outQueueHasRoom s = true) :
      Effect .trailQueueDrain s (queueReport .trail t.bytes { s with trails.queue := rest })
  | hold {s : State} (locked : s.out.locked = true) : Effect .holdOut s { s with out.held := true }
  | linkInLost {s : State} (locked : s.link.locked = true) : Effect .linkInLockLost s (loseLinkIn s)
  | frameStart {s : State} {counter : Half} (locked : s.link.locked = true) :
      Effect (.frameStart counter) s (takeFrameStart counter s)
  | line {s : State} {row : Half} {words : List Half} {crc : Option Half} (locked : s.link.locked = true) :
      Effect (.line row words crc) s (takeLine row words crc s)
  | frameEndSubframe {s : State} {lines : Half} (locked : s.link.locked = true) (frame : s.link.frame = .subframe) :
      Effect (.frameEnd lines) s (endReadout s)
  | frameEndStray {s : State} {lines : Half} (locked : s.link.locked = true) (frame : s.link.frame = .stray) :
      Effect (.frameEnd lines) s (endFrame s)
  | linkOutLoss {s : State} (locked : s.out.locked = true) : Effect .linkOutLockLoss s (loseLinkOut s)
  | rowRead {s : State} (active : s.render.state = .active) (free : s.render.rowHanded = false)
      (inside : s.render.row < s.settings.height) : Effect .renderRowRead s (handRow s)
  | clearingComplete {s : State} (take : s.seq.takeState = .clearing) (holder : s.arb.holder = .clearing) :
      Effect .clearingPassComplete s (completeClearing s)
  | settleExpiry {s : State} {t : Nat} (timer : s.seq.settleTimer = some t) :
      Effect .shutterSettleExpiry s (tryEndStepStart { advanceTo t s with seq.settleTimer := none })
  | gapExpiry {s : State} {t : Nat} (timer : s.seq.gapTimer = some t) :
      Effect .gapTimerExpiry s (enterExpose { advanceTo t s with seq.gapTimer := none })
  | exposureExpiry {s : State} {t : Nat} (timer : s.seq.exposureTimer = some t) :
      Effect .exposureTimerExpiry s (claimIngest { advanceTo t s with seq.exposureTimer := none })
  | extensionExpiry {s : State} {t : Nat} (timer : s.seq.extensionTimer = some t) :
      Effect .extensionTimerExpiry s (abandonRender .extensionLimit { advanceTo t s with seq.extensionTimer := none })
  | readoutExpiry {s : State} {t : Nat} (timer : s.seq.readoutTimer = some t) :
      Effect .readoutTimerExpiry s (endReadout (advanceTo t s))
  | ingest {s : State} (holder : s.arb.holder = .ingest) : Effect .ingestEntry s (ingestNext s)
  | settleEnd {s : State} (phase : s.seq.phase = .settle) (holder : s.arb.holder = .ingest) : Effect .settleEnd s (settleClose s)
  | minPulse {s : State} {l : LineNo} {t : Nat} (timer : (s.lines.get l).minTimer = some t) :
      Effect (.minPulseExpiry l) s (setLine l { s.lines.get l with minTimer := none } (advanceTo t s))
  | inputPin {s : State} {l : LineNo} {high : Bool} (moved : (s.lines.get l).outside ≠ high) :
      Effect (.inputPinChange l high) s (changePin l high s)
  | debounce {s : State} {l : LineNo} {t : Nat} (timer : (s.lines.get l).debounceTimer = some t) :
      Effect (.debounceExpiry l) s (acceptLevel l (setLine l { s.lines.get l with debounceTimer := none } (advanceTo t s)))
  | conversion {s : State} {channel : Channel} {code : BitVec 10} (due : s.temps.due = channel) :
      Effect (.adcConversion channel code) s (convertChannel channel code s)
  | pwmPeriod {s : State} : Effect .heaterPwmPeriod s (beginPeriod s)
  | pwmEnd {s : State} (active : s.heater.pwmActive = true) (part : s.heater.activeUs < pwmPeriod) :
      Effect .pwmActiveEnd s { advanceTo (s.heater.periodStart + s.heater.activeUs) s with heater.pwmActive := false }
  | poll {s : State} {t : Nat} (scheduled : s.seq.pollAt = some t) : Effect .pollClaim s (claimPoll (advanceTo t s))
  | busEnd {s : State} {f : InFlight} {o : BusEnd} (flight : s.bridge.inFlight = some f)
      (possible : outcomePossible f.transaction o = true) :
      Effect (.busTransactionEnd o) s (tryEndStepStart (endTransaction (busOutcomeOf o) (busDataOf o) (endedRun f o) f s))
  | busTimeout {s : State} {f : InFlight} (flight : s.bridge.inFlight = some f) :
      Effect .busClockTimeout s
        (tryEndStepStart (endTransaction .timeout [] (timedOutRun s.freeSeq f) f { s with freeSeq := s.freeSeq + 1 }))

/-- The same of an event that is a boundary of the lane (R164, R167, R172). -/
inductive BoundaryEffect : Instr → State → State → Prop
  | go {s : State} (locked : s.out.locked = true) : BoundaryEffect .goOut s { s with out.held := false }
  | regain {s : State} (unlocked : s.out.locked = false) : BoundaryEffect .linkOutLockRegain s (regainLinkOut s)
  | packetEnd {s : State} {p : LanePacket} (progress : s.out.inProgress = some p) :
      BoundaryEffect .linkOutPacketEnd s
        (endPacket p (sendWaitingFlow { s with out.inProgress := none, out.sent := .sent p :: s.out.sent }))

/-- All that a command can do: the power-on state, nothing, Link In locked, or its effect and the end of the event. -/
inductive Ran : Instr → State → State → Prop
  | powerOn {s : State} (pins : BitVec 6) : Ran (.powerOn pins) s
      { State.powerOn pins with freeSeq := s.freeSeq, out.choices := s.out.choices, pending := s.pending }
  | resetN {s : State} : Ran .resetN s { State.powerOn 0#6 with
      lines := s.lines.map (fun _ x => LineState.reset x.outside), freeSeq := s.freeSeq, out.choices := s.out.choices,
      pending := s.pending }
  | nothing {c : Instr} {s : State} : Ran c s s
  | linkInLocked {s : State} : Ran .linkInLockGained s { s with link.locked := true }
  | event {c : Instr} {s u : State} (effect : Effect c s u) : Ran c s (endEvent u)
  | boundary {c : Instr} {s u : State} (effect : BoundaryEffect c s u) : Ran c s (endBoundary u)

theorem ran_of_meaning {c : Instr} {n : Nat} {carry : Request → State → State} (m : Meaning c n carry) {s t : State}
    (h : exec c s = .next t) : Ran c s t := by
  rw [exec_of_meaning m] at h
  rcases takeRequest_inv h with rfl | ⟨r, head, kind, may, rfl⟩
  · exact .nothing
  · exact .event (.taken m head (of_decide_eq_true kind) may)

theorem ran_partReset {s t : State} (h : exec .partReset s = .next t) : Ran .partReset s t := by
  change execPartReset s = _ at h
  unfold execPartReset at h
  split at h
  · cases h; exact .nothing
  · rename_i r rest requests
    split at h
    · rename_i whole
      obtain ⟨kind, empty⟩ := Bool.and_eq_true_iff.mp whole
      cases h
      exact .event (.reset (by rw [requests]; rfl) (of_decide_eq_true kind) (List.isEmpty_iff.mp empty))
    · rename_i other
      rcases takeRequest_inv h with rfl | ⟨q, head, kind, may, rfl⟩
      · exact .nothing
      · have same : q = r := by rw [requests] at head; exact (Option.some.inj head).symm
        subst same
        have length : q.payload ≠ [] := by
          intro empty
          exact other (Bool.and_eq_true_iff.mpr ⟨kind, List.isEmpty_iff.mpr empty⟩)
        exact .event (.resetLength head (of_decide_eq_true kind) length may)

section
variable {c : Instr} {s t : State}

/-- An event that happens under a condition. -/
theorem ran_of_if {g : Prop} [Decidable g] {u : State} (effect : g → Effect c s u)
    (h : (if g then Host.Outcome.next (endEvent u) else .next s : Out) = .next t) : Ran c s t := by
  split at h
  · rename_i holds; cases h; exact .event (effect holds)
  · cases h; exact .nothing

theorem ran_of_if_boundary {g : Prop} [Decidable g] {u : State} (effect : g → BoundaryEffect c s u)
    (h : (if g then Host.Outcome.next (endBoundary u) else .next s : Out) = .next t) : Ran c s t := by
  split at h
  · rename_i holds; cases h; exact .boundary (effect holds)
  · cases h; exact .nothing

theorem ran_waitingReplyQueued (h : exec .waitingReplyQueued s = .next t) : Ran .waitingReplyQueued s t := by
  change execWaitingReplyQueued s = _ at h
  unfold execWaitingReplyQueued at h
  split at h
  · rename_i reply waits
    exact ran_of_if (.waitingReply waits) h
  · cases h; exact .nothing

theorem ran_relayReplyQueued (h : exec .relayReplyQueued s = .next t) : Ran .relayReplyQueued s t := by
  change execRelayReplyQueued s = _ at h
  unfold execRelayReplyQueued at h
  split at h
  · cases h; exact .nothing
  · rename_i q oldest
    split at h
    · rename_i room
      simp only at h
      split at h
      · rename_i o data due
        cases h; exact .event (.relayReply oldest due room)
      · cases h; exact .nothing
    · cases h; exact .nothing

theorem ran_trailQueueDrain (h : exec .trailQueueDrain s = .next t) : Ran .trailQueueDrain s t := by
  change execTrailQueueDrain s = _ at h
  unfold execTrailQueueDrain at h
  split at h
  · cases h; exact .nothing
  · rename_i record rest queue
    refine ran_of_if (fun free => ?_) h
    obtain ⟨locked, room⟩ := Bool.and_eq_true_iff.mp free
    exact .trailDrain queue locked room

theorem ran_frameEnd {lines : Half} (h : exec (.frameEnd lines) s = .next t) : Ran (.frameEnd lines) s t := by
  change execFrameEnd lines s = _ at h
  unfold execFrameEnd at h
  split at h
  · rename_i locked
    split at h
    · rename_i frame; cases h; exact .event (.frameEndSubframe locked frame)
    · rename_i frame; cases h; exact .event (.frameEndStray locked frame)
    · cases h; exact .nothing
  · cases h; exact .nothing

theorem ran_linkOutLockRegain (h : exec .linkOutLockRegain s = .next t) : Ran .linkOutLockRegain s t := by
  change execLinkOutLockRegain s = _ at h
  unfold execLinkOutLockRegain at h
  split at h
  · cases h; exact .nothing
  · rename_i unlocked
    cases h; exact .boundary (.regain (Bool.eq_false_iff.mpr unlocked))

theorem ran_inputPinChange {l : LineNo} {high : Bool} (h : exec (.inputPinChange l high) s = .next t) :
    Ran (.inputPinChange l high) s t := by
  change execInputPinChange l high s = _ at h
  unfold execInputPinChange at h
  split at h
  · cases h; exact .nothing
  · rename_i moved
    cases h; exact .event (.inputPin moved)

theorem ran_busTransactionEnd {o : BusEnd} (h : exec (.busTransactionEnd o) s = .next t) : Ran (.busTransactionEnd o) s t := by
  change execBusTransactionEnd o s = _ at h
  unfold execBusTransactionEnd at h
  split at h
  · cases h; exact .nothing
  · rename_i f flight
    exact ran_of_if (fun possible => .busEnd flight possible) h

end

/-- Every command runs so. -/
theorem ran_of_exec {c : Instr} {s t : State} (h : exec c s = .next t) : Ran c s t := by
  cases c
  case tableOpen => exact ran_of_meaning .tableOpen h
  case tableAppend => exact ran_of_meaning .tableAppend h
  case tableClose => exact ran_of_meaning .tableClose h
  case tableRead => exact ran_of_meaning .tableRead h
  case paramSet => exact ran_of_meaning .paramSet h
  case paramGet => exact ran_of_meaning .paramGet h
  case takeStart => exact ran_of_meaning .takeStart h
  case takePause => exact ran_of_meaning .takePause h
  case takeResume => exact ran_of_meaning .takeResume h
  case takeStop => exact ran_of_meaning .takeStop h
  case takeFinish => exact ran_of_meaning .takeFinish h
  case takeAbort => exact ran_of_meaning .takeAbort h
  case takeClear => exact ran_of_meaning .takeClear h
  case renderPreview => exact ran_of_meaning .renderPreview h
  case renderRepeat => exact ran_of_meaning .renderRepeat h
  case logRead => exact ran_of_meaning .logRead h
  case statusRead => exact ran_of_meaning .statusRead h
  case bridgeWrite => exact ran_of_meaning .bridgeWrite h
  case bridgeRead => exact ran_of_meaning .bridgeRead h
  case bridgeRecover => exact ran_of_meaning .bridgeRecover h
  case lineLevel => exact ran_of_meaning .lineLevel h
  case lineRead => exact ran_of_meaning .lineRead h
  case partReset => exact ran_partReset h
  case requestUnknownKind =>
    rcases takeRequest_inv (show execRequestUnknownKind s = .next t from h) with rfl | ⟨r, head, kind, may, rfl⟩
    · exact .nothing
    · exact .event (.unknown head (by simpa using kind) may)
  case powerOn pins => cases h; exact .powerOn pins
  case resetN => cases h; exact .resetN
  case controlSymbolUnknown => cases h; exact .nothing
  case linkInPacketDiscard => cases h; exact .nothing
  case linkInLockGained => cases h; exact .linkInLocked
  case requestArrival tag kind length payload crc =>
    refine ran_of_if (fun joins => ?_) h
    obtain ⟨locked, whole⟩ := Bool.and_eq_true_iff.mp joins
    exact .arrival locked whole
  case bridgeRecoverDone high =>
    simp only [exec, execBridgeRecoverDone] at h
    split at h <;> cases h
    exacts [.nothing, .event (.recoverDone ‹_›)]
  case waitingReplyQueued => exact ran_waitingReplyQueued h
  case relayReplyQueued => exact ran_relayReplyQueued h
  case trailQueueDrain => exact ran_trailQueueDrain h
  case holdOut => exact ran_of_if .hold h
  case goOut => exact ran_of_if_boundary .go h
  case linkInLockLost => exact ran_of_if .linkInLost h
  case frameStart counter => exact ran_of_if .frameStart h
  case line row words crc => exact ran_of_if .line h
  case frameEnd lines => exact ran_frameEnd h
  case linkOutLockLoss => exact ran_of_if .linkOutLoss h
  case linkOutLockRegain => exact ran_linkOutLockRegain h
  case linkOutPacketEnd =>
    simp only [exec, execLinkOutPacketEnd] at h
    split at h <;> cases h
    exacts [.nothing, .boundary (.packetEnd ‹_›)]
  case renderRowRead => exact ran_of_if (fun ⟨active, free, inside⟩ => .rowRead active free inside) h
  case clearingPassComplete => exact ran_of_if (fun ⟨take, holder⟩ => .clearingComplete take holder) h
  case shutterSettleExpiry =>
    simp only [exec, execShutterSettleExpiry] at h
    split at h <;> cases h
    exacts [.nothing, .event (.settleExpiry ‹_›)]
  case gapTimerExpiry =>
    simp only [exec, execGapTimerExpiry] at h
    split at h <;> cases h
    exacts [.nothing, .event (.gapExpiry ‹_›)]
  case exposureTimerExpiry =>
    simp only [exec, execExposureTimerExpiry] at h
    split at h <;> cases h
    exacts [.nothing, .event (.exposureExpiry ‹_›)]
  case extensionTimerExpiry =>
    simp only [exec, execExtensionTimerExpiry] at h
    split at h <;> cases h
    exacts [.nothing, .event (.extensionExpiry ‹_›)]
  case readoutTimerExpiry =>
    simp only [exec, execReadoutTimerExpiry] at h
    split at h <;> cases h
    exacts [.nothing, .event (.readoutExpiry ‹_›)]
  case ingestEntry => exact ran_of_if .ingest h
  case settleEnd => exact ran_of_if (fun ⟨phase, holder⟩ => .settleEnd phase holder) h
  case minPulseExpiry l =>
    simp only [exec, execMinPulseExpiry] at h
    split at h <;> cases h
    exacts [.nothing, .event (.minPulse ‹_›)]
  case inputPinChange l high => exact ran_inputPinChange h
  case debounceExpiry l =>
    simp only [exec, execDebounceExpiry] at h
    split at h <;> cases h
    exacts [.nothing, .event (.debounce ‹_›)]
  case adcConversion channel code => exact ran_of_if .conversion h
  case heaterPwmPeriod => cases h; exact .event .pwmPeriod
  case pwmActiveEnd => exact ran_of_if (fun ⟨active, part⟩ => .pwmEnd active part) h
  case pollClaim =>
    simp only [exec, execPollClaim] at h
    split at h <;> cases h
    exacts [.nothing, .event (.poll ‹_›)]
  case busTransactionEnd o => exact ran_busTransactionEnd h
  case busClockTimeout =>
    simp only [exec, execBusClockTimeout] at h
    split at h <;> cases h
    exacts [.nothing, .event (.busTimeout ‹_›)]

end Sys2Proof.Machine
end

section
/-! PROOFS. What only requests, power and RESET_N change (R23, R178, R183, R185): tables, parameters, recorded settings and closed records,
operation by operation, and the close of a subframe stage by stage. -/

namespace Sys2Proof.Machine

/-! ### What only requests, power and RESET_N change -/

/-- The tables, the parameters, the recorded settings, the commands that wait and the closed records. -/
def fixedPart (s : State) : Tables × Params × TakeSettings × List Instr × List SubframeRecord :=
  (s.tables, s.params, s.settings, s.pending, s.log.closed)

theorem fixedPart_of_workRest {s t : State} (h : workRest t = workRest s) : fixedPart t = fixedPart s :=
  show fixedPart (workRest t) = fixedPart (workRest s) from congrArg fixedPart h

theorem fixedPart_of_phaseRest {s t : State} (h : phaseRest t = phaseRest s) : fixedPart t = fixedPart s :=
  show fixedPart (phaseRest t) = fixedPart (phaseRest s) from congrArg fixedPart h

theorem fixedPart_of_busRest {s t : State} (h : busRest t = busRest s) : fixedPart t = fixedPart s :=
  show fixedPart (busRest t) = fixedPart (busRest s) from congrArg fixedPart h

theorem fixedPart_of_stillPart {s t : State} (h : stillPart t = stillPart s) : fixedPart t = fixedPart s :=
  show fixedPart (stillPart t) = fixedPart (stillPart s) from congrArg fixedPart h

theorem fixedPart_of_ingestRest {s t : State} (h : ingestRest t = ingestRest s) : fixedPart t = fixedPart s :=
  show fixedPart (ingestRest t) = fixedPart (ingestRest s) from congrArg fixedPart h

theorem fixedPart_handFlow (f : FlowSymbol) (s : State) : fixedPart (handFlow f s) = fixedPart s :=
  fixedPart_of_stillPart (stillPart_handFlow f s)

theorem fixedPart_removeRequest (s : State) : fixedPart (removeRequest s) = fixedPart s := by
  rw [removeRequest_frame]; rfl

theorem fixedPart_joinReply (p : QueuedPacket) (s : State) : fixedPart (joinReply p s) = fixedPart s :=
  fixedPart_of_stillPart (stillPart_joinReply p s)

theorem fixedPart_answer (r : Request) (st : Status) (p : List Byte) (s : State) : fixedPart (answer r st p s) = fixedPart s :=
  fixedPart_joinReply _ s

theorem fixedPart_queueReport (k : ReportKind) (p : List Byte) (s : State) : fixedPart (queueReport k p s) = fixedPart s :=
  fixedPart_of_busRest (busRest_queueReport k p s)

theorem fixedPart_arbitrate (s : State) : fixedPart (arbitrate s) = fixedPart s := fixedPart_of_busRest (busRest_arbitrate s)

theorem fixedPart_tryEndStepStart (s : State) : fixedPart (tryEndStepStart s) = fixedPart s :=
  fixedPart_of_phaseRest (phaseRest_tryEndStepStart s)

theorem fixedPart_endReadout (s : State) : fixedPart (endReadout s) = fixedPart s := fixedPart_of_workRest (workRest_endReadout s)

theorem fixedPart_endFrame (s : State) : fixedPart (endFrame s) = fixedPart s := fixedPart_of_workRest (workRest_endFrame s)

theorem fixedPart_takeRender (k : RenderKind) (s : State) : fixedPart (takeRender k s) = fixedPart s :=
  fixedPart_of_workRest (workRest_takeRender k s)

theorem fixedPart_abandonRender (r : AbandonReason) (s : State) : fixedPart (abandonRender r s) = fixedPart s :=
  fixedPart_of_workRest (workRest_abandonRender r s)

theorem fixedPart_enterTake (t : TakeState) (p : Phase) (s : State) : fixedPart (enterTake t p s) = fixedPart s :=
  fixedPart_of_workRest (workRest_enterTake t p s)

theorem fixedPart_enterExpose (s : State) : fixedPart (enterExpose s) = fixedPart s :=
  fixedPart_of_phaseRest (phaseRest_enterExpose s)

theorem fixedPart_decideExposure (us : Nat) (s : State) : fixedPart (decideExposure us s) = fixedPart s :=
  fixedPart_of_workRest (workRest_decideExposure us s)

/-- A frame opened to forwarding touches the forwarded frames and the Link Receiver (R61, R171). -/
theorem fixedPart_openForwarded (counter : Half) (s : State) : fixedPart (openForwarded counter s) = fixedPart s := by
  unfold openForwarded; split <;> rfl

/-- A push touches the Line FIFO and the Link Receiver (R58, R62). -/
theorem fixedPart_pushEntry (row : Nat) (pixels : Option (List Nat)) (cls : LineClass) (s : State) :
    fixedPart (pushEntry row pixels cls s) = fixedPart s := by
  rw [pushEntry_eq]; rfl

theorem fixedPart_takeFrameStart (counter : Half) (s : State) : fixedPart (takeFrameStart counter s) = fixedPart s := by
  have stray : ∀ u : State, fixedPart (beginStray counter u) = fixedPart u := by
    intro u
    unfold beginStray
    simp only
    split
    · exact fixedPart_openForwarded counter _
    · rfl
  have scaled : ∀ u : State, fixedPart (computeScale u) = fixedPart u := by
    intro u
    unfold computeScale
    split <;> rfl
  have lit : ∀ u : State, fixedPart (lightFrameStart u) = fixedPart u := by
    intro u
    unfold lightFrameStart
    rw [scaled]
    split
    · exact fixedPart_decideExposure _ u
    · rfl
  have subframe : ∀ (r : Readout) (u : State), fixedPart (beginSubframe counter r u) = fixedPart u := by
    intro r u
    unfold beginSubframe
    simp only
    split <;> split
    · exact (fixedPart_openForwarded counter _).trans (lit _)
    · exact (fixedPart_openForwarded counter _)
    · exact lit _
    · rfl
  unfold takeFrameStart
  split
  · rw [stray, fixedPart_endFrame]
  · split
    · rw [stray, fixedPart_endReadout]
    · rw [subframe, fixedPart_endFrame]

theorem fixedPart_settleRow (row : Nat) (pixels : Option (List Nat)) (s : State) :
    fixedPart (settleRow row pixels s) = fixedPart s := by
  have placed : fixedPart (placeRow row pixels s) = fixedPart s := by
    unfold placeRow
    split
    · exact fixedPart_pushEntry _ _ _ _
    · simp only
      split <;> rfl
  unfold settleRow
  simp only
  split
  · exact (fixedPart_endReadout _).trans placed
  · exact placed

theorem fixedPart_foldl_skipRow (rows : List Nat) : ∀ s : State, fixedPart (rows.foldl skipRow s) = fixedPart s := by
  induction rows with
  | nil => intro s; rfl
  | cons row rest ih => intro s; exact ih (skipRow s row)

theorem fixedPart_takeLine (row : Half) (words : List Half) (crc : Option Half) (s : State) :
    fixedPart (takeLine row words crc s) = fixedPart s := by
  have loose : fixedPart (looseLine s) = fixedPart s := by
    unfold looseLine; split <;> rfl
  have stray : ∀ r good, fixedPart (strayLine r words good s) = fixedPart s := by
    intro r good
    unfold strayLine
    split
    · exact fixedPart_pushEntry _ _ _ s
    · rfl
  have subframe : ∀ r good, fixedPart (subframeLine r words good s) = fixedPart s := by
    intro r good
    unfold subframeLine
    simp only
    split
    · exact fixedPart_settleRow _ _ _
    · split
      · rfl
      · split
        · exact (fixedPart_settleRow _ _ _).trans (fixedPart_foldl_skipRow _ s)
        · exact (fixedPart_settleRow _ _ _).trans (fixedPart_foldl_skipRow _ s)
  unfold takeLine
  simp only
  split
  · exact loose
  · exact stray _ _
  · exact subframe _ _

theorem fixedPart_acceptLevel (l : LineNo) (s : State) : fixedPart (acceptLevel l s) = fixedPart s := by
  have delivered : ∀ (f : LineFunction) (active : Bool) (u : State), fixedPart (deliverEdge f active u) = fixedPart u := by
    intro f active u
    unfold deliverEdge
    split
    · unfold captureEdge
      split
      · rfl
      · split <;> rfl
    · unfold triggerEdge
      split
      · exact fixedPart_enterExpose u
      · rfl
    · exact fixedPart_of_phaseRest (phaseRest_pauseTake u)
    · exact fixedPart_of_phaseRest (phaseRest_stopTake u)
    · rfl
  unfold acceptLevel
  simp only
  split
  · rfl
  · split
    · rfl
    · rw [delivered]
      split
      · exact fixedPart_queueReport _ _ _
      · rfl

theorem fixedPart_changePin (l : LineNo) (high : Bool) (s : State) : fixedPart (changePin l high s) = fixedPart s := by
  unfold changePin
  simp only
  split
  · rfl
  · split
    · exact fixedPart_acceptLevel l _
    · rfl

theorem fixedPart_endTrain (speed : Nat) (high : Bool) (s : State) : fixedPart (endTrain speed high s) = fixedPart s := by
  have answered : ∀ u : State, fixedPart (answerTrain high u) = fixedPart u := by
    intro u
    unfold answerTrain
    split
    · split
      · exact fixedPart_joinReply _ _
      · rfl
    · rfl
  unfold endTrain
  simp only
  split
  · exact answered _
  · rfl

theorem fixedPart_endTransaction (o : BusOutcome) (data : List Byte) (run : BusRun) (f : InFlight) (s : State) :
    fixedPart (endTransaction o data run f s) = fixedPart s := by
  have told : ∀ (c : Claimant) (u : State), fixedPart (endClaimant o data c u) = fixedPart u := by
    intro c u
    unfold endClaimant
    split
    · unfold endPoll; split <;> rfl
    · simp only
      split
      · exact fixedPart_of_busRest ((busRest_handScripts _ _).trans (busRest_reportScriptEnd _ _ o u))
      · exact fixedPart_of_busRest (busRest_reportScriptEnd _ _ o u)
    · rfl
  exact (fixedPart_arbitrate _).trans (told _ _)

/-- The end of a packet in progress moves its source on, and none of these (R163). -/
theorem fixedPart_endPacket (p : LanePacket) (s : State) : fixedPart (endPacket p s) = fixedPart s := by
  unfold endPacket
  split
  · rfl
  · unfold endRenderLine
    simp only
    split
    · exact fixedPart_of_workRest (workRest_completeRender _)
    · rfl
  · rfl

theorem fixedPart_loseLinkOut (s : State) : fixedPart (loseLinkOut s) = fixedPart s :=
  fixedPart_abandonRender .linkDown (cutForwarding (cutLink s))

theorem fixedPart_regainLinkOut (s : State) : fixedPart (regainLinkOut s) = fixedPart s := by
  unfold regainLinkOut
  simp only
  rw [formReport_frame]
  rfl

theorem fixedPart_enterStepStart (settles : Bool) (s : State) : fixedPart (enterStepStart settles s) = fixedPart s :=
  fixedPart_of_phaseRest (phaseRest_enterStepStart settles s)

/-! ### The close of a subframe, stage by stage (R13 to R15) -/

/-- The commit-only visits, the closing of trails and the rotation leave what ingest leaves (R57, R122, R126). -/
theorem ingestRest_settleLight (s : State) : ingestRest (settleLight s) = ingestRest s := by
  have closed : ∀ u : State, ingestRest (closeAllTrails u) = ingestRest u := fun u =>
    congrArg (fun v : State => { v with plane := [], link.rowMap := [], cal.cursor := 0, fifo.entries := [] })
      (detectRest_closeTrails u.trails.openTrails { u with trails.openTrails := [] })
  exact closed (commitRows _ s)

/-- The first three stages: ingest finished, and a light subframe's visits, trails and veto lists. -/
def settled (s : State) : State :=
  if openIsLight s then settleLight (finishIngest s.fifo.entries.length s) else finishIngest s.fifo.entries.length s

theorem ingestRest_settled (s : State) : ingestRest (settled s) = ingestRest s := by
  have ingested := ingestRest_of_ingestFinished (ingestFinished_finishIngest s.fifo.entries.length s (entriesLeft_le s))
  unfold settled
  split
  · exact (ingestRest_settleLight _).trans ingested
  · exact ingested

/-- What comes behind the close of the record: the plane released, the next phase or take state, and the auto-preview. -/
def goOn (counts : Bool) (s : State) : State :=
  if counts then autoPreview (decideNext (settleRelease s)) else decideNext (settleRelease s)

theorem settleClose_eq (s : State) :
    settleClose s = goOn (openIsLight s && !s.seq.abortPending && !s.seq.finishPending) (closeRecord (settled s)) := rfl

theorem workRest_advancePlan (s : State) : workRest (advancePlan s) = workRest s := by
  unfold advancePlan
  split
  · rfl
  · split <;> rfl

theorem workRest_enterStepStart (settles : Bool) (s : State) : workRest (enterStepStart settles s) = workRest s :=
  workRest_of_phaseRest (phaseRest_enterStepStart settles s)

theorem workRest_enterWait (s : State) : workRest (enterWait s) = workRest s := workRest_of_phaseRest (phaseRest_enterWait s)

/-- What comes next is a matter of the phases, the plane and the render (R14). -/
theorem workRest_decideNext (s : State) : workRest (decideNext s) = workRest s := by
  rw [← workRest_advancePlan s]
  unfold decideNext
  simp only
  split
  · exact workRest_enterAborted _
  · split
    · split
      · rw [workRest_enterFinishing, workRest_enterComplete]
      · exact workRest_enterComplete _
    · split
      · exact workRest_enterTake _ _ _
      · split
        · exact workRest_enterStepStart _ _
        · exact workRest_enterWait _

theorem workRest_settleRelease (s : State) : workRest (settleRelease s) = workRest s := by
  unfold settleRelease
  rw [workRest_releasePlane]
  split
  · exact workRest_abandonRender .abort s
  · rfl

theorem workRest_autoPreview (s : State) : workRest (autoPreview s) = workRest s := by
  unfold autoPreview
  split
  · rfl
  · split
    · simp only
      split
      · exact workRest_takeRender _ _
      · rfl
    · rfl

theorem workRest_goOn (counts : Bool) (s : State) : workRest (goOn counts s) = workRest s := by
  have decided := (workRest_decideNext _).trans (workRest_settleRelease s)
  unfold goOn
  split
  · exact (workRest_autoPreview _).trans decided
  · exact decided

/-- The record that the close enters in the log (R13, R24, R57). -/
def closingRecord (s : State) (r : SubframeRecord) : SubframeRecord :=
  let counted := { r with lost := r.lost + unseenRows s * s.settings.width }
  { counted with outcome := some (closeOutcome s.seq.closeAbandoned counted) }

/-- The close of the record touches the log, the dark summaries, the abandoned mark and the report, by whether a record is open. -/
theorem closeRecord_of_none {s : State} (none : s.log.openRecord = none) : closeRecord s = s := by
  unfold closeRecord; rw [none]

theorem closeRecord_of_some {s : State} {r : SubframeRecord} (opened : s.log.openRecord = some r) :
    closeRecord s = queueReport .subframeClosed (closingRecord s r).bytes { s with
      log := { closed := s.log.closed ++ [closingRecord s r], openRecord := none },
      cal := if contributes (closingRecord s r) then addDarkSummary (closingRecord s r) s.cal else s.cal,
      seq.closeAbandoned := false } := by
  unfold closeRecord; rw [opened]; rfl

/-! ### What each event changes of them (R23, R178, R183, R185) -/

/-- The clauses of R23, R178, R183 and R185 for one event, and the commands that wait. -/
structure Changes (c : Instr) (s u : State) : Prop where
  closed : c ∉ [.takeStart, .takeClear, .partReset] → s.log.closed <+: u.log.closed ∧ u.log.closed.length ≤ s.log.closed.length + 1
  tables : c ∉ [.tableOpen, .tableAppend, .tableClose] → u.tables = s.tables
  params : c ≠ .paramSet → u.params = s.params
  settings : c ≠ .takeStart → u.settings = s.settings
  pending : u.pending = s.pending

theorem fields_of_fixedPart {s t : State} (h : fixedPart t = fixedPart s) :
    t.tables = s.tables ∧ t.params = s.params ∧ t.settings = s.settings ∧ t.pending = s.pending ∧ t.log.closed = s.log.closed := by
  simpa [fixedPart] using h

theorem Changes.of_fixedPart {c : Instr} {s u : State} (h : fixedPart u = fixedPart s) : Changes c s u := by
  obtain ⟨tables, params, settings, pending, closed⟩ := fields_of_fixedPart h
  exact ⟨fun _ => by rw [closed]; exact ⟨List.prefix_rfl, Nat.le_succ _⟩, fun _ => tables, fun _ => params, fun _ => settings,
    pending⟩

/-- What follows without touching these changes nothing of it. -/
theorem Changes.then {c : Instr} {s u v : State} (h : Changes c s u) (same : fixedPart v = fixedPart u) : Changes c s v := by
  obtain ⟨tables, params, settings, pending, closed⟩ := fields_of_fixedPart same
  exact ⟨fun n => by rw [closed]; exact h.closed n, fun n => tables.trans (h.tables n), fun n => params.trans (h.params n),
    fun n => settings.trans (h.settings n), pending.trans h.pending⟩

/-- The same from a state before, which agrees in these. -/
theorem Changes.after {c : Instr} {s u v : State} (same : fixedPart u = fixedPart s) (h : Changes c u v) : Changes c s v := by
  obtain ⟨tables, params, settings, pending, closed⟩ := fields_of_fixedPart same
  exact ⟨fun n => by rw [← closed]; exact h.closed n, fun n => (h.tables n).trans tables, fun n => (h.params n).trans params,
    fun n => (h.settings n).trans settings, h.pending.trans pending⟩

/-- The close of a subframe adds at most one closed record, and touches nothing else of these (R13, R23). -/
theorem changes_settleClose (c : Instr) (s : State) : Changes c s (settleClose s) := by
  rw [settleClose_eq]
  refine Changes.then (.after (fixedPart_of_ingestRest (ingestRest_settled s)) ?_) (fixedPart_of_workRest (workRest_goOn _ _))
  cases opened : (settled s).log.openRecord with
  | none => rw [closeRecord_of_none opened]; exact .of_fixedPart rfl
  | some r =>
    rw [closeRecord_of_some opened]
    refine Changes.then ?_ (fixedPart_queueReport _ _ _)
    exact ⟨fun _ => ⟨List.prefix_append _ _, by simp⟩, fun _ => rfl, fun _ => rfl, fun _ => rfl, rfl⟩

/-- A table request changes tables alone. -/
theorem Changes.of_tables {c : Instr} {s u : State} (table : c ∈ [.tableOpen, .tableAppend, .tableClose])
    (h : fixedPart u = (u.tables, s.params, s.settings, s.pending, s.log.closed)) : Changes c s u := by
  simp only [fixedPart, Prod.mk.injEq, true_and] at h
  obtain ⟨params, settings, pending, closed⟩ := h
  exact ⟨fun _ => by rw [closed]; exact ⟨List.prefix_rfl, Nat.le_succ _⟩, fun n => absurd table n, fun _ => params, fun _ => settings,
    pending⟩

theorem fixedLength_cases (n : Nat) (carry : Request → State → State) (r : Request) (s : State) :
    fixedLength n carry r s = carry r s ∨ fixedLength n carry r s = answer r .badLength [] s := by
  unfold fixedLength
  split
  · exact .inl rfl
  · exact .inr rfl

theorem fixedPart_pauseTake (s : State) : fixedPart (pauseTake s) = fixedPart s := fixedPart_of_phaseRest (phaseRest_pauseTake s)

theorem fixedPart_stopTake (s : State) : fixedPart (stopTake s) = fixedPart s := fixedPart_of_phaseRest (phaseRest_stopTake s)

theorem fixedPart_enterFinishing (s : State) : fixedPart (enterFinishing s) = fixedPart s :=
  fixedPart_of_workRest (workRest_enterFinishing s)

theorem fixedPart_enterComplete (s : State) : fixedPart (enterComplete s) = fixedPart s :=
  fixedPart_of_workRest (workRest_enterComplete s)

theorem fixedPart_enterAborted (s : State) : fixedPart (enterAborted s) = fixedPart s :=
  fixedPart_of_workRest (workRest_enterAborted s)

theorem fixedPart_finishTake (s : State) : fixedPart (finishTake s) = fixedPart s := by
  unfold finishTake
  split
  · split
    · rw [fixedPart_enterFinishing, fixedPart_enterComplete]; rfl
    · rfl
  · rw [fixedPart_enterFinishing, fixedPart_enterComplete]
  · exact fixedPart_enterFinishing s
  · rfl

theorem fixedPart_abortTake (s : State) : fixedPart (abortTake s) = fixedPart s := by
  have cut : fixedPart (cutExposure s) = fixedPart s := fixedPart_of_workRest (workRest_cutExposure s)
  unfold abortTake
  split
  · rfl
  · rfl
  · exact fixedPart_enterAborted (stopClearing s)
  · split
    · exact fixedPart_enterAborted (cancelWork s)
    · exact fixedPart_enterAborted (cancelWork s)
    · exact cut
    · exact cut
    · exact fixedPart_endReadout s
    · rfl
  · exact fixedPart_enterAborted s

theorem fixedPart_acceptRender (k : RenderKind) (r : Request) (s : State) : fixedPart (acceptRender k r s) = fixedPart s :=
  (fixedPart_takeRender k _).trans (fixedPart_answer r _ _ s)

theorem fixedPart_presentRelay (r : Request) (device : Nat) (reg : RegAddr) (access : BusAccess) (s : State) :
    fixedPart (presentRelay r device reg access s) = fixedPart s := by
  unfold presentRelay
  split
  · exact fixedPart_answer _ _ _ s
  · split
    · exact fixedPart_answer _ _ _ s
    · split
      · exact fixedPart_answer _ _ _ s
      · exact (fixedPart_tryEndStepStart _).trans (fixedPart_arbitrate _)

/-- TABLE_OPEN (R179). -/
theorem changes_openTable (r : Request) (s : State) : Changes .tableOpen s (openTable r s) := by
  unfold openTable
  split
  · exact .of_fixedPart (fixedPart_answer _ _ _ s)
  · split
    · exact .of_fixedPart (fixedPart_answer _ _ _ s)
    · refine Changes.then (.of_tables (by decide) ?_) (fixedPart_answer _ _ _ _)
      split <;> rfl

/-- TABLE_APPEND (R180). -/
theorem changes_appendTable (r : Request) (s : State) : Changes .tableAppend s (appendTable r s) := by
  have refused : ∀ st, Changes .tableAppend s (answer r st [] s) := fun st => .of_fixedPart (fixedPart_answer r st [] s)
  unfold appendTable
  split
  · exact refused _
  · split
    · exact refused _
    · simp only
      split
      · exact refused _
      · split
        · exact refused _
        · split
          · exact refused _
          · refine Changes.then ?_ (fixedPart_answer _ _ _ _)
            exact .of_tables (by decide) rfl

/-- TABLE_CLOSE (R181). -/
theorem changes_closeTable (r : Request) (s : State) : Changes .tableClose s (closeTable r s) := by
  unfold closeTable
  split
  · exact .of_fixedPart (fixedPart_answer _ _ _ s)
  · split
    · exact .of_fixedPart (fixedPart_answer _ _ _ s)
    · refine Changes.then (.of_tables (by decide) ?_) (fixedPart_answer _ _ _ _)
      split <;> rfl

/-- PARAM_SET (R184). -/
theorem changes_setParam (r : Request) (s : State) : Changes .paramSet s (setParam r s) := by
  unfold setParam
  simp only
  split
  · exact .of_fixedPart (fixedPart_answer _ _ _ s)
  · split
    · exact .of_fixedPart (fixedPart_answer _ _ _ s)
    · split
      · exact .of_fixedPart (fixedPart_answer _ _ _ s)
      · rename_i p _
        refine Changes.then (u := { s with params := p }) ?_ ((fixedPart_answer _ _ _ _).trans ?_)
        · exact ⟨fun _ => ⟨List.prefix_rfl, Nat.le_succ _⟩, fun _ => rfl, fun n => absurd rfl n, fun _ => rfl, rfl⟩
        · unfold paramEffects
          split
          all_goals first | rfl | (split <;> rfl)

/-- TAKE_START (R5, R183). -/
theorem changes_takeStart (r : Request) (s : State) : Changes .takeStart s (takeStart r s) := by
  have refused : ∀ st p, Changes .takeStart s (answer r st p s) := fun st p => .of_fixedPart (fixedPart_answer r st p s)
  unfold takeStart
  split
  · exact refused _ _
  · split
    · exact refused _ _
    · split
      · exact refused _ _
      · refine Changes.after (fixedPart_answer r .ok (startPayload s) s) ?_
        unfold startTake
        refine Changes.then ?_ (fixedPart_enterTake _ _ _)
        exact ⟨fun n => absurd (by decide) n, fun _ => rfl, fun _ => rfl, fun n => absurd rfl n, rfl⟩

/-- TAKE_CLEAR (R22). -/
theorem changes_takeClear (r : Request) (s : State) : Changes .takeClear s (takeClear r s) := by
  unfold takeClear
  split
  · exact .of_fixedPart (fixedPart_answer _ _ _ s)
  · split
    · exact .of_fixedPart (fixedPart_answer _ _ _ s)
    · refine Changes.after (fixedPart_answer r .ok [] s) ?_
      unfold clearTake
      refine Changes.then ?_ (fixedPart_enterTake _ _ _)
      exact ⟨fun n => absurd (by decide) n, fun _ => rfl, fun _ => rfl, fun _ => rfl, rfl⟩

/-- The requests that change none of these. -/
theorem fixedPart_readRequests (r : Request) (s : State) :
    fixedPart (readTable r s) = fixedPart s ∧ fixedPart (getParam r s) = fixedPart s ∧ fixedPart (readLog r s) = fixedPart s
      ∧ fixedPart (readStatus r s) = fixedPart s ∧ fixedPart (readLines r s) = fixedPart s := by
  refine ⟨?_, ?_, ?_, fixedPart_answer _ _ _ s, fixedPart_answer _ _ _ s⟩
  · unfold readTable
    split
    · exact fixedPart_answer _ _ _ s
    · simp only
      split <;> exact fixedPart_answer _ _ _ s
  · unfold getParam
    simp only
    split <;> exact fixedPart_answer _ _ _ s
  · unfold readLog
    simp only
    split <;> exact fixedPart_answer _ _ _ s

theorem fixedPart_setLineLevel (r : Request) (s : State) : fixedPart (setLineLevel r s) = fixedPart s := by
  unfold setLineLevel
  split
  · split
    · exact fixedPart_answer _ _ _ _
    · exact fixedPart_answer _ _ _ s
  · exact fixedPart_answer _ _ _ s

theorem fixedPart_takeCommands (r : Request) (s : State) :
    fixedPart (takePause r s) = fixedPart s ∧ fixedPart (takeResume r s) = fixedPart s ∧ fixedPart (takeStop r s) = fixedPart s
      ∧ fixedPart (takeFinish r s) = fixedPart s ∧ fixedPart (takeAbort r s) = fixedPart s := by
  refine ⟨?_, ?_, ?_, ?_, ?_⟩
  · exact (fixedPart_pauseTake _).trans (fixedPart_answer _ _ _ s)
  · unfold takeResume
    split
    · exact (fixedPart_of_phaseRest (phaseRest_resumeTake _)).trans (fixedPart_answer _ _ _ s)
    · exact fixedPart_answer _ _ _ s
  · exact (fixedPart_stopTake _).trans (fixedPart_answer _ _ _ s)
  · exact (fixedPart_finishTake _).trans (fixedPart_answer _ _ _ s)
  · exact (fixedPart_abortTake _).trans (fixedPart_answer _ _ _ s)

theorem fixedPart_renderRequests (r : Request) (s : State) :
    fixedPart (renderPreview r s) = fixedPart s ∧ fixedPart (renderRepeat r s) = fixedPart s := by
  constructor
  · unfold renderPreview
    split
    all_goals try exact fixedPart_answer _ _ _ s
    split
    · exact fixedPart_acceptRender _ _ s
    · exact fixedPart_answer _ _ _ s
  · unfold renderRepeat
    split
    all_goals try exact fixedPart_answer _ _ _ s
    split
    · exact fixedPart_acceptRender _ _ s
    · exact fixedPart_answer _ _ _ s

theorem fixedPart_bridgeRequests (r : Request) (s : State) :
    fixedPart (bridgeWrite r s) = fixedPart s ∧ fixedPart (bridgeRead r s) = fixedPart s
      ∧ fixedPart (bridgeRecover r s) = fixedPart s := by
  refine ⟨?_, ?_, ?_⟩
  · unfold bridgeWrite
    split
    · exact fixedPart_answer _ _ _ s
    · split
      · exact fixedPart_answer _ _ _ s
      · split
        · exact fixedPart_answer _ _ _ s
        · split
          · exact fixedPart_answer _ _ _ s
          · exact fixedPart_presentRelay _ _ _ _ s
  · unfold bridgeRead
    split
    · exact fixedPart_answer _ _ _ s
    · split
      · exact fixedPart_answer _ _ _ s
      · exact fixedPart_presentRelay _ _ _ _ s
  · unfold bridgeRecover
    split
    · unfold askTrain
      split <;> rfl
    · exact fixedPart_answer _ _ _ s

/-- What a request of a known kind changes of them. -/
theorem changes_of_meaning {c : Instr} {n : Nat} {carry : Request → State → State} (m : Meaning c n carry) (r : Request) (s : State) :
    Changes c s (carry r s) := by
  have length : ∀ {c : Instr} {k : Nat} {own : Request → State → State}, Changes c s (own r s) →
      Changes c s (fixedLength k own r s) := by
    intro c k own h
    rcases fixedLength_cases k own r s with e | e <;> rw [e]
    · exact h
    · exact .of_fixedPart (fixedPart_answer _ _ _ s)
  obtain ⟨table, get, log, status, lines⟩ := fixedPart_readRequests r s
  obtain ⟨pause, resume, stop, finish, abort⟩ := fixedPart_takeCommands r s
  obtain ⟨preview, again⟩ := fixedPart_renderRequests r s
  obtain ⟨write, read, recover⟩ := fixedPart_bridgeRequests r s
  cases m with
  | tableOpen => exact length (changes_openTable r s)
  | tableAppend => exact changes_appendTable r s
  | tableClose => exact length (changes_closeTable r s)
  | tableRead => exact length (.of_fixedPart table)
  | paramSet => exact length (changes_setParam r s)
  | paramGet => exact length (.of_fixedPart get)
  | takeStart => exact length (changes_takeStart r s)
  | takePause => exact length (.of_fixedPart pause)
  | takeResume => exact length (.of_fixedPart resume)
  | takeStop => exact length (.of_fixedPart stop)
  | takeFinish => exact length (.of_fixedPart finish)
  | takeAbort => exact length (.of_fixedPart abort)
  | takeClear => exact length (changes_takeClear r s)
  | renderPreview => exact length (.of_fixedPart preview)
  | renderRepeat => exact length (.of_fixedPart again)
  | logRead => exact length (.of_fixedPart log)
  | statusRead => exact length (.of_fixedPart status)
  | bridgeWrite => exact .of_fixedPart write
  | bridgeRead => exact length (.of_fixedPart read)
  | bridgeRecover => exact length (.of_fixedPart recover)
  | lineLevel => exact length (.of_fixedPart (fixedPart_setLineLevel r s))
  | lineRead => exact length (.of_fixedPart lines)

/-- PART_RESET drops the log and keeps the rest (R190). -/
theorem changes_partReset (r : Request) (s : State) : Changes .partReset s (partReset r s) := by
  have port : fixedPart (resetPort r s) = fixedPart s := by
    unfold resetPort
    simp only
    rw [fixedPart_answer]
    split
    · exact fixedPart_handFlow _ _
    · rfl
  have pass : ∀ u : State, fixedPart (stopPass u) = fixedPart u := by
    intro u; unfold stopPass; split <;> rfl
  have render : ∀ u : State, fixedPart (resetRender u) = fixedPart u := fun u => fixedPart_abandonRender .partReset _
  have take : ∀ u : State, fixedPart (resetTake u) = fixedPart u := by
    intro u
    unfold resetTake
    split
    · rfl
    · exact fixedPart_enterTake _ _ u
  have blocks : Changes .partReset s (resetBlocks (resetRender (stopPass (resetPort r s)))) := by
    refine .after ((render _).trans ((pass _).trans port)) ?_
    exact ⟨fun n => absurd (by decide) n, fun _ => rfl, fun _ => rfl, fun _ => rfl, rfl⟩
  exact (blocks.then (take _)).then rfl

/-- What an event changes of them before its end. -/
theorem Effect.changes {c : Instr} {s u : State} (h : Effect c s u) : Changes c s u := by
  cases h with
  | arrival locked joins =>
    refine .of_fixedPart ?_
    unfold markHold
    split
    · exact fixedPart_handFlow _ _
    · rfl
  | taken meaning => exact .after (fixedPart_removeRequest s) (changes_of_meaning meaning _ _)
  | unknown | resetLength => exact .of_fixedPart ((fixedPart_answer _ _ _ _).trans (fixedPart_removeRequest s))
  | reset => exact changes_partReset _ s
  | recoverDone => exact .of_fixedPart (fixedPart_endTrain _ _ s)
  | waitingReply => exact .of_fixedPart (fixedPart_joinReply _ _)
  | relayReply => exact .of_fixedPart (fixedPart_joinReply _ _)
  | trailDrain => exact .of_fixedPart (fixedPart_queueReport _ _ _)
  | hold | pwmPeriod | pwmEnd | rowRead | minPulse => exact .of_fixedPart rfl
  | linkInLost =>
    refine .of_fixedPart ?_
    unfold loseLinkIn
    simp only
    split
    · exact fixedPart_endReadout s
    · exact fixedPart_endFrame s
  | frameStart => exact .of_fixedPart (fixedPart_takeFrameStart _ s)
  | line => exact .of_fixedPart (fixedPart_takeLine _ _ _ s)
  | frameEndSubframe => exact .of_fixedPart (fixedPart_endReadout s)
  | frameEndStray => exact .of_fixedPart (fixedPart_endFrame s)
  | linkOutLoss => exact .of_fixedPart (fixedPart_loseLinkOut s)
  | clearingComplete =>
    refine .of_fixedPart ?_
    unfold completeClearing
    simp only
    rw [fixedPart_enterStepStart, fixedPart_enterTake]
    rfl
  | settleExpiry => exact .of_fixedPart (fixedPart_tryEndStepStart _)
  | gapExpiry => exact .of_fixedPart (fixedPart_enterExpose _)
  | exposureExpiry =>
    refine .of_fixedPart ?_
    unfold claimIngest
    split
    · exact (fixedPart_of_workRest (workRest_grantIngest _)).trans rfl
    · unfold enterHold
      simp only
      split
      · exact fixedPart_abandonRender _ _
      · rfl
  | extensionExpiry => exact .of_fixedPart (fixedPart_abandonRender _ _)
  | readoutExpiry => exact .of_fixedPart (fixedPart_endReadout _)
  | ingest => exact .of_fixedPart (fixedPart_of_ingestRest (ingestRest_ingestNext s))
  | settleEnd => exact changes_settleClose _ s
  | inputPin => exact .of_fixedPart (fixedPart_changePin _ _ s)
  | debounce => exact .of_fixedPart (fixedPart_acceptLevel _ _)
  | @conversion _ channel _ due => cases channel <;> exact .of_fixedPart rfl
  | poll => exact .of_fixedPart ((fixedPart_of_phaseRest (phaseRest_claimPoll _)).trans rfl)
  | busEnd | busTimeout => exact .of_fixedPart ((fixedPart_tryEndStepStart _).trans (fixedPart_endTransaction _ _ _ _ _))

theorem BoundaryEffect.fixedPart {c : Instr} {s u : State} (h : BoundaryEffect c s u) : fixedPart u = fixedPart s := by
  cases h with
  | go => rfl
  | regain => exact fixedPart_regainLinkOut s
  | packetEnd =>
    rw [fixedPart_endPacket]
    unfold sendWaitingFlow
    split <;> rfl

/-- What any command but power and RESET_N changes of them. -/
theorem Ran.changes {c : Instr} {s t : State} (h : Ran c s t) (notReset : c ≠ .resetN) (notPower : ∀ pins, c ≠ .powerOn pins) :
    Changes c s t := by
  cases h with
  | powerOn pins => exact absurd rfl (notPower pins)
  | resetN => exact absurd rfl notReset
  | nothing | linkInLocked => exact .of_fixedPart rfl
  | event effect => exact effect.changes.then (fixedPart_of_stillPart (stillPart_endEvent _))
  | boundary effect =>
    exact .of_fixedPart ((fixedPart_of_stillPart (stillPart_endBoundary _)).trans effect.fixedPart)

/-- Settles O60, by the clauses for each event. -/
theorem logAndSetupChangeOnlyByTheirRequests : Obligations.LogAndSetupChangeOnlyByTheirRequests := by
  intro c s t notReset notPower h
  obtain ⟨closed, tables, params, settings, -⟩ := (ran_of_exec h).changes notReset notPower
  exact ⟨closed, tables, params, settings⟩

theorem Ran.pending {c : Instr} {s t : State} (h : Ran c s t) : t.pending = s.pending := by
  have ended : ∀ u : State, (endEvent u).pending = u.pending := fun u =>
    show (stillPart (endEvent u)).pending = (stillPart u).pending by rw [stillPart_endEvent]
  have bounded : ∀ u : State, (endBoundary u).pending = u.pending := fun u =>
    show (stillPart (endBoundary u)).pending = (stillPart u).pending by rw [stillPart_endBoundary]
  cases h with
  | powerOn | resetN | nothing | linkInLocked => rfl
  | event effect => exact (ended _).trans effect.changes.pending
  | boundary effect =>
    obtain ⟨-, -, -, pending, -⟩ := fields_of_fixedPart effect.fixedPart
    exact (bounded _).trans pending

/-- No command is refused and none faults (95). -/
theorem exec_next (c : Instr) (s : State) : ∃ t, exec c s = .next t := by
  cases c
  case requestUnknownKind =>
    have taken : ∃ t, execRequestUnknownKind s = .next t := takeRequest_next _ _ s
    exact taken
  case partReset =>
    simp only [exec, execPartReset]
    split
    · exact ⟨_, rfl⟩
    · split
      · exact ⟨_, rfl⟩
      · exact takeRequest_next _ _ s
  case relayReplyQueued =>
    simp only [exec, execRelayReplyQueued]
    split
    · exact ⟨_, rfl⟩
    · split
      · split <;> exact ⟨_, rfl⟩
      · exact ⟨_, rfl⟩
  case waitingReplyQueued =>
    simp only [exec, execWaitingReplyQueued]
    split
    · split <;> exact ⟨_, rfl⟩
    · exact ⟨_, rfl⟩
  case trailQueueDrain =>
    simp only [exec, execTrailQueueDrain]
    split
    · exact ⟨_, rfl⟩
    · split <;> exact ⟨_, rfl⟩
  case frameEnd lines =>
    simp only [exec, execFrameEnd]
    split
    · split <;> exact ⟨_, rfl⟩
    · exact ⟨_, rfl⟩
  case busTransactionEnd o =>
    simp only [exec, execBusTransactionEnd]
    split
    · exact ⟨_, rfl⟩
    · split <;> exact ⟨_, rfl⟩
  case powerOn | resetN | controlSymbolUnknown | linkInPacketDiscard | linkInLockGained | heaterPwmPeriod => exact ⟨_, rfl⟩
  case tableOpen | tableAppend | tableClose | tableRead | paramSet | paramGet | takeStart | takePause | takeResume | takeStop
      | takeFinish | takeAbort | takeClear | renderPreview | renderRepeat | logRead | statusRead | bridgeWrite | bridgeRead
      | bridgeRecover | lineLevel | lineRead => exact takeRequest_next _ _ s
  all_goals
    simp only [exec, execRequestArrival, execBridgeRecoverDone, execHoldOut, execGoOut, execLinkInLockLost, execFrameStart,
      execLine, execLinkOutLockLoss, execLinkOutLockRegain, execLinkOutPacketEnd, execRenderRowRead, execClearingPassComplete,
      execShutterSettleExpiry, execGapTimerExpiry, execExposureTimerExpiry, execExtensionTimerExpiry, execReadoutTimerExpiry,
      execIngestEntry, execSettleEnd, execMinPulseExpiry, execInputPinChange, execDebounceExpiry, execAdcConversion,
      execPwmActiveEnd, execPollClaim, execBusClockTimeout]
    split <;> exact ⟨_, rfl⟩

/-- Settles O2: every command is one of the shapes that answer a next state, and none of them touches the commands that wait. -/
theorem everyCommandAnswersNext : Obligations.EveryCommandAnswersNext := by
  intro c s
  obtain ⟨t, answered⟩ := exec_next c s
  exact ⟨t, answered, (ran_of_exec answered).pending⟩

end Sys2Proof.Machine
end

section
/-! PROOFS. Tables, parameters and recorded settings stay within what their checks let in (R178, R183, R184). -/

namespace Sys2Proof.Machine

/-! ### What a step can do -/

/-- A step is one tick, or the command at the front of the queue. -/
theorem step_cases {s t : State} (h : step s = .next t) :
    t = tick s ∨ ∃ c rest, s.pending = c :: rest ∧ Ran c { s with pending := rest } t := by
  unfold step at h
  split at h
  · cases h; exact .inl rfl
  · rename_i c rest queued
    exact .inr ⟨c, rest, queued, ran_of_exec h⟩

/-! ### The rules of one table (R178) -/

/-- A table within its capacity, its entries in their ranges and each pair of them in this relation. -/
structure Table.Held {α : Type} (capacity : Nat) (inRange : α → Bool) (related : α → α → Prop) (t : Table α) : Prop where
  sound : Table.Sound capacity t
  ranges : ∀ e ∈ t.entries, inRange e = true
  pairs : t.entries.Pairwise related

section
variable {α : Type} {capacity : Nat} {inRange : α → Bool} {related : α → α → Prop} {t : Table α}

theorem Table.held_opened : Table.Held capacity inRange related (Table.opened : Table α) :=
  ⟨⟨Nat.zero_le _, fun _ => rfl, fun ready => nomatch ready⟩, List.forall_mem_nil _, .nil⟩

/-- TABLE_CLOSE keeps the entries, and its state tells whether there is one (R181). -/
theorem Table.Held.closed (h : Table.Held capacity inRange related t) : Table.Held capacity inRange related t.closed := by
  obtain ⟨⟨length, -, -⟩, ranges, pairs⟩ := h
  refine ⟨⟨length, ?_, ?_⟩, ranges, pairs⟩
  · intro empty
    cases held : t.entries with
    | nil => exact held
    | cons e rest => simp [Table.closed, held] at empty
  · intro ready none
    have none : t.entries = [] := none
    simp [Table.closed, none] at ready

/-- An entry that joins the newest one of a LOADING table, in its range and in relation to each entry held (R180). -/
theorem Table.Held.appended (h : Table.Held capacity inRange related t) (loading : t.state = .loading)
    {entry : Option α} {against : List α → α → Option Status} {t' : Table α}
    (joined : appendTo capacity t entry inRange against = .ok t')
    (passes : ∀ e, against t.entries e = none → ∀ p ∈ t.entries, related p e) :
    Table.Held capacity inRange related t' ∧ t'.state = .loading := by
  obtain ⟨⟨length, -, -⟩, ranges, pairs⟩ := h
  rcases appendTo_cases capacity t entry inRange against with ⟨-, e⟩ | ⟨room, ⟨-, e⟩ | ⟨x, -, ⟨-, e⟩ | ⟨fits, ⟨_, -, e⟩ | ⟨free, e⟩⟩⟩⟩
  case' inr.inr.inr.inr =>
    rw [e] at joined
    cases joined
    refine ⟨⟨⟨?_, ?_, ?_⟩, ?_, ?_⟩, loading⟩
    · simpa using room
    · intro empty; rw [loading] at empty; cases empty
    · intro ready; rw [loading] at ready; cases ready
    · simpa [or_imp, forall_and] using ⟨ranges, fits⟩
    · exact List.pairwise_append.mpr ⟨pairs, List.pairwise_singleton _ _, fun p held q new => by
        rw [List.mem_singleton.mp new]; exact passes x free p held⟩
  all_goals rw [e] at joined; cases joined

/-- What joins has passed the table's check and is the newest entry. -/
theorem appendTo_ok {entry : Option α} {against : List α → α → Option Status} {t' : Table α}
    (joined : appendTo capacity t entry inRange against = .ok t') :
    ∃ e, against t.entries e = none ∧ t'.entries = t.entries ++ [e] := by
  rcases appendTo_cases capacity t entry inRange against with ⟨-, e⟩ | ⟨-, ⟨-, e⟩ | ⟨x, -, ⟨-, e⟩ | ⟨-, ⟨_, -, e⟩ | ⟨free, e⟩⟩⟩⟩
  case' inr.inr.inr.inr => rw [e] at joined; cases joined; exact ⟨x, free, rfl⟩
  all_goals rw [e] at joined; cases joined

/-- In a table in order, an entry behind the newest is behind all. -/
theorem related_of_last {held : List α} (pairs : held.Pairwise related) (trans : ∀ a b c, related a b → related b c → related a c)
    {e : α} (last : ∀ p ∈ held.getLast?, related p e) : ∀ p ∈ held, related p e := by
  intro p member
  have some : held ≠ [] := List.ne_nil_of_mem member
  have newest : related (held.getLast some) e := last _ (List.getLast?_eq_getLast_of_ne_nil some ▸ rfl)
  by_cases same : p = held.getLast some
  · rw [same]; exact newest
  · rw [← List.dropLast_append_getLast some] at pairs member
    obtain ⟨-, -, before⟩ := List.pairwise_append.mp pairs
    rcases List.mem_append.mp member with early | late
    · exact trans _ _ _ (before p early _ (List.mem_singleton_self _)) newest
    · exact absurd (List.mem_singleton.mp late) same

end

/-- An ordered table takes what its newest entry is less than. -/
theorem less_of_ordered {α : Type} {less : α → α → Bool} {held : List α} {e : α} (passes : ordered less held e = none) :
    ∀ p ∈ held.getLast?, less p e = true := by
  intro p newest
  rw [Option.mem_def] at newest
  cases h : less p e with
  | true => rfl
  | false => rw [ordered_refuses newest h] at passes; cases passes

theorem not_clash_of_distinct {α : Type} {clash : α → α → Bool} {held : List α} {e : α} (passes : distinct clash held e = none) :
    ∀ p ∈ held, clash p e = false := by
  intro p member
  unfold distinct at passes
  split at passes
  · cases passes
  · rename_i free
    exact Bool.eq_false_iff.mpr fun met => free (List.any_eq_true.mpr ⟨p, member, met⟩)

theorem Defect.less_trans (a b c : Defect) (first : a.less b = true) (second : b.less c = true) : a.less c = true := by
  simp only [Defect.less, decide_eq_true_eq] at *
  omega

/-- The first entry of a HORIZON that grows stays the first, and one that joins an empty table stands at column 0 (R89). -/
theorem vertexOrder_passes {held : List Vertex} {e : Vertex} (passes : vertexOrder held e = none) :
    (held = [] → e.column = 0) ∧ ∀ p ∈ held.getLast?, p.column < e.column := by
  unfold vertexOrder at passes
  split at passes
  · rename_i none
    refine ⟨fun _ => ?_, fun p newest => by rw [none] at newest; cases newest⟩
    split at passes
    · assumption
    · cases passes
  · rename_i p newest
    refine ⟨fun empty => (by rw [empty] at newest; cases newest), fun q member => ?_⟩
    rw [newest, Option.mem_some_iff] at member
    subst member
    split at passes
    · assumption
    · cases passes

/-! ### The eleven tables -/

/-- The rules of the eleven tables, each as those of one table. -/
theorem tables_sound_iff (t : Tables) : Tables.Sound t ↔
    Table.Held 16 PlanStep.inRange (fun _ _ => True) t.plan
    ∧ Table.Held 4096 Defect.inRange (fun p e => p.less e = true) t.defects
    ∧ (Table.Held 64 Vertex.inRange (fun p e => p.column < e.column) t.horizon ∧ ∀ v ∈ t.horizon.entries.head?, v.column = 0)
    ∧ Table.Held 2 RegionEntry.inRange (fun p e => p.region ≠ e.region) t.regions
    ∧ Table.Held 16 darkPointInRange (fun p e => p.x < e.x) t.darkModel
    ∧ Table.Held 6 LineEntry.inRange (fun p e => p.clash e = false) t.lines
    ∧ Table.Held 8 heaterPointInRange (fun p e => p.x < e.x) t.heaterCurve
    ∧ Table.Held 16 adcPointInRange (fun p e => p.x < e.x) t.adcCurve0
    ∧ Table.Held 16 adcPointInRange (fun p e => p.x < e.x) t.adcCurve1
    ∧ Table.Held 8 (fun a => decide (a ≤ 127)) (fun p e => p ≠ e) t.bridgeAllow
    ∧ Table.Held 32 ScriptEntry.inRange (fun _ _ => True) t.bridgeScript := by
  have free : ∀ {α : Type} (l : List α), l.Pairwise fun _ _ => True := fun l => List.pairwise_of_forall fun _ _ => trivial
  constructor
  · intro h
    obtain ⟨hori, hr, hp, hz⟩ := h.horizon
    obtain ⟨allow, ar, ap⟩ := h.bridgeAllow
    exact ⟨⟨h.plan.1, h.plan.2, free _⟩, ⟨h.defects.1, h.defects.2.1, h.defects.2.2⟩, ⟨⟨hori, hr, hp⟩, hz⟩,
      ⟨h.regions.1, h.regions.2.1, h.regions.2.2⟩, ⟨h.darkModel.1, h.darkModel.2.1, h.darkModel.2.2⟩,
      ⟨h.lines.1, h.lines.2.1, h.lines.2.2⟩, ⟨h.heaterCurve.1, h.heaterCurve.2.1, h.heaterCurve.2.2⟩,
      ⟨h.adcCurve0.1, h.adcCurve0.2.1, h.adcCurve0.2.2⟩, ⟨h.adcCurve1.1, h.adcCurve1.2.1, h.adcCurve1.2.2⟩,
      ⟨allow, by simpa using ar, ap⟩, ⟨h.bridgeScript.1, h.bridgeScript.2, free _⟩⟩
  · rintro ⟨plan, defects, ⟨horizon, zero⟩, regions, darkModel, lines, heater, adc0, adc1, allow, script⟩
    exact ⟨⟨plan.sound, plan.ranges⟩, ⟨defects.sound, defects.ranges, defects.pairs⟩,
      ⟨horizon.sound, horizon.ranges, horizon.pairs, zero⟩, ⟨regions.sound, regions.ranges, regions.pairs⟩,
      ⟨darkModel.sound, darkModel.ranges, darkModel.pairs⟩, ⟨lines.sound, lines.ranges, lines.pairs⟩,
      ⟨heater.sound, heater.ranges, heater.pairs⟩, ⟨adc0.sound, adc0.ranges, adc0.pairs⟩,
      ⟨adc1.sound, adc1.ranges, adc1.pairs⟩, ⟨allow.sound, by simpa using allow.ranges, allow.pairs⟩,
      ⟨script.sound, script.ranges⟩⟩

theorem sound_opened {t : Tables} (h : Tables.Sound t) (n : TableName) : Tables.Sound (t.opened n) := by
  rw [tables_sound_iff] at h ⊢
  obtain ⟨plan, defects, ⟨horizon, zero⟩, regions, darkModel, lines, heater, adc0, adc1, allow, script⟩ := h
  cases n
  case horizon => exact ⟨plan, defects, ⟨Table.held_opened, fun _ none => nomatch none⟩, regions, darkModel, lines, heater, adc0,
    adc1, allow, script⟩
  all_goals
    refine ⟨?_, ?_, ⟨?_, ?_⟩, ?_, ?_, ?_, ?_, ?_, ?_, ?_, ?_⟩
  all_goals first | assumption | exact Table.held_opened

theorem sound_closed {t : Tables} (h : Tables.Sound t) (n : TableName) : Tables.Sound (t.closed n) := by
  rw [tables_sound_iff] at h ⊢
  obtain ⟨plan, defects, ⟨horizon, zero⟩, regions, darkModel, lines, heater, adc0, adc1, allow, script⟩ := h
  cases n
  all_goals
    refine ⟨?_, ?_, ⟨?_, ?_⟩, ?_, ?_, ?_, ?_, ?_, ?_, ?_, ?_⟩
  all_goals first | assumption | exact Table.Held.closed ‹_›

/-- A table that takes an entry and is put back. -/
theorem except_map_ok {α β : Type} {x : Except Status α} {f : α → β} {y : β} (h : x.map f = .ok y) : ∃ a, x = .ok a ∧ f a = y := by
  cases x with
  | error e => cases h
  | ok a => cases h; exact ⟨a, rfl, rfl⟩

theorem CurvePoint.rising {held : List CurvePoint} (pairs : held.Pairwise fun p e => p.x < e.x) (e : CurvePoint)
    (passes : ordered CurvePoint.less held e = none) : ∀ p ∈ held, p.x < e.x :=
  related_of_last pairs (fun _ _ _ => lt_trans) fun p newest => of_decide_eq_true (less_of_ordered passes p newest)

/-- An entry that joins its LOADING table leaves the tables sound and that one LOADING (R180 and the entry rules). -/
theorem sound_appendEntry {n : TableName} {b : List Byte} {t t' : Tables} (h : Tables.Sound t) (loading : t.stateOf n = .loading)
    (joined : appendEntry n b t = .ok t') : Tables.Sound t' ∧ t'.stateOf n = .loading := by
  rw [tables_sound_iff] at h
  obtain ⟨plan, defects, ⟨horizon, zero⟩, regions, darkModel, lines, heater, adc0, adc1, allow, script⟩ := h
  cases n <;> obtain ⟨x, taken, rfl⟩ := except_map_ok joined <;> rw [tables_sound_iff]
  case plan =>
    obtain ⟨held, state⟩ := plan.appended loading taken fun _ _ _ _ => trivial
    exact ⟨⟨held, defects, ⟨horizon, zero⟩, regions, darkModel, lines, heater, adc0, adc1, allow, script⟩, state⟩
  case defects =>
    obtain ⟨held, state⟩ := defects.appended loading taken fun e passes =>
      related_of_last defects.pairs Defect.less_trans (less_of_ordered passes)
    exact ⟨⟨plan, held, ⟨horizon, zero⟩, regions, darkModel, lines, heater, adc0, adc1, allow, script⟩, state⟩
  case horizon =>
    obtain ⟨held, state⟩ := horizon.appended loading taken fun e passes =>
      related_of_last horizon.pairs (fun _ _ _ => lt_trans) (vertexOrder_passes passes).2
    refine ⟨⟨plan, defects, ⟨held, ?_⟩, regions, darkModel, lines, heater, adc0, adc1, allow, script⟩, state⟩
    obtain ⟨e, first, entries⟩ := appendTo_ok taken
    intro v head
    rw [entries] at head
    cases old : t.horizon.entries with
    | nil =>
      simp only [old, List.nil_append, List.head?_cons, Option.mem_some_iff] at head
      rw [← head]
      exact (vertexOrder_passes first).1 old
    | cons w rest => exact zero v (by simpa [old] using head)
  case regions =>
    obtain ⟨held, state⟩ := regions.appended loading taken fun e passes p member =>
      of_decide_eq_false (not_clash_of_distinct passes p member)
    exact ⟨⟨plan, defects, ⟨horizon, zero⟩, held, darkModel, lines, heater, adc0, adc1, allow, script⟩, state⟩
  case darkModel =>
    obtain ⟨held, state⟩ := darkModel.appended loading taken (CurvePoint.rising darkModel.pairs)
    exact ⟨⟨plan, defects, ⟨horizon, zero⟩, regions, held, lines, heater, adc0, adc1, allow, script⟩, state⟩
  case lines =>
    obtain ⟨held, state⟩ := lines.appended loading taken fun e => not_clash_of_distinct
    exact ⟨⟨plan, defects, ⟨horizon, zero⟩, regions, darkModel, held, heater, adc0, adc1, allow, script⟩, state⟩
  case heaterCurve =>
    obtain ⟨held, state⟩ := heater.appended loading taken (CurvePoint.rising heater.pairs)
    exact ⟨⟨plan, defects, ⟨horizon, zero⟩, regions, darkModel, lines, held, adc0, adc1, allow, script⟩, state⟩
  case adcCurve0 =>
    obtain ⟨held, state⟩ := adc0.appended loading taken (CurvePoint.rising adc0.pairs)
    exact ⟨⟨plan, defects, ⟨horizon, zero⟩, regions, darkModel, lines, heater, held, adc1, allow, script⟩, state⟩
  case adcCurve1 =>
    obtain ⟨held, state⟩ := adc1.appended loading taken (CurvePoint.rising adc1.pairs)
    exact ⟨⟨plan, defects, ⟨horizon, zero⟩, regions, darkModel, lines, heater, adc0, held, allow, script⟩, state⟩
  case bridgeAllow =>
    obtain ⟨held, state⟩ := allow.appended loading taken fun e passes p member =>
      of_decide_eq_false (not_clash_of_distinct passes p member)
    exact ⟨⟨plan, defects, ⟨horizon, zero⟩, regions, darkModel, lines, heater, adc0, adc1, held, script⟩, state⟩
  case bridgeScript =>
    obtain ⟨held, state⟩ := script.appended loading taken fun _ _ _ _ => trivial
    exact ⟨⟨plan, defects, ⟨horizon, zero⟩, regions, darkModel, lines, heater, adc0, adc1, allow, held⟩, state⟩

theorem sound_appendEntries {n : TableName} (entries : List (List Byte)) : ∀ {done : Nat} {t : Tables}, Tables.Sound t →
    t.stateOf n = .loading → Tables.Sound (appendEntries n entries done t).tables := by
  induction entries with
  | nil => intro done t h _; exact h
  | cons b rest ih =>
    intro done t h loading
    unfold appendEntries
    split
    · rename_i t' joined
      obtain ⟨sound, still⟩ := sound_appendEntry h loading joined
      exact ih sound still
    · exact h

/-! ### What each request makes of the tables, the parameters and the settings -/

theorem answer_tables (r : Request) (st : Status) (p : List Byte) (s : State) : (answer r st p s).tables = s.tables := by
  obtain ⟨tables, -⟩ := fields_of_fixedPart (fixedPart_answer r st p s)
  exact tables

theorem sound_openTable (r : Request) {s : State} (h : Tables.Sound s.tables) : Tables.Sound (openTable r s).tables := by
  unfold openTable
  split
  · rwa [answer_tables]
  · rename_i n _
    split
    · rwa [answer_tables]
    · simp only
      rw [answer_tables]
      split <;> exact sound_opened h n

theorem sound_closeTable (r : Request) {s : State} (h : Tables.Sound s.tables) : Tables.Sound (closeTable r s).tables := by
  unfold closeTable
  split
  · rwa [answer_tables]
  · rename_i n _
    split
    · rwa [answer_tables]
    · simp only
      rw [answer_tables]
      split <;> exact sound_closed h n

theorem sound_appendTable (r : Request) {s : State} (h : Tables.Sound s.tables) : Tables.Sound (appendTable r s).tables := by
  unfold appendTable
  split
  · rwa [answer_tables]
  · split
    · rwa [answer_tables]
    · simp only
      split
      · rwa [answer_tables]
      · split
        · rwa [answer_tables]
        · split
          · rwa [answer_tables]
          · rename_i entries _ loading
            rw [answer_tables]
            exact sound_appendEntries entries h (not_not.mp loading)

/-- A value clamped to a range lies in it (R184). -/
theorem clampNat_range {lo hi : Nat} (v : Int) (le : lo ≤ hi) : lo ≤ clampNat lo hi v ∧ clampNat lo hi v ≤ hi := by
  unfold clampNat clampInt
  omega

theorem clampEven_range {lo hi : Nat} (v : Int) (le : lo ≤ hi) (even : lo % 2 = 0) :
    lo ≤ clampEven lo hi v ∧ clampEven lo hi v ≤ hi ∧ clampEven lo hi v % 2 = 0 := by
  have := clampNat_range v le
  unfold clampEven
  omega

theorem regAddrOf_fits {v : Int} {a : RegAddr} (h : regAddrOf v = some a) : a.fits = true := by
  simp only [regAddrOf, Option.map_eq_some_iff] at h
  obtain ⟨wide, -, rfl⟩ := h
  cases wide
  · simp [RegAddr.fits]
  · simp only [RegAddr.fits, if_true, decide_eq_true_eq]
    omega

/-- What PARAM_SET stores is in range (R184). -/
theorem inRange_store {p q : Params} (h : Params.InRange p) {n : Param} {v : Int} (stored : p.store n v = some q) :
    Params.InRange q := by
  cases n
  case strayForward | tempSource | heaterEnable =>
    obtain ⟨b, -, rfl⟩ := Option.map_eq_some_iff.mp stored
    exact { h with }
  case pollRegister =>
    obtain ⟨a, valid, rfl⟩ := Option.map_eq_some_iff.mp stored
    exact { h with pollRegister := regAddrOf_fits valid }
  case bridgeSpeed =>
    simp only [Params.store] at stored
    split at stored
    · rename_i speed
      cases stored
      rcases speed with rfl | rfl
      · exact { h with bridgeSpeed := .inl rfl }
      · exact { h with bridgeSpeed := .inr rfl }
    · cases stored
  all_goals cases stored
  case width => exact { h with width := clampEven_range v (by decide) rfl }
  case height => exact { h with height := clampEven_range v (by decide) rfl }
  case blackLevel => exact { h with blackLevel := (clampNat_range v (by decide)).2 }
  case satLevel => exact { h with satLevel := clampNat_range v (by decide) }
  case gapCols => exact { h with gapCols := (clampNat_range v (by decide)).2 }
  case segMin => exact { h with segMin := clampNat_range v (by decide) }
  case gapRows => exact { h with gapRows := (clampNat_range v (by decide)).2 }
  case margin => exact { h with margin := (clampNat_range v (by decide)).2 }
  case minExtent => exact { h with minExtent := clampNat_range v (by decide) }
  case pedestal => exact { h with pedestal := (clampNat_range v (by decide)).2 }
  case readoutTimeout => exact { h with readoutTimeout := clampNat_range v (by decide) }
  case maxExtension => exact { h with maxExtension := (clampNat_range v (by decide)).2 }
  case forwardDropLevel => exact { h with forwardDropLevel := clampNat_range v (by decide) }
  case autoPreview => exact { h with autoPreview := (clampNat_range v (by decide)).2 }
  case shutterSettle => exact { h with shutterSettle := (clampNat_range v (by decide)).2 }
  case pollDevice => exact { h with pollDevice := (clampNat_range v (by decide)).2 }
  case pollGain => exact { h with pollGain := by simp only [clampInt]; omega }
  case pollOffset => exact { h with pollOffset := by simp only [clampInt]; omega }
  case pollLead => exact { h with pollLead := clampNat_range v (by decide) }
  case reportMask => exact { h with }

theorem inRange_setParam (r : Request) {s : State} (h : Params.InRange s.params) : Params.InRange (setParam r s).params := by
  have kept : ∀ (st : Status) (p : List Byte) (u : State), (answer r st p u).params = u.params := by
    intro st p u
    obtain ⟨-, params, -⟩ := fields_of_fixedPart (fixedPart_answer r st p u)
    exact params
  have effects : ∀ (n : Param) (u : State), (paramEffects n u).params = u.params := by
    intro n u
    unfold paramEffects
    split
    case h_6 => split <;> rfl
    all_goals rfl
  unfold setParam
  simp only
  split
  · rwa [kept]
  · split
    · rwa [kept]
    · split
      · rwa [kept]
      · rename_i stored
        rw [kept, effects]
        exact inRange_store h stored

/-- TAKE_START records the parameters as they stand, where it is granted (R183). -/
theorem takeStart_settings (r : Request) (s : State) :
    (takeStart r s).settings = s.settings ∨ (takeStart r s).settings = recordSettings s.tables s.params := by
  have kept : ∀ (st : Status) (p : List Byte), fixedPart (answer r st p s) = fixedPart s := fun st p => fixedPart_answer r st p s
  have refused : ∀ (st : Status) (p : List Byte), (answer r st p s).settings = s.settings := by
    intro st p
    obtain ⟨-, -, settings, -⟩ := fields_of_fixedPart (kept st p)
    exact settings
  unfold takeStart
  split
  · exact .inl (refused _ _)
  · split
    · exact .inl (refused _ _)
    · split
      · exact .inl (refused _ _)
      · obtain ⟨tables, params, -⟩ := fields_of_fixedPart (kept .ok (startPayload s))
        unfold startTake
        obtain ⟨-, -, settings, -⟩ := fields_of_fixedPart (fixedPart_enterTake .clearing .none _)
        refine .inr (settings.trans ?_)
        rw [← tables, ← params]

/-! ### Every command -/

/-- The tables, parameters and settings at the end of an event are those of its effect. -/
theorem endEvent_setup (u : State) :
    (endEvent u).tables = u.tables ∧ (endEvent u).params = u.params ∧ (endEvent u).settings = u.settings := by
  obtain ⟨tables, params, settings, -⟩ := fields_of_fixedPart (fixedPart_of_stillPart (stillPart_endEvent u))
  exact ⟨tables, params, settings⟩

theorem endBoundary_setup (u : State) :
    (endBoundary u).tables = u.tables ∧ (endBoundary u).params = u.params ∧ (endBoundary u).settings = u.settings := by
  obtain ⟨tables, params, settings, -⟩ := fields_of_fixedPart (fixedPart_of_stillPart (stillPart_endBoundary u))
  exact ⟨tables, params, settings⟩

/-- A request in its length or refused for it. -/
theorem fixedLength_keeps {P : State → Prop} {n : Nat} {carry : Request → State → State} {r : Request} {s : State}
    (own : P (carry r s)) (refused : P (answer r .badLength [] s)) : P (fixedLength n carry r s) := by
  rcases fixedLength_cases n carry r s with e | e <;> rwa [e]

theorem Effect.tables_sound {c : Instr} {s u : State} (h : Effect c s u) (sound : Tables.Sound s.tables) : Tables.Sound u.tables := by
  by_cases table : c ∈ [.tableOpen, .tableAppend, .tableClose]
  · have taken : Tables.Sound (removeRequest s).tables := by rwa [removeRequest_frame]
    have refused : ∀ r st p, Tables.Sound (answer r st p (removeRequest s)).tables := fun r st p => by rwa [answer_tables]
    cases h with
    | taken m =>
      cases m
      case tableOpen => exact fixedLength_keeps (P := fun v => Tables.Sound v.tables) (sound_openTable _ taken) (refused _ _ _)
      case tableAppend => exact sound_appendTable _ taken
      case tableClose => exact fixedLength_keeps (P := fun v => Tables.Sound v.tables) (sound_closeTable _ taken) (refused _ _ _)
      all_goals exact absurd table (by decide)
    | _ => exact absurd table (by simp)
  · rw [h.changes.tables table]; exact sound

theorem Effect.params_inRange {c : Instr} {s u : State} (h : Effect c s u) (range : Params.InRange s.params) :
    Params.InRange u.params := by
  by_cases set : c = .paramSet
  · subst set
    have taken : Params.InRange (removeRequest s).params := by rwa [removeRequest_frame]
    cases h with
    | taken m =>
      cases m
      refine fixedLength_keeps (P := fun v => Params.InRange v.params) (inRange_setParam _ taken) ?_
      obtain ⟨-, params, -⟩ := fields_of_fixedPart (fixedPart_answer _ .badLength [] (removeRequest s))
      rwa [params]
  · rw [h.changes.params set]; exact range

/-- TAKE_START is the one event that records settings, those of the parameters as they stand (R183). -/
theorem Effect.settings_cases {c : Instr} {s u : State} (h : Effect c s u) :
    u.settings = s.settings ∨ u.settings = recordSettings s.tables s.params := by
  by_cases start : c = .takeStart
  · subst start
    cases h with
    | @taken _ _ _ _ r m =>
      cases m
      obtain ⟨tables, params, settings, -⟩ := fields_of_fixedPart (fixedPart_removeRequest s)
      rcases fixedLength_cases 0 takeStart r (removeRequest s) with e | e <;> rw [e]
      · rw [← settings, ← tables, ← params]; exact takeStart_settings r _
      · obtain ⟨-, -, same, -⟩ := fields_of_fixedPart (fixedPart_answer r .badLength [] (removeRequest s))
        exact .inl (same.trans settings)
  · exact .inl (h.changes.settings start)

/-- Width, height and margin of the parameters are what a take may record (R183). -/
theorem inRange_recordSettings {t : Tables} {p : Params} (range : Params.InRange p) :
    TakeSettings.InRange (recordSettings t p) := ⟨range.width, range.height, range.margin⟩

/-- Settles O8: each of the three changes by its own requests alone, whose checks and clamps are its rules. -/
theorem stepKeepsTablesAndParameters : Obligations.StepKeepsTablesAndParameters := by
  intro s t sound range stepped
  have reset : Params.InRange Params.reset := by constructor <;> decide
  have initial : TakeSettings.InRange TakeSettings.reset := by constructor <;> decide
  rcases step_cases stepped with rfl | ⟨c, rest, -, ran⟩
  · exact ⟨sound, range, id⟩
  · cases ran with
    | powerOn | resetN => exact ⟨tables_sound_reset, reset, fun _ => initial⟩
    | nothing | linkInLocked => exact ⟨sound, range, id⟩
    | @event _ _ u effect =>
      obtain ⟨tables, params, settings⟩ := endEvent_setup u
      rw [tables, params, settings]
      refine ⟨effect.tables_sound sound, effect.params_inRange range, fun recorded => ?_⟩
      rcases effect.settings_cases with e | e <;> rw [e]
      · exact recorded
      · exact inRange_recordSettings range
    | @boundary _ _ u effect =>
      obtain ⟨tables, params, settings⟩ := endBoundary_setup u
      obtain ⟨sameTables, sameParams, sameSettings, -⟩ := fields_of_fixedPart effect.fixedPart
      rw [tables, params, settings, sameTables, sameParams, sameSettings]
      exact ⟨sound, range, id⟩

end Sys2Proof.Machine
end

section
/-! PROOFS. The bounds of queues, lists and counters, and the memories (R15, R24, R51, R58, R86, R112, R121 to R125, R130, R154, R164, R166,
R167, R173; log 10): what each operation may do to them, event by event. -/

namespace Sys2Proof.Machine

/-! ### What the bus may do to the queues -/

/-- Arbitration and what it calls: the bridge, the script run, reports and free values, the Outgoing Packet Queue within its bound and
the Relay Queue no longer than it was. -/
structure BusWork (s t : State) : Prop where
  rest : busRest t = busRest s
  queue : s.out.queue.length ≤ Config.outQueueCapacity → t.out.queue.length ≤ Config.outQueueCapacity
  relays : t.bridge.relays.length ≤ s.bridge.relays.length
  silent : s.out.locked = false → t.out.queue = s.out.queue

theorem BusWork.refl (s : State) : BusWork s s := ⟨rfl, id, Nat.le_refl _, fun _ => rfl⟩

theorem BusWork.trans {s t u : State} (h : BusWork s t) (h' : BusWork t u) : BusWork s u :=
  ⟨h'.rest.trans h.rest, h'.queue ∘ h.queue, h'.relays.trans h.relays, fun unlocked => (h'.silent
    ((show (busRest t).out.locked = (busRest s).out.locked by rw [h.rest]).trans unlocked)).trans (h.silent unlocked)⟩

/-- The same with the last part first, from which the state between is read. -/
theorem BusWork.after {s t u : State} (h' : BusWork t u) (h : BusWork s t) : BusWork s u := h.trans h'

theorem busWork_queueReport (k : ReportKind) (p : List Byte) (s : State) : BusWork s (queueReport k p s) :=
  ⟨busRest_queueReport k p s, queueReport_bound, by rw [queueReport_frame], fun unlocked => by
    unfold queueReport formReport
    split
    · simp [unlocked]
    · rfl⟩

theorem busWork_reportClaimEnd (t : Transaction) (o : BusOutcome) (s : State) : BusWork s (reportClaimEnd t o s) := by
  unfold reportClaimEnd reportScriptEnd
  split
  · split
    · exact .refl s
    · exact busWork_queueReport _ _ s
  · exact .refl s

theorem busWork_handScripts (indices : List Nat) : ∀ s : State, BusWork s (handScripts indices s) := by
  induction indices with
  | nil => intro s; exact ⟨rfl, id, Nat.le_refl _, fun _ => rfl⟩
  | cons index rest ih =>
    intro s
    have reported : ∀ o, BusWork s (handScripts rest (reportScript s.seq.step index o 0 s)) := fun o =>
      (busWork_queueReport _ _ s).trans (ih _)
    unfold handScripts
    split
    · exact reported _
    · split
      · exact reported _
      · split
        · exact reported _
        · exact ⟨rfl, id, Nat.le_refl _, fun _ => rfl⟩

theorem length_onFirstRelay (hit : Relay → Bool) (f : Relay → Relay) (l : List Relay) : (onFirstRelay hit f l).length = l.length := by
  induction l with
  | nil => rfl
  | cons r rest ih =>
    unfold onFirstRelay
    split <;> simp [ih]

theorem busWork_endRelay (hit : Relay → Bool) (o : BusOutcome) (data : List Byte) (s : State) : BusWork s (endRelay hit o data s) := by
  refine ⟨rfl, id, ?_, fun _ => rfl⟩
  unfold endRelay
  simp only
  split
  · rw [length_onFirstRelay]
  · exact List.length_eraseP_le

theorem busWork_failRelays (s : State) : BusWork s (failRelays s) := by
  refine ⟨rfl, id, ?_, fun _ => rfl⟩
  unfold failRelays
  simp only
  split
  · rw [List.length_map]
  · exact List.length_filter_le _ _

theorem busWork_failWaiting (s : State) : BusWork s (failWaiting s) := by
  unfold failWaiting
  refine .trans ?_ (busWork_handScripts _ _)
  refine .trans ?_ (busWork_failRelays _)
  split
  · exact .after (busWork_reportClaimEnd _ _ _) ⟨rfl, id, Nat.le_refl _, fun _ => rfl⟩
  · exact ⟨rfl, id, Nat.le_refl _, fun _ => rfl⟩

theorem busWork_enterFault (t : Transaction) (s : State) : BusWork s (enterFault t s) := by
  unfold enterFault
  refine .trans ?_ (busWork_failWaiting _)
  refine .trans ?_ (busWork_queueReport _ _ _)
  exact .after (busWork_reportClaimEnd _ _ _) ⟨rfl, id, Nat.le_refl _, fun _ => rfl⟩

theorem busWork_startTransaction (t : Transaction) (s : State) : BusWork s (startTransaction t s) := by
  unfold startTransaction
  split
  · exact ⟨rfl, id, Nat.le_refl _, fun _ => rfl⟩
  · exact ⟨rfl, id, Nat.le_refl _, fun _ => rfl⟩
  · exact .after (busWork_enterFault _ _) ⟨rfl, id, Nat.le_refl _, fun _ => rfl⟩

theorem busWork_selectClaim (fuel : Nat) : ∀ s : State, BusWork s (selectClaim fuel s) := by
  induction fuel with
  | zero => exact .refl
  | succ fuel ih =>
    intro s
    unfold selectClaim
    split
    · exact .refl s
    split
    · simp only
      split
      · exact .after (busWork_startTransaction _ _) ⟨rfl, id, Nat.le_refl _, fun _ => rfl⟩
      · exact .after (ih _) ⟨rfl, id, Nat.le_refl _, fun _ => rfl⟩
    split
    · exact .refl s
    split
    · simp only
      split
      · exact .after (busWork_startTransaction _ _) ⟨rfl, id, Nat.le_refl _, fun _ => rfl⟩
      · refine .trans ?_ (ih _)
        exact .after (busWork_handScripts _ _) (.after (busWork_reportClaimEnd _ _ _) ⟨rfl, id, Nat.le_refl _, fun _ => rfl⟩)
    · split
      · exact .refl s
      · split
        · refine (busWork_startTransaction _ _).trans ⟨rfl, id, ?_, fun _ => rfl⟩
          exact Nat.le_of_eq (length_onFirstRelay _ _ _)
        · exact (busWork_endRelay _ _ _ s).trans (ih _)

theorem busWork_arbitrate (s : State) : BusWork s (arbitrate s) := busWork_selectClaim _ s

/-! ### What the phases, the plane and the render may do to what is bounded -/

/-- Everything that the work of the phases, the Plane Arbiter and the Render Unit may do to the queues, lists and counters with a
bound, to the row-visited map and to the packet in progress. The rest stays as it is. -/
structure Work (s t : State) : Prop where
  rest : workRest t = workRest s
  rowMap : t.link.rowMap = s.link.rowMap ∨ t.link.rowMap = []
  strays : t.link.strayCount = s.link.strayCount
  entries : t.fifo.entries = s.fifo.entries
  queue : s.out.queue.length ≤ Config.outQueueCapacity → t.out.queue.length ≤ Config.outQueueCapacity
  lane : t.out.locked = s.out.locked ∧ t.out.held = s.out.held ∧ t.out.rawRun = s.out.rawRun
  sent : t.out.sent = s.out.sent ∧ t.out.flowWaiting = s.out.flowWaiting
  progress : t.out.inProgress = s.out.inProgress ∨ t.out.inProgress = s.out.inProgress.map LanePacket.detach
  relays : t.bridge.relays.length ≤ s.bridge.relays.length
  ids : s.render.nextId ≤ 65535 ∧ s.render.frameId ≤ 65535 → t.render.nextId ≤ 65535 ∧ t.render.frameId ≤ 65535
  autoCount : t.seq.autoCount = s.seq.autoCount
  record : ∀ q ∈ t.log.openRecord, q.unattributed = 0 ∨ ∃ p ∈ s.log.openRecord, q.unattributed = p.unattributed
  counter : t.trails.counter = s.trails.counter ∨ t.trails.counter = 1

theorem LanePacket.detach_detach (p : LanePacket) : p.detach.detach = p.detach := by cases p <;> rfl

theorem Work.refl (s : State) : Work s s :=
  ⟨rfl, .inl rfl, rfl, rfl, id, ⟨rfl, rfl, rfl⟩, ⟨rfl, rfl⟩, .inl rfl, Nat.le_refl _, id, rfl, fun q h => .inr ⟨q, h, rfl⟩, .inl rfl⟩

theorem Work.trans {s t u : State} (h : Work s t) (h' : Work t u) : Work s u where
  rest := h'.rest.trans h.rest
  rowMap := by rcases h'.rowMap with e | e <;> rw [e] <;> simp [h.rowMap]
  strays := h'.strays.trans h.strays
  entries := h'.entries.trans h.entries
  queue := h'.queue ∘ h.queue
  lane := by
    obtain ⟨locked, held, run⟩ := h.lane
    obtain ⟨locked', held', run'⟩ := h'.lane
    exact ⟨locked'.trans locked, held'.trans held, run'.trans run⟩
  sent := ⟨h'.sent.1.trans h.sent.1, h'.sent.2.trans h.sent.2⟩
  progress := by
    have twice : LanePacket.detach ∘ LanePacket.detach = LanePacket.detach := funext LanePacket.detach_detach
    rcases h'.progress with e | e <;> rcases h.progress with e' | e' <;> simp [e, e', twice]
  relays := h'.relays.trans h.relays
  ids := h'.ids ∘ h.ids
  autoCount := h'.autoCount.trans h.autoCount
  record := by
    intro q opened
    rcases h'.record q opened with zero | ⟨p, earlier, same⟩
    · exact .inl zero
    · rcases h.record p earlier with zero | ⟨o, first, same'⟩
      · exact .inl (same.trans zero)
      · exact .inr ⟨o, first, same.trans same'⟩
  counter := by rcases h'.counter with e | e <;> rw [e] <;> simp [h.counter]

theorem Work.after {s t u : State} (h' : Work t u) (h : Work s t) : Work s u := h.trans h'

/-- Work on the bus. -/
theorem BusWork.work {s t : State} (h : BusWork s t) : Work s t where
  rest := workRest_of_phaseRest (phaseRest_of_busRest h.rest)
  rowMap := .inl (show (busRest t).link.rowMap = (busRest s).link.rowMap by rw [h.rest])
  strays := show (busRest t).link.strayCount = (busRest s).link.strayCount by rw [h.rest]
  entries := show (busRest t).fifo.entries = (busRest s).fifo.entries by rw [h.rest]
  queue := h.queue
  lane := ⟨show (busRest t).out.locked = (busRest s).out.locked by rw [h.rest],
    show (busRest t).out.held = (busRest s).out.held by rw [h.rest],
    show (busRest t).out.rawRun = (busRest s).out.rawRun by rw [h.rest]⟩
  sent := ⟨show (busRest t).out.sent = (busRest s).out.sent by rw [h.rest],
    show (busRest t).out.flowWaiting = (busRest s).out.flowWaiting by rw [h.rest]⟩
  progress := .inl (show (busRest t).out.inProgress = (busRest s).out.inProgress by rw [h.rest])
  relays := h.relays
  ids := by
    have same : t.render = s.render := show (busRest t).render = (busRest s).render by rw [h.rest]
    rw [same]; exact id
  autoCount := show (busRest t).seq.autoCount = (busRest s).seq.autoCount by rw [h.rest]
  record := by
    have same : t.log = s.log := show (busRest t).log = (busRest s).log by rw [h.rest]
    rw [same]; exact fun q opened => .inr ⟨q, opened, rfl⟩
  counter := .inl (show (busRest t).trails.counter = (busRest s).trails.counter by rw [h.rest])

theorem work_queueReport (k : ReportKind) (p : List Byte) (s : State) : Work s (queueReport k p s) := (busWork_queueReport k p s).work

theorem work_arbitrate (s : State) : Work s (arbitrate s) := (busWork_arbitrate s).work

/-- A change of the Sequencer that leaves the auto-preview counter, whatever the clock and the lines do. -/
theorem Work.of_seq {s : State} {q : Sequencer} (same : q.autoCount = s.seq.autoCount) : Work s { s with seq := q } :=
  { Work.refl s with autoCount := same }

/-- A change of the open record that leaves its unattributed count. -/
theorem work_onRecord {f : SubframeRecord → SubframeRecord} (kept : ∀ r, (f r).unattributed = r.unattributed) (s : State) :
    Work s (onRecord f s) :=
  { Work.refl s with
    record := by
      intro q opened
      obtain ⟨p, first, rfl⟩ := Option.map_eq_some_iff.mp opened
      exact .inr ⟨p, first, kept p⟩ }

theorem work_driveLines (s : State) : Work s (driveLines s) := { Work.refl s with rest := workRest_driveLines s }

theorem work_enterTake (t : TakeState) (p : Phase) (s : State) : Work s (enterTake t p s) :=
  .after (work_driveLines _) (.after (work_queueReport _ _ _) (.of_seq rfl))

theorem work_claimPoll (s : State) : Work s (claimPoll s) := by
  have withdrawn : Work s { s with seq.pollAt := none, bridge.waitingPoll := none } := { Work.refl s with }
  unfold claimPoll
  simp only
  split
  · exact withdrawn
  · split
    · exact withdrawn
    · exact Work.after (work_arbitrate _) { Work.refl s with }

theorem work_enterExpose (s : State) : Work s (enterExpose s) := by
  have poll : ∀ (exposure : Nat) (u : State), Work u (schedulePoll exposure u) := by
    intro exposure u
    unfold schedulePoll
    split
    · exact .of_seq rfl
    · split
      · exact work_claimPoll u
      · exact .of_seq rfl
  unfold enterExpose
  split
  · exact .refl s
  · refine .after (poll _ _) { Work.refl s with record := ?_ }
    intro q opened
    cases opened
    exact .inl rfl

theorem work_enterWait (s : State) : Work s (enterWait s) := by
  unfold enterWait
  split
  · exact .refl s
  · split
    · exact .of_seq rfl
    · split
      · exact .after (work_enterExpose _) (.of_seq rfl)
      · exact .of_seq rfl

theorem work_tryEndStepStart (s : State) : Work s (tryEndStepStart s) := by
  unfold tryEndStepStart
  split
  · exact work_enterWait s
  · exact .refl s

theorem work_enterStepStart (settles : Bool) (s : State) : Work s (enterStepStart settles s) := by
  unfold enterStepStart
  split
  · exact .refl s
  · refine .trans ?_ (work_tryEndStepStart _)
    refine .trans ?_ (work_arbitrate _)
    exact .after (busWork_handScripts _ _).work (.of_seq rfl)

theorem work_cancelWork (s : State) : Work s (cancelWork s) := { Work.refl s with }

theorem work_enterComplete (s : State) : Work s (enterComplete s) := .after (work_enterTake _ _ _) (.of_seq rfl)

theorem work_pauseTake (s : State) : Work s (pauseTake s) := by
  unfold pauseTake
  split
  · split
    · exact .after (work_enterTake _ _ _) { Work.refl s with }
    · exact (work_cancelWork s).trans (work_enterTake _ _ _)
    · exact .of_seq rfl
  · exact .refl s

theorem work_stopTake (s : State) : Work s (stopTake s) := by
  unfold stopTake
  split
  · split
    · exact (work_cancelWork s).trans (work_enterComplete _)
    · exact .of_seq rfl
  · exact work_enterComplete s
  · exact .refl s

theorem work_resumeTake (s : State) : Work s (resumeTake s) := by
  unfold resumeTake
  split
  · exact (work_enterTake _ _ s).trans (work_enterStepStart _ _)
  · exact (work_enterTake _ _ s).trans (work_enterWait _)

theorem work_releaseExposure (s : State) : Work s (releaseExposure s) := by
  have held : Work s (endHold s) := by
    unfold endHold
    split
    · refine work_onRecord ?_ s
      intro r; rfl
    · exact .refl s
  refine .after (work_onRecord ?_ _) (.after (.of_seq rfl) held)
  intro r; rfl

theorem work_decideExposure (lineTime : Nat) (s : State) : Work s (decideExposure lineTime s) := by
  have disarmed : ∀ u : State, Work u { u with meas.armed := false } := fun u => { Work.refl u with }
  unfold decideExposure
  simp only
  refine .trans ?_ (disarmed _)
  split
  · refine work_onRecord ?_ s
    intro r; rfl
  · refine work_onRecord ?_ s
    intro r; rfl

theorem work_openDetector (s : State) : Work s (openDetector s) := by
  unfold openDetector
  split
  · exact { Work.refl s with counter := .inr rfl }
  · exact .refl s

theorem work_openCursor (s : State) : Work s (openCursor s) := { Work.refl s with }

theorem work_grantIngest (s : State) : Work s (grantIngest s) := by
  unfold grantIngest
  refine .trans ?_ (work_openDetector _)
  refine .trans ?_ (work_openCursor _)
  exact .after { Work.refl (releaseExposure s) with rowMap := .inr rfl } (work_releaseExposure s)

theorem work_grantRender (s : State) : Work s (grantRender s) := { Work.refl s with }

theorem work_releasePlane (s : State) : Work s (releasePlane s) := by
  unfold releasePlane
  split
  · exact work_grantRender s
  · exact work_grantIngest s
  · exact { Work.refl s with }

/-- A render that is taken takes a frame id of two bytes (R130). -/
theorem work_openRender (k : RenderKind) (s : State) : Work s (openRender k s) :=
  { Work.refl s with
    ids := fun ⟨next, _⟩ => ⟨Nat.le_of_lt_succ (Nat.mod_lt _ (by decide)), next⟩ }

theorem work_takeRender (k : RenderKind) (s : State) : Work s (takeRender k s) := by
  unfold takeRender
  simp only
  split
  · exact (work_openRender k s).trans (work_grantRender _)
  · exact .after { Work.refl (openRender k s) with } (work_openRender k s)

theorem work_requestFinal (s : State) : Work s (requestFinal s) := by
  unfold requestFinal reportAbandoned
  split
  · exact work_takeRender _ s
  · exact .after (work_enterTake _ _ _) (.after (work_queueReport _ _ _) (work_openRender _ s))

theorem work_handHeldFinal (s : State) : Work s (handHeldFinal s) := by
  unfold handHeldFinal
  split
  · exact .after (work_requestFinal _) (.of_seq rfl)
  · exact .refl s

theorem work_afterAbandonment (final : Bool) (r : AbandonReason) (s : State) : Work s (afterAbandonment final r s) := by
  unfold afterAbandonment
  refine .trans ?_ (work_handHeldFinal _)
  split
  · exact work_enterTake _ _ s
  · exact .refl s

theorem work_withdrawFrame (r : AbandonReason) (s : State) : Work s (withdrawFrame r s) := { Work.refl s with progress := .inr rfl }

theorem work_abandonRender (r : AbandonReason) (s : State) : Work s (abandonRender r s) := by
  unfold abandonRender reportAbandoned
  split
  · exact .refl s
  · refine .trans ?_ (work_afterAbandonment _ _ _)
    exact Work.after (work_queueReport _ _ _) { Work.refl s with }
  · refine .trans ?_ (work_afterAbandonment _ _ _)
    refine .trans ?_ (work_releasePlane _)
    exact .after (work_queueReport _ _ _) (.after { Work.refl (withdrawFrame r s) with } (work_withdrawFrame r s))

theorem work_completeRender (s : State) : Work s (completeRender s) := by
  have released : ∀ u : State, Work s u → Work s (releasePlane { u with render.state := .idle }) := fun u before =>
    .after (work_releasePlane _) (.after { Work.refl u with } before)
  unfold completeRender
  simp only
  refine .trans ?_ (work_handHeldFinal _)
  split
  · exact .after (work_enterTake _ _ _) (released _ (.after (work_queueReport _ _ _) { Work.refl s with }))
  · exact released _ (.after (work_queueReport _ _ _) { Work.refl s with })

theorem work_enterFinishing (s : State) : Work s (enterFinishing s) := by
  unfold enterFinishing
  simp only
  split
  · exact (work_enterTake _ _ s).trans (work_requestFinal _)
  · exact .after (.of_seq rfl) (work_enterTake _ _ s)

theorem work_enterAborted (s : State) : Work s (enterAborted s) := by
  unfold enterAborted
  refine .trans ?_ (work_enterTake _ _ _)
  exact .after (.of_seq rfl) (.after (work_abandonRender .abort _) (.of_seq rfl))

theorem work_endFrame (s : State) : Work s (endFrame s) := by
  have closed : Work s (closeForwarded s) := by
    unfold closeForwarded
    split <;> exact { Work.refl s with }
  exact .after { Work.refl (closeForwarded s) with } closed

theorem work_endReadout (s : State) : Work s (endReadout s) := by
  unfold endReadout
  simp only
  refine .trans ?_ (work_arbitrate _)
  have left : ∀ u : State, Work u { u with link.lastRow := none, link.readout := none, seq.phase := .settle, seq.readoutTimer := none } :=
    fun u => { Work.refl u with }
  refine .after (left _) (.trans (work_endFrame s) ?_)
  split
  · exact work_decideExposure _ _
  · exact .refl _

theorem work_cutExposure (s : State) : Work s (cutExposure s) := by
  unfold cutExposure
  simp only
  refine .trans ?_ (work_openDetector _)
  have arb : ∀ u : State, Work u { u with arb.holder := .ingest } := fun u => { Work.refl u with }
  have released := (work_releaseExposure s).trans (work_decideExposure (s.now - s.seq.exposeStart) _)
  refine .trans ?_ (arb _)
  refine .trans ?_ (work_abandonRender _ _)
  exact .after { Work.refl (decideExposure (s.now - s.seq.exposeStart) (releaseExposure s)) with rowMap := .inr rfl } released

/-! ### The plane, the row-visited map and the packet in progress -/

/-- What an event that is not ingest's may do to them: the plane stays but for a CLEARING pass that is stopped or complete, the
row-visited map stays or is set back to UNSEEN, and the packet in progress stays, is detached from its render or is cut. -/
structure Kept (s t : State) : Prop where
  plane : t.plane = s.plane ∨ ((s.seq.takeState = .clearing ∨ s.arb.holder = .clearing)
    ∧ ∃ k, t.plane = Memory.restrict (fun a => decide (k ≤ a)) s.plane)
  rowMap : t.link.rowMap = s.link.rowMap ∨ t.link.rowMap = []
  progress : t.out.inProgress = none ∨ t.out.inProgress = s.out.inProgress
    ∨ t.out.inProgress = s.out.inProgress.map LanePacket.detach
  bounds : WithinBounds s → WithinBounds t
  locked : t.out.locked = s.out.locked

theorem Kept.refl (s : State) : Kept s s := ⟨.inl rfl, .inl rfl, .inr (.inl rfl), id, rfl⟩

/-- Work keeps what is bounded within its bounds. -/
theorem Work.bounds {s t : State} (w : Work s t) (b : WithinBounds s) : WithinBounds t := by
  have trails : (workRest t).trails = (workRest s).trails := by rw [w.rest]
  have opens : t.trails.openTrails = s.trails.openTrails := show (workRest t).trails.openTrails = _ by rw [trails]; rfl
  have boxes : t.trails.current.boxes = s.trails.current.boxes := show (workRest t).trails.current.boxes = _ by rw [trails]; rfl
  have previous : t.trails.previous = s.trails.previous := show (workRest t).trails.previous = _ by rw [trails]; rfl
  have queue : t.trails.queue = s.trails.queue := show (workRest t).trails.queue = _ by rw [trails]; rfl
  have requests : t.port.requests = s.port.requests := show (workRest t).port.requests = (workRest s).port.requests by rw [w.rest]
  have params : t.params = s.params := show (workRest t).params = (workRest s).params by rw [w.rest]
  have closed : t.log.closed = s.log.closed := show (workRest t).log.closed = (workRest s).log.closed by rw [w.rest]
  obtain ⟨_, _, run⟩ := w.lane
  exact {
    fifo := w.entries ▸ b.fifo
    outQueue := w.queue b.outQueue
    rawRun := run ▸ b.rawRun
    requests := requests ▸ b.requests
    relays := w.relays.trans b.relays
    openTrails := opens ▸ b.openTrails
    currentVeto := boxes ▸ b.currentVeto
    previousVeto := previous ▸ b.previousVeto
    trailQueue := queue ▸ b.trailQueue
    trailNumber := by
      rcases w.counter with e | e <;> rw [e]
      · exact b.trailNumber
      · decide
    strays := w.strays ▸ b.strays
    frameIds := w.ids b.frameIds
    autoCount := by rw [w.autoCount, params]; exact b.autoCount
    unattributed := by
      intro q held
      rcases List.mem_append.mp held with old | new
      · exact b.unattributed q (List.mem_append_left _ (closed ▸ old))
      · rcases w.record q (Option.mem_toList.mp new) with zero | ⟨p, opened, same⟩
        · rw [zero]; decide
        · rw [same]; exact b.unattributed p (List.mem_append_right _ (Option.mem_toList.mpr opened)) }

/-- What follows as work of the phases, the plane and the render. -/
theorem Kept.work {s t u : State} (h : Kept s t) (w : Work t u) : Kept s u where
  plane := by
    have same : u.plane = t.plane := show (workRest u).plane = (workRest t).plane by rw [w.rest]
    rw [same]; exact h.plane
  rowMap := by rcases w.rowMap with e | e <;> rw [e] <;> simp [h.rowMap]
  progress := by
    have twice : LanePacket.detach ∘ LanePacket.detach = LanePacket.detach := funext LanePacket.detach_detach
    rcases w.progress with e | e <;> rcases h.progress with e' | e' | e' <;> simp [e, e', twice]
  bounds := w.bounds ∘ h.bounds
  locked := w.lane.1.trans h.locked

/-- What follows, the intermediate state read from the goal. -/
theorem Work.keeps {s t u : State} (w : Work t u) (h : Kept s t) : Kept s u := h.work w

theorem Work.kept {s t : State} (w : Work s t) : Kept s t := (Kept.refl s).work w

/-- From a state that agrees in all that is looked at. -/
theorem Kept.from {s s' t : State} (plane : s'.plane = s.plane) (map : s'.link.rowMap = s.link.rowMap)
    (progress : s'.out.inProgress = s.out.inProgress) (take : s'.seq.takeState = s.seq.takeState)
    (holder : s'.arb.holder = s.arb.holder) (bounds : WithinBounds s → WithinBounds s')
    (locked : s'.out.locked = s.out.locked) (h : Kept s' t) : Kept s t := by
  obtain ⟨p, m, q, b, l⟩ := h
  exact ⟨by rwa [plane, take, holder] at p, by rwa [map] at m, by rwa [progress] at q, b ∘ bounds, l.trans locked⟩

theorem handFlow_inProgress (f : FlowSymbol) (s : State) : (handFlow f s).out.inProgress = s.out.inProgress := by
  rw [handFlow_frame]

theorem removeRequest_inProgress (s : State) : (removeRequest s).out.inProgress = s.out.inProgress := by
  unfold removeRequest markGo
  split
  · exact handFlow_inProgress _ _
  · rfl

theorem handFlow_bounds (f : FlowSymbol) {s : State} (b : WithinBounds s) : WithinBounds (handFlow f s) := by
  rw [handFlow_frame]; exact { b with }

theorem removeRequest_bounds (s : State) (b : WithinBounds s) : WithinBounds (removeRequest s) := by
  have taken : WithinBounds { s with port.requests := s.port.requests.tail } :=
    { b with requests := (by rw [List.length_tail]; exact Nat.sub_le _ _ : _ ≤ s.port.requests.length).trans b.requests }
  unfold removeRequest markGo
  split
  · exact handFlow_bounds _ { taken with }
  · exact taken

/-- A taking. -/
theorem Kept.taken {s t : State} (h : Kept (removeRequest s) t) : Kept s t :=
  h.from (by rw [removeRequest_frame]) (by rw [removeRequest_frame]) (removeRequest_inProgress s) (by rw [removeRequest_frame])
    (by rw [removeRequest_frame]) (removeRequest_bounds s) (removeRequest_locked s)

theorem work_joinReply (p : QueuedPacket) (s : State) : Work s (joinReply p s) := by
  unfold joinReply
  split
  · rename_i room
    refine { Work.refl s with queue := fun _ => ?_ }
    have room := of_decide_eq_true (Bool.and_eq_true_iff.mp room).2
    simpa using room
  · exact .refl s

theorem work_answer (r : Request) (st : Status) (p : List Byte) (s : State) : Work s (answer r st p s) := work_joinReply _ s

theorem work_acceptRender (k : RenderKind) (r : Request) (s : State) : Work s (acceptRender k r s) :=
  (work_answer r _ _ s).trans (work_takeRender k _)

theorem work_renderRequests (r : Request) (s : State) : Work s (renderPreview r s) ∧ Work s (renderRepeat r s) := by
  constructor
  · unfold renderPreview
    split
    case h_5 =>
      split
      · exact work_acceptRender _ _ s
      · exact work_answer _ _ _ s
    all_goals exact work_answer _ _ _ s
  · unfold renderRepeat
    split
    case h_2 =>
      split
      · exact work_acceptRender _ _ s
      · exact work_answer _ _ _ s
    all_goals exact work_answer _ _ _ s

theorem work_finishTake (s : State) : Work s (finishTake s) := by
  unfold finishTake
  split
  · split
    · exact .after (work_enterFinishing _) (.after (work_enterComplete _) (work_cancelWork s))
    · exact .of_seq rfl
  · exact .after (work_enterFinishing _) (work_enterComplete s)
  · exact work_enterFinishing s
  · exact .refl s

theorem work_takeCommands (r : Request) (s : State) : Work s (takePause r s) ∧ Work s (takeResume r s) ∧ Work s (takeStop r s)
    ∧ Work s (takeFinish r s) := by
  refine ⟨?_, ?_, ?_, ?_⟩
  · exact .after (work_pauseTake _) (work_answer _ _ _ s)
  · unfold takeResume
    split
    · exact .after (work_resumeTake _) (work_answer _ _ _ s)
    · exact work_answer _ _ _ s
  · exact .after (work_stopTake _) (work_answer _ _ _ s)
  · exact .after (work_finishTake _) (work_answer _ _ _ s)

/-- TAKE_ABORT is such work, but that in CLEARING the pass is stopped first (R21, R88). -/
theorem abortTake_work (s : State) : Work s (abortTake s)
    ∨ s.seq.takeState = .clearing ∧ abortTake s = enterAborted (stopClearing s) := by
  unfold abortTake
  split
  · exact .inl (.refl s)
  · exact .inl (.refl s)
  · rename_i clearing; exact .inr ⟨clearing, rfl⟩
  · refine .inl ?_
    split
    · exact .after (work_enterAborted _) (work_cancelWork s)
    · exact .after (work_enterAborted _) (work_cancelWork s)
    · exact work_cutExposure s
    · exact work_cutExposure s
    · exact .after (.of_seq rfl) (work_endReadout s)
    · exact .of_seq rfl
  · exact .inl (work_enterAborted s)

theorem kept_takeAbort (r : Request) (s : State) : Kept s (takeAbort r s) := by
  have replied := work_answer r (abortStatus s) [] s
  have frame := joinReply_frame (.reply r.tag r.kind (abortStatus s) []) s
  have same : (answer r (abortStatus s) [] s).plane = s.plane := by
    change (joinReply _ s).plane = _; rw [frame]
  rcases abortTake_work (answer r (abortStatus s) [] s) with work | ⟨clearing, e⟩
  · exact (replied.trans work).kept
  · have take : s.seq.takeState = .clearing := by
      rw [← clearing]; change _ = (joinReply _ s).seq.takeState; rw [frame]
    unfold takeAbort
    rw [e]
    refine (work_enterAborted _).keeps ⟨.inr ⟨.inl take,
      min (Config.clearedRecords (answer r (abortStatus s) [] s).freeSeq)
        ((answer r (abortStatus s) [] s).settings.width * (answer r (abortStatus s) [] s).settings.height), ?_⟩, replied.kept.rowMap, replied.kept.progress,
      fun b => { replied.bounds b with }, replied.kept.locked⟩
    rw [← same]
    rfl

theorem work_presentRelay_kept (r : Request) (device : Nat) (reg : RegAddr) (access : BusAccess) (s : State) :
    Kept s (presentRelay r device reg access s) := by
  unfold presentRelay
  split
  · exact (work_answer _ _ _ s).kept
  · split
    · exact (work_answer _ _ _ s).kept
    · split
      · exact (work_answer _ _ _ s).kept
      · rename_i room
        refine (work_tryEndStepStart _).keeps ((work_arbitrate _).keeps ⟨.inl rfl, .inl rfl, .inr (.inl rfl), fun b => ?_, rfl⟩)
        have short : s.bridge.relays.length < 4 := Nat.lt_of_not_le room
        exact { b with relays := by simpa using short }

theorem kept_bridgeRequests (r : Request) (s : State) : Kept s (bridgeWrite r s) ∧ Kept s (bridgeRead r s) := by
  constructor
  · unfold bridgeWrite
    split
    · exact (work_answer _ _ _ s).kept
    · split
      · exact (work_answer _ _ _ s).kept
      · split
        · exact (work_answer _ _ _ s).kept
        · split
          · exact (work_answer _ _ _ s).kept
          · exact work_presentRelay_kept _ _ _ _ s
  · unfold bridgeRead
    split
    · exact (work_answer _ _ _ s).kept
    · split
      · exact (work_answer _ _ _ s).kept
      · exact work_presentRelay_kept _ _ _ _ s

theorem kept_bridgeRecover (r : Request) (s : State) : Kept s (bridgeRecover r s) := by
  unfold bridgeRecover
  split
  · unfold askTrain
    split <;> exact ⟨.inl rfl, .inl rfl, .inr (.inl rfl), fun b => { b with }, rfl⟩
  · exact (work_answer _ _ _ s).kept

theorem kept_tableRequests (r : Request) (s : State) :
    Kept s (openTable r s) ∧ Kept s (appendTable r s) ∧ Kept s (closeTable r s) := by
  have refused : ∀ st, Kept s (answer r st [] s) := fun st => (work_answer r st [] s).kept
  refine ⟨?_, ?_, ?_⟩
  · unfold openTable
    split
    · exact refused _
    · split
      · exact refused _
      · refine Kept.work ?_ (work_answer _ _ _ _)
        split <;> exact ⟨.inl rfl, .inl rfl, .inr (.inl rfl), fun b => { b with }, rfl⟩
  · unfold appendTable
    split
    · exact refused _
    · split
      · exact refused _
      · simp only
        split
        · exact refused _
        · split
          · exact refused _
          · split
            · exact refused _
            · refine Kept.work ?_ (work_answer _ _ _ _)
              exact ⟨.inl rfl, .inl rfl, .inr (.inl rfl), fun b => { b with }, rfl⟩
  · unfold closeTable
    split
    · exact refused _
    · split
      · exact refused _
      · refine Kept.work ?_ (work_answer _ _ _ _)
        split <;> exact ⟨.inl rfl, .inl rfl, .inr (.inl rfl), fun b => { b with }, rfl⟩

/-- Only a PARAM_SET of auto-preview stores it. -/
theorem store_autoPreview {p p' : Params} {n : Param} {v : Int} (stored : p.store n v = some p') (other : n ≠ .autoPreview) :
    p'.autoPreview = p.autoPreview := by
  unfold Params.store at stored
  cases n
  case autoPreview => exact absurd rfl other
  case strayForward | tempSource | pollRegister | heaterEnable =>
    obtain ⟨_, _, rfl⟩ := Option.map_eq_some_iff.mp stored; rfl
  case bridgeSpeed =>
    dsimp only at stored
    split at stored <;> cases stored
    rfl
  all_goals cases stored; rfl

/-- What a PARAM_SET stores, and its side effect, keep the bounds: of auto-preview the counter starts again (R15). -/
theorem kept_paramEffects {p : Params} {n : Param} {v : Int} {s : State} (stored : s.params.store n v = some p) :
    Kept s (paramEffects n { s with params := p }) := by
  have other : n ≠ .autoPreview → Kept s { s with params := p } := fun ne =>
    ⟨.inl rfl, .inl rfl, .inr (.inl rfl), fun b => { b with autoCount := (store_autoPreview stored ne).symm ▸ b.autoCount }, rfl⟩
  unfold paramEffects
  split
  · exact ⟨.inl rfl, .inl rfl, .inr (.inl rfl), fun b => { b with autoCount := .inl rfl }, rfl⟩
  case h_6 =>
    obtain ⟨plane, map, progress, bounds, locked⟩ := other nofun
    split
    · exact ⟨plane, map, progress, bounds, locked⟩
    · exact ⟨plane, map, progress, fun b => { bounds b with trailQueue := Nat.zero_le _ }, locked⟩
  case h_7 => exact other ‹_›
  all_goals
    obtain ⟨plane, map, progress, bounds, locked⟩ := other nofun
    exact ⟨plane, map, progress, fun b => { bounds b with }, locked⟩

theorem kept_setParam (r : Request) (s : State) : Kept s (setParam r s) := by
  have refused : ∀ st, Kept s (answer r st [] s) := fun st => (work_answer r st [] s).kept
  unfold setParam
  simp only
  split
  · exact refused _
  · split
    · exact refused _
    · split
      · exact refused _
      · rename_i stored
        exact (work_answer _ _ _ _).keeps (kept_paramEffects stored)

theorem kept_startTake {s u : State} (h : Kept s u) : Kept s (startTake u) := by
  unfold startTake
  exact (work_enterTake _ _ _).keeps ⟨h.plane, h.rowMap, h.progress, fun b =>
    { h.bounds b with
      currentVeto := Nat.zero_le _, previousVeto := Nat.zero_le _, trailQueue := Nat.zero_le _, autoCount := .inl rfl,
      unattributed := fun _ held => absurd held List.not_mem_nil }, h.locked⟩

theorem kept_takeStart (r : Request) (s : State) : Kept s (takeStart r s) := by
  unfold takeStart
  split
  · exact (work_answer _ _ _ s).kept
  · split
    · exact (work_answer _ _ _ s).kept
    · split
      · exact (work_answer _ _ _ s).kept
      · exact kept_startTake (work_answer _ _ _ s).kept

theorem kept_clearTake {s u : State} (h : Kept s u) : Kept s (clearTake u) := by
  unfold clearTake
  exact (work_enterTake _ _ _).keeps ⟨h.plane, h.rowMap, h.progress, fun b => { h.bounds b with unattributed := fun _ held => absurd held List.not_mem_nil },
    h.locked⟩

theorem kept_takeClear (r : Request) (s : State) : Kept s (takeClear r s) := by
  unfold takeClear
  split
  · exact (work_answer _ _ _ s).kept
  · split
    · exact (work_answer _ _ _ s).kept
    · exact kept_clearTake (work_answer _ _ _ s).kept

/-- The requests that only answer. -/
theorem work_readRequests (r : Request) (s : State) : Work s (readTable r s) ∧ Work s (getParam r s) ∧ Work s (readLog r s)
    ∧ Work s (readStatus r s) ∧ Work s (readLines r s) := by
  refine ⟨?_, ?_, ?_, work_answer _ _ _ s, work_answer _ _ _ s⟩
  · unfold readTable
    split
    · exact work_answer _ _ _ s
    · simp only
      split <;> exact work_answer _ _ _ s
  · unfold getParam
    simp only
    split <;> exact work_answer _ _ _ s
  · unfold readLog
    simp only
    split <;> exact work_answer _ _ _ s

theorem kept_setLineLevel (r : Request) (s : State) : Kept s (setLineLevel r s) := by
  unfold setLineLevel
  split
  · split
    · refine Kept.work ?_ (work_answer _ _ _ _)
      exact ⟨.inl rfl, .inl rfl, .inr (.inl rfl), fun b => { b with }, rfl⟩
    · exact (work_answer _ _ _ s).kept
  · exact (work_answer _ _ _ s).kept

theorem kept_of_meaning {c : Instr} {n : Nat} {carry : Request → State → State} (m : Meaning c n carry) (r : Request) (s : State) :
    Kept s (carry r s) := by
  have length : ∀ {k : Nat} {own : Request → State → State}, Kept s (own r s) → Kept s (fixedLength k own r s) := fun h =>
    fixedLength_keeps h (work_answer _ _ _ s).kept
  obtain ⟨table, get, log, status, lines⟩ := work_readRequests r s
  obtain ⟨pause, resume, stop, finish⟩ := work_takeCommands r s
  obtain ⟨preview, again⟩ := work_renderRequests r s
  obtain ⟨write, read⟩ := kept_bridgeRequests r s
  obtain ⟨opens, appends, closes⟩ := kept_tableRequests r s
  cases m with
  | tableOpen => exact length opens
  | tableAppend => exact appends
  | tableClose => exact length closes
  | tableRead => exact length table.kept
  | paramSet => exact length (kept_setParam r s)
  | paramGet => exact length get.kept
  | takeStart => exact length (kept_takeStart r s)
  | takePause => exact length pause.kept
  | takeResume => exact length resume.kept
  | takeStop => exact length stop.kept
  | takeFinish => exact length finish.kept
  | takeAbort => exact length (kept_takeAbort r s)
  | takeClear => exact length (kept_takeClear r s)
  | renderPreview => exact length preview.kept
  | renderRepeat => exact length again.kept
  | logRead => exact length log.kept
  | statusRead => exact length status.kept
  | bridgeWrite => exact write
  | bridgeRead => exact length read
  | bridgeRecover => exact length (kept_bridgeRecover r s)
  | lineLevel => exact length (kept_setLineLevel r s)
  | lineRead => exact length lines.kept

/-! ### A LINE, up to the end of a readout it may be -/

/-- What a LINE leaves before it may end the readout: all but the row-visited map, the last row, the forwarding, the Line FIFO and the
open record (R49, R51 to R53, R62). -/
def lineRest (s : State) : State :=
  { s with
    link.rowMap := [], link.lastRow := none, link.forwarding := .no, fifo.entries := [], fifo.frames := [], fifo.nextEntry := 0,
    log.openRecord := none }

/-- The Line FIFO and the receiver forward nothing: no frame, no PENDING entry, no frame in progress that is forwarded. -/
structure ForwardsNothing (s : State) : Prop where
  frames : s.fifo.frames = []
  entries : ∀ e ∈ s.fifo.entries, e.forward ≠ .pending
  forwarding : ∀ n, s.link.forwarding ≠ .frame n

/-- What it may do to those. -/
structure Lined (s t : State) : Prop where
  rest : lineRest t = lineRest s
  rowMap : Memory.wf RowState.unseen s.link.rowMap = true → Memory.wf RowState.unseen t.link.rowMap = true
  entries : s.fifo.entries.length ≤ Config.fifoCapacity → t.fifo.entries.length ≤ Config.fifoCapacity
  record : t.log.openRecord.map (fun q => (q.unattributed, q.kind)) = s.log.openRecord.map fun q => (q.unattributed, q.kind)
  quiet : ForwardsNothing s → ForwardsNothing t

theorem Lined.refl (s : State) : Lined s s := ⟨rfl, id, id, rfl, id⟩

theorem Lined.trans {s t u : State} (h : Lined s t) (h' : Lined t u) : Lined s u :=
  ⟨h'.rest.trans h.rest, h'.rowMap ∘ h.rowMap, h'.entries ∘ h.entries, h'.record.trans h.record, h'.quiet ∘ h.quiet⟩

theorem Lined.after {s t u : State} (h' : Lined t u) (h : Lined s t) : Lined s u := h.trans h'

theorem lined_onRecord {f : SubframeRecord → SubframeRecord} (kept : ∀ r, ((f r).unattributed, (f r).kind) = (r.unattributed, r.kind)) (s : State) :
    Lined s (onRecord f s) where
  rest := rfl
  rowMap := id
  entries := id
  record := by
    change (s.log.openRecord.map f).map _ = _
    rw [Option.map_map]
    exact Option.map_congr fun r _ => kept r
  quiet h := ⟨h.frames, h.entries, h.forwarding⟩

theorem lined_loseRow (s : State) : Lined s (loseRow s) := by
  refine lined_onRecord ?_ s
  intro r; rfl

theorem lined_countExtra (s : State) : Lined s (countExtra s) := by
  refine lined_onRecord ?_ s
  intro r; rfl

theorem lined_setRow (row : Nat) (r : RowState) (s : State) : Lined s (setRow row r s) :=
  ⟨rfl, fun wf => Memory.wf_write wf row r, id, rfl, fun h => ⟨h.frames, h.entries, h.forwarding⟩⟩

theorem length_freeEntries (s : State) : (freeEntries s).fifo.entries.length ≤ s.fifo.entries.length :=
  (List.dropWhile_sublist _).length_le

/-- What is freed forwards nothing that was not forwarded. -/
theorem ForwardsNothing.free {s : State} (h : ForwardsNothing s) : ForwardsNothing (freeEntries s) :=
  ⟨h.frames, fun e kept => h.entries e ((List.dropWhile_sublist _).subset kept), h.forwarding⟩

theorem length_dropForwarding (s : State) : (dropForwarding s).fifo.entries.length = s.fifo.entries.length := by
  unfold dropForwarding
  simp only
  split
  · simp
  · rfl

/-- Where nothing is PENDING the drop level drops nothing (R62). -/
theorem dropForwarding_of_quiet {s : State} (h : ∀ e ∈ s.fifo.entries, e.forward ≠ .pending) : dropForwarding s = s := by
  have none : s.fifo.entries.any (fun e => decide (e.forward = .pending)) = false := by
    rw [List.any_eq_false]
    intro e held
    simpa using h e held
  unfold dropForwarding
  simp [none]

theorem lineRest_dropForwarding (s : State) : lineRest (dropForwarding s) = lineRest s := by
  unfold dropForwarding
  simp only
  split <;> rfl

/-- What the drop level leaves (R62). -/
theorem dropForwarding_keeps (s : State) :
    (dropForwarding s).link.rowMap = s.link.rowMap ∧ (dropForwarding s).log = s.log := by
  unfold dropForwarding
  simp only
  split <;> exact ⟨rfl, rfl⟩

theorem lined_pushEntry {s : State} (row : Nat) (pixels : Option (List Nat)) (cls : LineClass) (room : fifoHasRoom s = true) :
    Lined s (pushEntry row pixels cls s) where
  rest := lineRest_dropForwarding _
  rowMap wf := by
    have same : (pushEntry row pixels cls s).link.rowMap = s.link.rowMap := (dropForwarding_keeps _).1
    rwa [same]
  entries _ := by
    have short : s.fifo.entries.length < Config.fifoCapacity := of_decide_eq_true room
    refine (length_freeEntries _).trans ?_
    rw [length_dropForwarding]
    simpa using short
  record := by
    have same : (pushEntry row pixels cls s).log = s.log := (dropForwarding_keeps _).2
    rw [same]
  quiet h := by
    have joined : ForwardsNothing { s with
        fifo.entries := s.fifo.entries ++ [lineEntry row pixels cls s], fifo.nextEntry := s.fifo.nextEntry + 1 } := by
      refine ⟨h.frames, ?_, h.forwarding⟩
      intro e held
      rcases List.mem_append.mp held with old | new
      · exact h.entries e old
      · obtain rfl := List.mem_singleton.mp new
        cases forwarding : s.link.forwarding with
        | frame n => exact absurd forwarding (h.forwarding n)
        | _ => simp [lineEntry, forwarding]
    rw [pushEntry_eq, ← freeEntries_dropForwarding, dropForwarding_of_quiet joined.entries]
    exact joined.free

theorem lined_skipped (rows : List Nat) : ∀ s : State, Lined s (rows.foldl skipRow s) := by
  induction rows with
  | nil => intro s; exact .refl s
  | cons row rest ih => intro s; exact ((lined_loseRow s).trans (lined_setRow row .lost _)).trans (ih _)

theorem lined_placeRow (row : Nat) (pixels : Option (List Nat)) (s : State) : Lined s (placeRow row pixels s) := by
  unfold placeRow
  split
  · rename_i room
    exact (lined_setRow row .queued s).trans (lined_pushEntry row pixels .subframe (by exact room))
  · cases pixels with
    | some _ => exact (lined_setRow row .lost s).trans (lined_loseRow _)
    | none => exact lined_setRow row .lost s

/-- A LINE settles no more than that, and in the subframe frame it may then end the readout (R52). -/
def LineTaken (s t : State) : Prop := ∃ u, Lined s u ∧ (t = u ∨ s.link.frame = .subframe ∧ t = endReadout u)

theorem settleRow_taken {s u : State} (frame : s.link.frame = .subframe) (before : Lined s u) (row : Nat) (pixels : Option (List Nat)) :
    LineTaken s (settleRow row pixels u) := by
  have placed : Lined s { placeRow row pixels u with link.lastRow := some row } := by
    obtain ⟨rest, map, entries, record, quiet⟩ := before.trans (lined_placeRow row pixels u)
    exact ⟨rest, map, entries, record, fun h => ⟨(quiet h).frames, (quiet h).entries, (quiet h).forwarding⟩⟩
  unfold settleRow
  simp only
  split
  · exact ⟨_, placed, .inr ⟨frame, rfl⟩⟩
  · exact ⟨_, placed, .inl rfl⟩

theorem takeLine_taken (row : Half) (words : List Half) (crc : Option Half) (s : State) : LineTaken s (takeLine row words crc s) := by
  have itself : ∀ u, Lined s u → LineTaken s u := fun u lined => ⟨u, lined, .inl rfl⟩
  unfold takeLine
  simp only
  split
  · unfold looseLine
    split
    · exact itself _ (lined_countExtra s)
    · exact itself _ (.refl s)
  · unfold strayLine
    split
    · rename_i joins
      exact itself _ (lined_pushEntry _ _ _ (Bool.and_eq_true_iff.mp joins).2)
    · exact itself _ (.refl s)
  · rename_i frame
    unfold subframeLine
    split
    · exact settleRow_taken frame (lined_loseRow s) _ _
    · split
      · exact itself _ (lined_countExtra s)
      · simp only
        split
        · exact settleRow_taken frame ((lined_skipped _ s).trans (lined_loseRow _)) _ _
        · exact settleRow_taken frame (lined_skipped _ s) _ _

/-! ### Every event but a LINE, ingest and the close of a subframe keeps them -/

/-- A change that leaves what is looked at, and the bounds. -/
theorem Kept.same {s t u : State} (h : Kept s t) (plane : u.plane = t.plane)
    (map : u.link.rowMap = t.link.rowMap ∨ u.link.rowMap = []) (progress : u.out.inProgress = t.out.inProgress ∨ u.out.inProgress = none)
    (bounds : WithinBounds t → WithinBounds u) (locked : u.out.locked = t.out.locked := by rfl) : Kept s u where
  plane := plane ▸ h.plane
  rowMap := by rcases map with e | e <;> rw [e] <;> simp [h.rowMap]
  progress := by rcases progress with e | e <;> rw [e] <;> simp [h.progress]
  bounds := bounds ∘ h.bounds
  locked := locked.trans h.locked

/-- The same from the state before. -/
theorem Kept.change {s u : State} (plane : u.plane = s.plane) (map : u.link.rowMap = s.link.rowMap ∨ u.link.rowMap = [])
    (progress : u.out.inProgress = s.out.inProgress ∨ u.out.inProgress = none) (bounds : WithinBounds s → WithinBounds u)
    (locked : u.out.locked = s.out.locked := by rfl) : Kept s u := (Kept.refl s).same plane map progress bounds locked

section
variable {s : State}

theorem kept_arrival {r : Request} (room : s.port.requests.length < 8) :
    Kept s (markHold { s with port.requests := s.port.requests ++ [r] }) := by
  have joined : Kept s { s with port.requests := s.port.requests ++ [r] } :=
    .change rfl (.inl rfl) (.inl rfl) fun b => { b with requests := by simpa using room }
  unfold markHold
  split
  · exact joined.same (by rw [handFlow_frame]) (.inl (by rw [handFlow_frame])) (.inl (handFlow_inProgress _ _))
      (fun b => handFlow_bounds _ { b with }) (by rw [handFlow_frame])
  · exact joined

theorem kept_endTrain (speed : Nat) (high : Bool) (s : State) : Kept s (endTrain speed high s) := by
  have answered : ∀ u : State, Kept s u → Kept s (answerTrain high u) := by
    intro u before
    unfold answerTrain
    split
    · split
      · exact (work_joinReply _ _).keeps (before.same rfl (.inl rfl) (.inl rfl) fun b => { b with })
      · exact before.same rfl (.inl rfl) (.inl rfl) fun b => { b with }
    · exact before
  unfold endTrain
  dsimp only
  split
  · exact answered _ (.change rfl (.inl rfl) (.inl rfl) fun b => { b with })
  · exact .change rfl (.inl rfl) (.inl rfl) fun b => { b with }

theorem work_openForwarded (counter : Half) (s : State) : Work s (openForwarded counter s) := by
  unfold openForwarded
  split <;> exact { Work.refl s with }

theorem kept_beginStray {t : State} (counter : Half) (h : Kept s t) : Kept s (beginStray counter t) := by
  have begun : Kept s { t with
      link.frame := .stray, link.strayCount := (t.link.strayCount + 1) % 65536, link.forwarding := .no } :=
    h.same rfl (.inl rfl) (.inl rfl) fun b => { b with strays := Nat.le_of_lt_succ (Nat.mod_lt _ (by decide)) }
  unfold beginStray
  simp only
  split
  · exact (work_openForwarded counter _).keeps begun
  · exact begun

theorem kept_computeScale {t : State} (h : Kept s t) : Kept s (computeScale t) := by
  unfold computeScale
  split
  · exact h
  · refine (work_onRecord ?_ _).keeps (h.same rfl (.inl rfl) (.inl rfl) fun b => { b with })
    intro q; rfl

theorem kept_beginSubframe {t : State} (counter : Half) (r : Readout) (h : Kept s t) : Kept s (beginSubframe counter r t) := by
  have begun : Kept s (onRecord (fun q => { q with frameCounter := some counter })
      { t with link.frame := .subframe, link.lastRow := none, link.readout := some { r with seenFrame := true } }) := by
    refine (work_onRecord ?_ _).keeps (h.same rfl (.inl rfl) (.inl rfl) fun b => { b with })
    intro q; rfl
  have lit : ∀ u : State, Kept s u → Kept s (lightFrameStart u) := by
    intro u before
    unfold lightFrameStart
    refine kept_computeScale ?_
    split
    · exact (work_decideExposure _ _).keeps before
    · exact before
  unfold beginSubframe
  simp only
  split
  · refine (work_openForwarded counter _).keeps ?_
    split
    · exact lit _ begun
    · exact begun
  · split
    · exact lit _ begun
    · exact begun

theorem kept_takeFrameStart (counter : Half) (s : State) : Kept s (takeFrameStart counter s) := by
  unfold takeFrameStart
  split
  · exact kept_beginStray counter (work_endFrame s).kept
  · split
    · exact kept_beginStray counter (work_endReadout s).kept
    · exact kept_beginSubframe counter _ (work_endFrame s).kept

theorem work_loseLinkIn (s : State) : Work s (loseLinkIn s) := by
  have unlocked : ∀ u : State, Work u { u with link.locked := false } := fun u => { Work.refl u with }
  unfold loseLinkIn
  simp only
  refine .trans ?_ (unlocked _)
  split
  · exact work_endReadout s
  · exact work_endFrame s

/-- The loss of lock, from the state that is as before but unlocked. -/
theorem kept_loseLinkOut (s : State) : Kept { s with out.locked := false } (loseLinkOut s) := by
  have cut : Kept { s with out.locked := false } (cutLink s) := .change rfl (.inl rfl) (.inr rfl) fun b =>
    { b with outQueue := Nat.zero_le _, rawRun := Nat.zero_le _, requests := Nat.zero_le _ }
  have given : Kept { s with out.locked := false } (cutForwarding (cutLink s)) := by
    refine cut.same rfl (.inl rfl) (.inl rfl) fun b => { b with fifo := (length_freeEntries _).trans ?_ }
    simpa [onEntries] using b.fifo
  have left : ∀ u : State, Work u { u with out.renderQueue := [] } := fun u => { Work.refl u with }
  exact (left _).keeps ((work_abandonRender .linkDown _).keeps given)

/-- The regain of lock, likewise. -/
theorem kept_regainLinkOut (s : State) : Kept { s with out.locked := true } (regainLinkOut s) := by
  unfold regainLinkOut formReport
  simp only
  split
  · rename_i room
    have room : s.out.queue.length < 16 := of_decide_eq_true (Bool.and_eq_true_iff.mp room).2
    exact .change rfl (.inl rfl) (.inl rfl) fun b =>
      { b with outQueue := by simpa using room, relays := (List.length_filter_le _ _).trans b.relays }
  · exact .change rfl (.inl rfl) (.inl rfl) fun b => { b with relays := (List.length_filter_le _ _).trans b.relays }

theorem work_handRow (s : State) : Work s (handRow s) := { Work.refl s with }

theorem kept_completeClearing (holder : s.arb.holder = .clearing) : Kept s (completeClearing s) := by
  unfold completeClearing
  simp only
  refine (work_enterStepStart _ _).keeps ((work_enterTake _ _ _).keeps ?_)
  exact ⟨.inr ⟨.inr holder, _, rfl⟩, .inl rfl, .inr (.inl rfl), fun b => { b with }, rfl⟩

theorem work_claimIngest (s : State) : Work s (claimIngest s) := by
  have held : ∀ timer : Option Nat, Work s { s with
      seq.phase := .hold, seq.holdStart := s.now, seq.extensionTimer := timer, arb.waiting := .ingest } := fun _ =>
    { Work.refl s with }
  unfold claimIngest
  split
  · exact work_grantIngest s
  · unfold enterHold
    simp only
    split
    · exact .after (work_abandonRender _ _) (held _)
    · exact held _

theorem kept_deliverEdge {t : State} (f : LineFunction) (active : Bool) (h : Kept s t) : Kept s (deliverEdge f active t) := by
  unfold deliverEdge
  split
  · unfold captureEdge
    split
    · exact h
    · split <;> exact h.same rfl (.inl rfl) (.inl rfl) fun b => { b with }
  · unfold triggerEdge
    split
    · exact (work_enterExpose _).keeps h
    · exact h
  · exact (work_pauseTake _).keeps h
  · exact (work_stopTake _).keeps h
  · exact h

theorem kept_acceptLevel {t : State} (l : LineNo) (h : Kept s t) : Kept s (acceptLevel l t) := by
  have accepted : ∀ x : LineState, Kept s (setLine l x t) := fun x => h.same rfl (.inl rfl) (.inl rfl) fun b => { b with }
  unfold acceptLevel
  simp only
  split
  · exact h
  · split
    · exact h
    · refine kept_deliverEdge _ _ ?_
      split
      · exact (work_queueReport _ _ _).keeps (accepted _)
      · exact accepted _

theorem kept_changePin (l : LineNo) (high : Bool) (s : State) : Kept s (changePin l high s) := by
  have moved : ∀ x : LineState, Kept s (setLine l x s) := fun x => .change rfl (.inl rfl) (.inl rfl) fun b => { b with }
  unfold changePin
  simp only
  split
  · exact moved _
  · split
    · exact kept_acceptLevel l (moved _)
    · exact moved _

theorem kept_convertChannel (c : Channel) (code : BitVec 10) (s : State) : Kept s (convertChannel c code s) := by
  cases c <;> exact .change rfl (.inl rfl) (.inl rfl) fun b => { b with }

theorem work_endTransaction (o : BusOutcome) (data : List Byte) (run : BusRun) (f : InFlight) (s : State) :
    Work s (endTransaction o data run f s) := by
  have told : ∀ (c : Claimant) (u : State), Work u (endClaimant o data c u) := by
    intro c u
    unfold endClaimant
    split
    · unfold endPoll
      split
      · exact { Work.refl u with }
      · exact .refl u
    · have reported : ∀ step index : Nat, Work u (reportScriptEnd step index o u) := by
        intro step index
        unfold reportScriptEnd
        split
        · exact .refl u
        · exact work_queueReport _ _ u
      simp only
      split
      · exact .after (busWork_handScripts _ _).work (reported _ _)
      · exact reported _ _
    · exact (busWork_endRelay _ _ _ u).work
  have freed : Work s { sendRun run s with bridge.state := .idle, bridge.inFlight := none } := { Work.refl s with }
  exact .after (work_arbitrate _) (.after (told _ _) freed)

theorem kept_endRawLine (frame entry : Nat) (s : State) : Kept s (endRawLine frame entry s) :=
  .change rfl (.inl rfl) (.inl rfl) fun b => { b with fifo := (length_freeEntries _).trans (by simpa [onEntries, onFrames] using b.fifo) }

theorem work_endRenderLine (s : State) : Work s (endRenderLine s) := by
  unfold endRenderLine
  simp only
  split
  · exact .after (work_completeRender _) { Work.refl s with }
  · exact { Work.refl s with }

theorem kept_endPacket (p q : LanePacket) (s : State) :
    Kept s (endPacket p (sendWaitingFlow { s with out.inProgress := none, out.sent := .sent q :: s.out.sent })) := by
  have left : Kept s (sendWaitingFlow { s with out.inProgress := none, out.sent := .sent q :: s.out.sent }) := by
    unfold sendWaitingFlow
    split <;> exact .change rfl (.inl rfl) (.inr rfl) fun b => { b with }
  unfold endPacket
  split
  · exact left.same rfl (.inl rfl) (.inl rfl) (kept_endRawLine _ _ _).bounds
  · exact (work_endRenderLine _).keeps left
  · exact left

theorem kept_partReset (r : Request) (s : State) : Kept s (partReset r s) := by
  have port : Kept s (resetPort r s) := by
    have emptied : Kept s { s with
        port.requests := [], port.holdReqSent := false, port.waiting := none, port.lostReports := false, out.queue := [] } :=
      .change rfl (.inl rfl) (.inl rfl) fun b => { b with outQueue := Nat.zero_le _, requests := Nat.zero_le _ }
    unfold resetPort
    simp only
    refine (work_answer _ _ _ _).keeps ?_
    split
    · exact emptied.same (by rw [handFlow_frame]) (.inl (by rw [handFlow_frame])) (.inl (handFlow_inProgress _ _)) (handFlow_bounds _)
        (by rw [handFlow_frame])
    · exact emptied
  have stopped : Kept s (stopPass (resetPort r s)) := by
    unfold stopPass
    split
    · rename_i holder
      have same : (resetPort r s).plane = s.plane ∧ (resetPort r s).arb = s.arb := by
        unfold resetPort
        change (joinReply _ _).plane = _ ∧ (joinReply _ _).arb = _
        rw [joinReply_frame]
        split
        · rw [handFlow_frame]; exact ⟨rfl, rfl⟩
        · exact ⟨rfl, rfl⟩
      obtain ⟨plane, arb⟩ := same
      refine ⟨.inr ⟨.inr (arb ▸ holder), min (Config.clearedRecords (resetPort r s).freeSeq)
        ((resetPort r s).settings.width * (resetPort r s).settings.height), ?_⟩, port.rowMap, port.progress,
        fun b => { port.bounds b with }, port.locked⟩
      rw [← plane]
      rfl
    · exact port
  have render : Kept s (resetRender (stopPass (resetPort r s))) := by
    have begun : ∀ u : State, Kept s u → Kept s { u with seq.finalHeld := false, arb.waiting := .none } := fun u h =>
      h.same rfl (.inl rfl) (.inl rfl) fun b => { b with }
    unfold resetRender
    exact ((work_abandonRender .partReset _).keeps (begun _ stopped)).same rfl (.inl rfl) (.inl rfl) fun b =>
      { b with frameIds := ⟨Nat.zero_le _, b.frameIds.2⟩ }
  have blocks : Kept s (resetBlocks (resetRender (stopPass (resetPort r s)))) :=
    render.same rfl (.inr rfl) (.inl rfl) fun b =>
      { b with
        fifo := Nat.zero_le _, rawRun := Nat.zero_le _, relays := Nat.zero_le _, openTrails := Nat.zero_le _,
        currentVeto := Nat.zero_le _, previousVeto := Nat.zero_le _, trailQueue := Nat.zero_le _, trailNumber := (by decide : 1 ≤ 256),
        strays := Nat.zero_le _, autoCount := .inl rfl, unattributed := fun _ held => absurd held List.not_mem_nil }
  have take : Kept s (resetTake (resetBlocks (resetRender (stopPass (resetPort r s))))) := by
    unfold resetTake
    split
    · exact blocks
    · exact (work_enterTake _ _ _).keeps blocks
  exact take.same rfl (.inl rfl) (.inl rfl) fun b => { b with }

end

/-- What an event does before its end to the plane, the row-visited map, the packet in progress and the bounds: a LINE, ingest and the
close have their own rules, and a loss of lock leaves an unlocked state. -/
theorem Effect.kept {c : Instr} {s u : State} (e : Effect c s u) :
    (∃ locked, (c ≠ .linkOutLockLoss → locked = s.out.locked) ∧ Kept { s with out.locked := locked } u) ∨ LineTaken s u
    ∨ s.arb.holder = .ingest ∧ (u = ingestNext s ∨ s.seq.phase = .settle ∧ u = settleClose s) := by
  have same : Kept s u → ∃ locked, (c ≠ .linkOutLockLoss → locked = s.out.locked) ∧ Kept { s with out.locked := locked } u :=
    fun kept => ⟨s.out.locked, fun _ => rfl, kept⟩
  cases e with
  | line locked => exact .inr (.inl (takeLine_taken _ _ _ s))
  | ingest holder => exact .inr (.inr ⟨holder, .inl rfl⟩)
  | settleEnd phase holder => exact .inr (.inr ⟨holder, .inr ⟨phase, rfl⟩⟩)
  | arrival locked joins =>
    have short := of_decide_eq_true (Bool.and_eq_true_iff.mp joins).2
    exact .inl (same <| kept_arrival short)
  | taken meaning head kind may => exact .inl (same <| (kept_of_meaning meaning _ _).taken)
  | unknown head kind may => exact .inl (same <| (work_answer _ _ _ _).kept.taken)
  | reset head kind empty => exact .inl (same <| kept_partReset _ s)
  | resetLength head kind length may => exact .inl (same <| (work_answer _ _ _ _).kept.taken)
  | recoverDone train => exact .inl (same <| kept_endTrain _ _ s)
  | waitingReply waits room =>
    exact .inl (same <| (work_joinReply _ _).keeps (.change rfl (.inl rfl) (.inl rfl) fun b => { b with }))
  | relayReply oldest due room =>
    exact .inl (same <| (work_joinReply _ _).keeps (.change rfl (.inl rfl) (.inl rfl) fun b =>
      { b with relays := List.length_eraseP_le.trans b.relays }))
  | trailDrain queue locked room =>
    exact .inl (same <| (work_queueReport _ _ _).keeps (.change rfl (.inl rfl) (.inl rfl) fun b =>
      { b with trailQueue := by have short := b.trailQueue; rw [queue] at short; exact (Nat.le_succ _).trans short }))
  | hold locked => exact .inl (same <| .change rfl (.inl rfl) (.inl rfl) fun b => { b with })
  | linkInLost locked => exact .inl (same <| (work_loseLinkIn s).kept)
  | frameStart locked => exact .inl (same <| kept_takeFrameStart _ s)
  | frameEndSubframe locked frame => exact .inl (same <| (work_endReadout s).kept)
  | frameEndStray locked frame => exact .inl (same <| (work_endFrame s).kept)
  | linkOutLoss locked => exact .inl ⟨false, fun other => absurd rfl other, kept_loseLinkOut s⟩
  | rowRead active free inside => exact .inl (same <| (work_handRow s).kept)
  | clearingComplete take holder => exact .inl (same <| kept_completeClearing holder)
  | settleExpiry timer => exact .inl (same <| (work_tryEndStepStart _).keeps (.change rfl (.inl rfl) (.inl rfl) fun b => { b with }))
  | gapExpiry timer => exact .inl (same <| (work_enterExpose _).keeps (.change rfl (.inl rfl) (.inl rfl) fun b => { b with }))
  | exposureExpiry timer => exact .inl (same <| (work_claimIngest _).keeps (.change rfl (.inl rfl) (.inl rfl) fun b => { b with }))
  | extensionExpiry timer => exact .inl (same <| (work_abandonRender _ _).keeps (.change rfl (.inl rfl) (.inl rfl) fun b => { b with }))
  | readoutExpiry timer => exact .inl (same <| (work_endReadout _).keeps (.change rfl (.inl rfl) (.inl rfl) fun b => { b with }))
  | minPulse timer => exact .inl (same <| .change rfl (.inl rfl) (.inl rfl) fun b => { b with })
  | inputPin moved => exact .inl (same <| kept_changePin _ _ s)
  | debounce timer => exact .inl (same <| kept_acceptLevel _ (.change rfl (.inl rfl) (.inl rfl) fun b => { b with }))
  | conversion due => exact .inl (same <| kept_convertChannel _ _ s)
  | pwmPeriod => exact .inl (same <| .change rfl (.inl rfl) (.inl rfl) fun b => { b with })
  | pwmEnd active part => exact .inl (same <| .change rfl (.inl rfl) (.inl rfl) fun b => { b with })
  | poll scheduled => exact .inl (same <| (work_claimPoll _).keeps (.change rfl (.inl rfl) (.inl rfl) fun b => { b with }))
  | busEnd flight possible => exact .inl (same <| (work_tryEndStepStart _).keeps (work_endTransaction _ _ _ _ s).kept)
  | busTimeout flight =>
    exact .inl (same <| (work_tryEndStepStart _).keeps ((work_endTransaction _ _ _ _ _).keeps
      (.change rfl (.inl rfl) (.inl rfl) fun b => { b with })))

theorem BoundaryEffect.kept {c : Instr} {s u : State} (e : BoundaryEffect c s u) : ∃ locked, Kept { s with out.locked := locked } u := by
  cases e with
  | go locked => exact ⟨s.out.locked, .change rfl (.inl rfl) (.inl rfl) fun b => { b with }⟩
  | regain unlocked => exact ⟨true, kept_regainLinkOut s⟩
  | packetEnd progress => exact ⟨s.out.locked, kept_endPacket _ _ s⟩

/-! ### The bounds under ingest and the close (R112, R121, R123 to R125) -/

/-- A change of the open record that keeps its unattributed count in its field. -/
theorem WithinBounds.onRecord {s : State} (b : WithinBounds s) {f : SubframeRecord → SubframeRecord}
    (kept : ∀ r, r.unattributed ≤ 4095 → (f r).unattributed ≤ 4095) : WithinBounds (onRecord f s) :=
  { b with
    unattributed := by
      intro q held
      rcases List.mem_append.mp held with old | new
      · exact b.unattributed q (List.mem_append_left _ old)
      · obtain ⟨p, opened, rfl⟩ := Option.map_eq_some_iff.mp (Option.mem_toList.mp new)
        exact kept p (b.unattributed p (List.mem_append_right _ (Option.mem_toList.mpr opened))) }

theorem length_replaceMatches (hit : OpenTrail → Bool) (merged : OpenTrail) (l : List OpenTrail) :
    (replaceMatches hit merged l).length ≤ l.length := by
  induction l with
  | nil => exact Nat.le_refl _
  | cons t rest ih =>
    unfold replaceMatches
    split
    · simpa using List.length_filter_le _ rest
    · simpa using ih

theorem bounds_takeSegment {s : State} (row : Nat) (g : Segment) (b : WithinBounds s) : WithinBounds (takeSegment row g s) := by
  unfold takeSegment
  simp only
  split
  · split
    · rename_i room
      have room : s.trails.openTrails.length < 16 := room
      exact { b with openTrails := by simpa using room }
    · refine b.onRecord ?_
      intro r _
      exact Nat.min_le_left _ _
  · exact { b with openTrails := (length_replaceMatches _ _ _).trans b.openTrails }

theorem bounds_offerToQueue {s : State} (t : TrailRecord) (b : WithinBounds s) : WithinBounds (offerToQueue t s) := by
  unfold offerToQueue
  split
  · rename_i room
    have room : s.trails.queue.length < 32 := room
    split
    · exact { b with trailQueue := by simpa using room }
    · exact b
  · refine b.onRecord ?_
    intro r held; exact held

theorem bounds_closeTrail {s : State} (t : OpenTrail) (b : WithinBounds s) : WithinBounds (closeTrail t s) := by
  have counted : WithinBounds (onRecord (fun r => { r with trails := r.trails + 1 }) s) := by
    refine b.onRecord ?_
    intro r held; exact held
  unfold closeTrail
  split
  · exact b
  · simp only
    split
    · rename_i number
      have next : WithinBounds { onRecord (fun r => { r with trails := r.trails + 1 }) s with
          trails.counter := s.trails.counter + 1 } := { counted with trailNumber := Nat.succ_le_succ number }
      unfold recordTrail
      refine bounds_offerToQueue _ ?_
      simp only
      split
      · rename_i room
        have room : s.trails.current.boxes.length < 16 := of_decide_eq_true room
        exact { next with currentVeto := by simpa [Machine.onRecord] using room }
      · refine next.onRecord ?_
        intro r held; exact held
    · refine counted.onRecord ?_
      intro r held; exact held

theorem bounds_closeTrails (ts : List OpenTrail) {s : State} (b : WithinBounds s) : WithinBounds (closeTrails ts s) := by
  induction ts generalizing s with
  | nil => exact b
  | cons t rest ih => exact ih (bounds_closeTrail t b)

theorem bounds_detectRow {s : State} (row : Nat) (flags : List (Nat × Region)) (b : WithinBounds s) :
    WithinBounds (detectRow row flags s) := by
  have segments : ∀ (gs : List Segment) {u : State}, WithinBounds u →
      WithinBounds (gs.foldl (fun s g => takeSegment row g s) u) := by
    intro gs
    induction gs with
    | nil => exact fun h => h
    | cons g rest ih => exact fun h => ih (bounds_takeSegment row g h)
  exact segments _ (bounds_closeTrails _ { b with openTrails := (List.length_filter_le _ _).trans b.openTrails })

theorem unattributed_sampleStep (s : State) (row : Nat) (pixels : List Nat) (w : RowWork) (sample : Nat × Nat) :
    (sampleStep s row pixels w sample).record.unattributed = w.record.unattributed := by
  have tallied : ∀ (v : Visit) (r : SubframeRecord), (tallyLight v r).unattributed = r.unattributed := by
    intro v r
    unfold tallyLight
    cases v.tally <;> rfl
  have staged : ∀ (column x : Nat) (w : RowWork), (regionStage s row column x w).record.unattributed = w.record.unattributed := by
    intro column x w
    unfold regionStage
    split
    · rfl
    · simp only
      split
      · unfold darkSample
        split <;> rfl
      · exact tallied _ _
  unfold sampleStep
  simp only
  split
  · split
    · split
      · rfl
      · exact staged _ _ _
    · exact staged _ _ _
  · exact staged _ _ _

theorem bounds_ingestEntryRow (e : FifoEntry) {s : State} (b : WithinBounds s) : WithinBounds (ingestEntryRow e s) := by
  have folded : ∀ (row : Nat) (pixels : List Nat) (samples : List (Nat × Nat)) (w : RowWork),
      (samples.foldl (sampleStep s row pixels) w).record.unattributed = w.record.unattributed := by
    intro row pixels samples
    induction samples with
    | nil => intro w; rfl
    | cons x rest ih => intro w; exact (ih _).trans (unattributed_sampleStep s row pixels w x)
  unfold ingestEntryRow
  split
  · exact b
  rename_i record opened
  have counted : ∀ (w : RowWork), w.record.unattributed = record.unattributed →
      WithinBounds (setCursor w.defects { s with plane := w.plane, log.openRecord := some w.record }) := by
    intro w same
    refine { b with unattributed := ?_ }
    intro q held
    rcases List.mem_append.mp held with old | new
    · exact b.unattributed q (List.mem_append_left _ old)
    · obtain rfl : q = w.record := by simpa using new
      rw [same]
      exact b.unattributed record (List.mem_append_right _ (by rw [opened]; simp))
  split
  · have row : WithinBounds (ingestGood e.row ‹_› record s) := by
      unfold ingestGood
      simp only
      split
      · exact counted _ (folded _ _ _ _)
      · exact bounds_detectRow _ _ (counted _ (folded _ _ _ _))
    exact { row with }
  · have row : WithinBounds (ingestMarker e.row record s) := by
      unfold ingestMarker
      simp only
      split
      · exact { b with }
      · exact bounds_detectRow _ _ { b with }
    exact { row with }

theorem bounds_ingestNext {s : State} (b : WithinBounds s) : WithinBounds (ingestNext s) := by
  unfold ingestNext
  split
  · exact b
  · have row := bounds_ingestEntryRow ‹_› b
    exact { row with fifo := (length_freeEntries _).trans (by simpa [onEntries] using row.fifo) }

theorem bounds_finishIngest (k : Nat) {s : State} (b : WithinBounds s) : WithinBounds (finishIngest k s) := by
  induction k generalizing s with
  | zero => exact b
  | succ k ih => exact ih (bounds_ingestNext b)

theorem bounds_settled {s : State} (b : WithinBounds s) : WithinBounds (settled s) := by
  have ingested := bounds_finishIngest s.fifo.entries.length b
  unfold settled
  split
  · have closed : WithinBounds (closeAllTrails (commitRows
        (fun r => decide (rowState (finishIngest s.fifo.entries.length s) r ≠ .ingested)) (finishIngest s.fifo.entries.length s))) :=
      bounds_closeTrails _ { ingested with openTrails := Nat.zero_le _ }
    exact { closed with currentVeto := Nat.zero_le _, previousVeto := closed.currentVeto }
  · exact ingested

theorem bounds_closeRecord {s : State} (b : WithinBounds s) : WithinBounds (closeRecord s) := by
  unfold closeRecord
  split
  · exact b
  · rename_i r opened
    refine (work_queueReport _ _ _).bounds { b with unattributed := ?_ }
    intro q held
    rcases List.mem_append.mp held with closed | none
    · rcases List.mem_append.mp closed with old | new
      · exact b.unattributed q (List.mem_append_left _ old)
      · obtain rfl := List.mem_singleton.mp new
        exact b.unattributed r (List.mem_append_right _ (by rw [opened]; simp))
    · cases none

/-! ### What comes behind the close of the record -/

theorem work_advancePlan (s : State) : Work s (advancePlan s) := by
  unfold advancePlan
  split
  · exact .refl s
  · split <;> exact .of_seq rfl

theorem work_decideNext (s : State) : Work s (decideNext s) := by
  refine (work_advancePlan s).trans ?_
  unfold decideNext
  simp only
  split
  · exact work_enterAborted _
  · split
    · split
      · exact (work_enterComplete _).trans (work_enterFinishing _)
      · exact work_enterComplete _
    · split
      · exact .after (work_enterTake _ _ _) (.of_seq rfl)
      · split
        · exact work_enterStepStart _ _
        · exact work_enterWait _

theorem work_settleRelease (s : State) : Work s (settleRelease s) := by
  unfold settleRelease
  refine .after (work_releasePlane _) ?_
  split
  · exact work_abandonRender .abort s
  · exact .refl s

/-- The auto-preview counter is below its mark, or 0 (R15). -/
theorem kept_autoPreview {s u : State} (h : Kept s u) : Kept s (autoPreview u) := by
  unfold autoPreview
  split
  · exact h
  · rename_i mark
    split
    · have counted : Kept s { u with seq.autoCount := 0 } :=
        h.same rfl (.inl rfl) (.inl rfl) fun b => { b with autoCount := .inl rfl }
      simp only
      split
      · exact (work_takeRender _ _).keeps counted
      · exact counted
    · rename_i below
      refine h.same rfl (.inl rfl) (.inl rfl) fun b => { b with autoCount := .inr ?_ }
      have short := b.autoCount
      change u.seq.autoCount + 1 < u.params.autoPreview
      omega

theorem kept_goOn (counts : Bool) (s : State) : Kept s (goOn counts s) := by
  have decided : Kept s (decideNext (settleRelease s)) := ((work_settleRelease s).trans (work_decideNext _)).kept
  unfold goOn
  split
  · exact kept_autoPreview decided
  · exact decided

/-- The report of the closed record is all of the close that Link Out sees (R13). -/
theorem fields_of_closeRecord (s : State) : (closeRecord s).plane = s.plane ∧ (closeRecord s).link = s.link
    ∧ (closeRecord s).out.inProgress = s.out.inProgress ∧ (closeRecord s).settings = s.settings := by
  unfold closeRecord
  split
  · exact ⟨rfl, rfl, rfl, rfl⟩
  · rw [queueReport_frame]; exact ⟨rfl, rfl, rfl, rfl⟩

theorem inProgress_of_ingestRest {s u : State} (h : ingestRest u = ingestRest s) : u.out.inProgress = s.out.inProgress :=
  show (ingestRest u).out.inProgress = (ingestRest s).out.inProgress by rw [h]

theorem inProgress_of_lined {s u : State} (h : Lined s u) : u.out.inProgress = s.out.inProgress :=
  show (lineRest u).out.inProgress = (lineRest s).out.inProgress by rw [h.rest]

/-! ### The end of an event -/

theorem bounds_beginPacket (p : LanePacket) {s : State} (b : WithinBounds s) : WithinBounds (beginPacket p s) := by
  have queue : s.out.queue.tail.length ≤ 16 := by rw [List.length_tail]; exact (Nat.sub_le _ _).trans b.outQueue
  have run : ∀ n, min Config.rawRunLimit n ≤ 32 := fun n => Nat.min_le_left _ _
  unfold beginPacket
  simp only
  split
  · exact { b with rawRun := run _ }
  · exact { b with rawRun := run _ }
  · exact { b with rawRun := run _ }
  · exact { b with rawRun := Nat.zero_le _, outQueue := queue }
  · exact { b with rawRun := Nat.zero_le _ }
  · exact { b with rawRun := Nat.zero_le _ }

theorem bounds_runLane {s : State} (b : WithinBounds s) : WithinBounds (runLane s) := by
  unfold runLane
  split
  · split
    · exact bounds_beginPacket _ b
    · exact b
  · exact b

theorem bounds_startFirst {s : State} (b : WithinBounds s) : WithinBounds (startFirst s) := by
  unfold startFirst
  split
  · split
    · exact b
    · exact bounds_beginPacket _ b
    · exact bounds_beginPacket _ { b with }
  · exact b

theorem bounds_endEvent {s : State} (b : WithinBounds s) : WithinBounds (endEvent s) := (work_driveLines _).bounds (bounds_startFirst b)

theorem bounds_endBoundary {s : State} (b : WithinBounds s) : WithinBounds (endBoundary s) :=
  (work_driveLines _).bounds (bounds_runLane b)

/-! ### Every step -/

theorem bounds_of_lined {s t : State} (h : Lined s t) (b : WithinBounds s) : WithinBounds t := by
  obtain ⟨rest, _, entries, record, _⟩ := h
  have out : t.out = s.out := show (lineRest t).out = (lineRest s).out by rw [rest]
  have port : t.port = s.port := show (lineRest t).port = (lineRest s).port by rw [rest]
  have bridge : t.bridge = s.bridge := show (lineRest t).bridge = (lineRest s).bridge by rw [rest]
  have trails : t.trails = s.trails := show (lineRest t).trails = (lineRest s).trails by rw [rest]
  have strays : t.link.strayCount = s.link.strayCount := show (lineRest t).link.strayCount = (lineRest s).link.strayCount by rw [rest]
  have render : t.render = s.render := show (lineRest t).render = (lineRest s).render by rw [rest]
  have seq : t.seq = s.seq := show (lineRest t).seq = (lineRest s).seq by rw [rest]
  have params : t.params = s.params := show (lineRest t).params = (lineRest s).params by rw [rest]
  have closed : t.log.closed = s.log.closed := show (lineRest t).log.closed = (lineRest s).log.closed by rw [rest]
  exact {
    fifo := entries b.fifo
    outQueue := out ▸ b.outQueue
    rawRun := out ▸ b.rawRun
    requests := port ▸ b.requests
    relays := bridge ▸ b.relays
    openTrails := trails ▸ b.openTrails
    currentVeto := trails ▸ b.currentVeto
    previousVeto := trails ▸ b.previousVeto
    trailQueue := trails ▸ b.trailQueue
    trailNumber := trails ▸ b.trailNumber
    strays := strays ▸ b.strays
    frameIds := render ▸ b.frameIds
    autoCount := by rw [seq, params]; exact b.autoCount
    unattributed := by
      intro q held
      rcases List.mem_append.mp held with old | new
      · exact b.unattributed q (List.mem_append_left _ (closed ▸ old))
      · have opened : t.log.openRecord = some q := Option.mem_toList.mp new
        rw [opened] at record
        obtain ⟨p, first, same⟩ := Option.map_eq_some_iff.mp record.symm
        have same : p.unattributed = q.unattributed := congrArg Prod.fst same
        exact same ▸ b.unattributed p (List.mem_append_right _ (Option.mem_toList.mpr first)) }

theorem Effect.bounds {c : Instr} {s u : State} (e : Effect c s u) (b : WithinBounds s) : WithinBounds u := by
  rcases e.kept with ⟨_, _, kept⟩ | ⟨v, lined, rfl | ⟨_, rfl⟩⟩ | ⟨_, rfl | ⟨_, rfl⟩⟩
  · exact kept.bounds { b with }
  · exact bounds_of_lined lined b
  · exact (work_endReadout v).bounds (bounds_of_lined lined b)
  · exact bounds_ingestNext b
  · rw [settleClose_eq]
    exact (kept_goOn _ _).bounds (bounds_closeRecord (bounds_settled b))

theorem bounds_powerOn (pins : BitVec 6) : WithinBounds (State.powerOn pins) := by
  constructor
  case unattributed => exact fun _ held => absurd held List.not_mem_nil
  case autoCount => exact .inl rfl
  case frameIds => exact ⟨Nat.zero_le _, Nat.zero_le _⟩
  case trailNumber => exact (by decide : 1 ≤ 256)
  all_goals exact Nat.zero_le _

theorem Ran.bounds {c : Instr} {s t : State} (h : Ran c s t) (b : WithinBounds s) : WithinBounds t := by
  cases h with
  | powerOn pins => exact { bounds_powerOn pins with }
  | resetN => exact { bounds_powerOn 0#6 with }
  | nothing => exact b
  | linkInLocked => exact { b with }
  | event effect => exact bounds_endEvent (effect.bounds b)
  | boundary effect =>
    obtain ⟨_, kept⟩ := effect.kept
    exact bounds_endBoundary (kept.bounds { b with })

/-- The part of O5 that no plan is needed for: every command keeps the queues, lists and counts within their bounds. -/
theorem step_keeps_withinBounds {s t : State} (b : WithinBounds s) (h : step s = .next t) : WithinBounds t := by
  rcases step_cases h with rfl | ⟨c, rest, _, ran⟩
  · exact { b with }
  · exact ran.bounds { b with }

/-! ### The canonical form (log 10) -/

theorem MemoryWf.of_kept {s t : State} (wf : MemoryWf s) (h : Kept s t) : MemoryWf t where
  plane := by
    rcases h.plane with e | ⟨_, k, e⟩ <;> rw [e]
    · exact wf.plane
    · exact Memory.wf_restrict _ wf.plane
  rowMap := by
    rcases h.rowMap with e | e <;> rw [e]
    · exact wf.rowMap
    · rfl

theorem memoryWf_of_lined {s t : State} (h : Lined s t) (wf : MemoryWf s) : MemoryWf t where
  plane := by
    rw [show t.plane = s.plane from show (lineRest t).plane = (lineRest s).plane by rw [h.rest]]
    exact wf.plane
  rowMap := h.rowMap wf.rowMap

theorem memoryWf_settled {s : State} (wf : MemoryWf s) : MemoryWf (settled s) := by
  have ingested := memoryWf_of_ingestFinished (ingestFinished_finishIngest s.fifo.entries.length s (entriesLeft_le s)) wf
  have closed : ∀ u : State, (closeAllTrails u).plane = u.plane ∧ (closeAllTrails u).link = u.link := by
    intro u
    have rest : detectRest (closeAllTrails u) = detectRest { u with trails.openTrails := [] } := detectRest_closeTrails _ _
    exact ⟨show (detectRest (closeAllTrails u)).plane = (detectRest { u with trails.openTrails := [] }).plane by rw [rest],
      show (detectRest (closeAllTrails u)).link = (detectRest { u with trails.openTrails := [] }).link by rw [rest]⟩
  unfold settled
  split
  · obtain ⟨plane, link⟩ := closed (commitRows
      (fun r => decide (rowState (finishIngest s.fifo.entries.length s) r ≠ .ingested)) (finishIngest s.fifo.entries.length s))
    constructor
    · change Memory.wf _ (closeAllTrails _).plane = true
      rw [plane]; exact Memory.wf_update _ ingested.plane
    · change Memory.wf _ (closeAllTrails _).link.rowMap = true
      rw [link]; exact ingested.rowMap
  · exact ingested

theorem memoryWf_closeRecord {s : State} (wf : MemoryWf s) : MemoryWf (closeRecord s) := by
  obtain ⟨plane, link, _⟩ := fields_of_closeRecord s
  exact ⟨plane ▸ wf.plane, link ▸ wf.rowMap⟩

theorem Effect.memoryWf {c : Instr} {s u : State} (e : Effect c s u) (wf : MemoryWf s) : MemoryWf u := by
  rcases e.kept with ⟨locked, _, kept⟩ | ⟨v, lined, rfl | ⟨_, rfl⟩⟩ | ⟨_, rfl | ⟨_, rfl⟩⟩
  · exact MemoryWf.of_kept (s := { s with out.locked := locked }) { wf with } kept
  · exact memoryWf_of_lined lined wf
  · exact (memoryWf_of_lined lined wf).of_kept (work_endReadout v).kept
  · exact memoryWf_ingestNext wf
  · rw [settleClose_eq]
    exact (memoryWf_closeRecord (memoryWf_settled wf)).of_kept (kept_goOn _ _)

/-- The end of an event touches the lane, the oldest forwarded frame, the render's mark and the lines. -/
theorem fields_of_beginPacket (p : LanePacket) (s : State) : (beginPacket p s).plane = s.plane ∧ (beginPacket p s).link = s.link := by
  unfold beginPacket
  simp only
  split <;> exact ⟨rfl, rfl⟩

theorem fields_of_endEvent (s : State) : (endEvent s).plane = s.plane ∧ (endEvent s).link = s.link := by
  change (startFirst s).plane = s.plane ∧ (startFirst s).link = s.link
  unfold startFirst
  split
  · split
    · exact ⟨rfl, rfl⟩
    · exact fields_of_beginPacket _ s
    · exact fields_of_beginPacket _ _
  · exact ⟨rfl, rfl⟩

theorem fields_of_endBoundary (s : State) : (endBoundary s).plane = s.plane ∧ (endBoundary s).link = s.link := by
  change (runLane s).plane = s.plane ∧ (runLane s).link = s.link
  unfold runLane
  split
  · split
    · exact fields_of_beginPacket _ s
    · exact ⟨rfl, rfl⟩
  · exact ⟨rfl, rfl⟩

theorem Ran.memoryWf {c : Instr} {s t : State} (h : Ran c s t) (wf : MemoryWf s) : MemoryWf t := by
  cases h with
  | powerOn pins => exact ⟨rfl, rfl⟩
  | resetN => exact ⟨rfl, rfl⟩
  | nothing => exact wf
  | linkInLocked => exact { wf with }
  | event effect =>
    rename_i u
    have before := effect.memoryWf wf
    obtain ⟨plane, link⟩ := fields_of_endEvent u
    exact ⟨plane ▸ before.plane, link ▸ before.rowMap⟩
  | boundary effect =>
    rename_i u
    obtain ⟨locked, kept⟩ := effect.kept
    have before := MemoryWf.of_kept (s := { s with out.locked := locked }) { wf with } kept
    obtain ⟨plane, link⟩ := fields_of_endBoundary u
    exact ⟨plane ▸ before.plane, link ▸ before.rowMap⟩

/-- Settles O9: writes, updates and restrictions keep the form, and a map set back to UNSEEN has it. -/
theorem stepKeepsMemoryCanonical : Obligations.StepKeepsMemoryCanonical := by
  intro s t wf h
  rcases step_cases h with rfl | ⟨c, rest, _, ran⟩
  · exact { wf with }
  · exact ran.memoryWf { wf with }

/-! ### The plane and its holder (R86, R104, R105, R107, R135) -/

theorem plane_of_kept {s t : State} (h : Kept s t) (pass : s.arb.holder = .clearing ↔ s.seq.takeState = .clearing) (idle : s.arb.holder = .none ∨ s.arb.holder = .render) :
    t.plane = s.plane := by
  have other : s.arb.holder ≠ .clearing := by rcases idle with e | e <;> rw [e] <;> exact nofun
  rcases h.plane with e | ⟨clearing, _⟩
  · exact e
  · exact absurd (clearing.elim pass.mpr id) other

/-- Settles O59: only a CLEARING pass, its stop and its end, and ingest change the plane, and each holds it. -/
theorem planeChangesOnlyUnderItsHolder : Obligations.PlaneChangesOnlyUnderItsHolder := by
  intro c s t good notReset notPower h idle
  have other : s.arb.holder ≠ .ingest := by rcases idle with e | e <;> rw [e] <;> exact nofun
  cases ran_of_exec h with
  | powerOn pins => exact absurd rfl (notPower pins)
  | resetN => exact absurd rfl notReset
  | nothing => rfl
  | linkInLocked => rfl
  | event effect =>
    rename_i u
    rw [(fields_of_endEvent u).1]
    rcases effect.kept with ⟨locked, _, kept⟩ | ⟨v, lined, e⟩ | ⟨holder, _⟩
    · exact plane_of_kept (s := { s with out.locked := locked }) kept good.clearing idle
    · have same : v.plane = s.plane := show (lineRest v).plane = (lineRest s).plane by rw [lined.rest]
      rcases e with rfl | ⟨_, rfl⟩
      · exact same
      · rw [← same]
        exact show (workRest (endReadout v)).plane = (workRest v).plane by rw [(work_endReadout v).rest]
    · exact absurd holder other
  | boundary effect =>
    rename_i u
    rw [(fields_of_endBoundary u).1]
    obtain ⟨locked, kept⟩ := effect.kept
    exact plane_of_kept (s := { s with out.locked := locked }) kept good.clearing idle

/-! ### The hold (R167) -/

/-- What may become of the packet in progress while nothing starts: it stays, is detached from its render, or is cut. -/
def Unstarted (s t : State) : Prop :=
  t.out.inProgress = none ∨ t.out.inProgress = s.out.inProgress ∨ t.out.inProgress = s.out.inProgress.map LanePacket.detach

theorem Effect.unstarted {c : Instr} {s u : State} (e : Effect c s u) : Unstarted s u := by
  rcases e.kept with ⟨_, _, kept⟩ | ⟨v, lined, rfl | ⟨_, rfl⟩⟩ | ⟨_, rfl | ⟨_, rfl⟩⟩
  · exact kept.progress
  · exact .inr (.inl (inProgress_of_lined lined))
  · unfold Unstarted
    rw [← inProgress_of_lined lined]
    exact (work_endReadout v).kept.progress
  · exact .inr (.inl (inProgress_of_ingestRest (ingestRest_ingestNext s)))
  · obtain ⟨_, _, out, _⟩ := fields_of_closeRecord (settled s)
    unfold Unstarted
    rw [settleClose_eq, ← inProgress_of_ingestRest (ingestRest_settled s), ← out]
    exact (kept_goOn _ _).progress

/-- Under the hold the lane is not free. -/
theorem laneFree_of_held {s : State} (held : s.out.held = true) : laneFree s = false := by simp [laneFree, held]

theorem held_beginPacket (p : LanePacket) (s : State) : (beginPacket p s).out.held = s.out.held := by
  unfold beginPacket
  simp only
  split <;> rfl

theorem inProgress_endEvent_of_held {s : State} (held : (endEvent s).out.held = true) :
    (endEvent s).out.inProgress = s.out.inProgress := by
  change (startFirst s).out.held = true at held
  change (startFirst s).out.inProgress = _
  have before : s.out.held = true := by
    unfold startFirst at held
    split at held
    · split at held
      · exact held
      · rwa [held_beginPacket] at held
      · rwa [held_beginPacket] at held
    · exact held
  simp [startFirst, laneFree_of_held before]

theorem inProgress_endBoundary_of_held {s : State} (held : (endBoundary s).out.held = true) :
    (endBoundary s).out.inProgress = s.out.inProgress := by
  change (runLane s).out.held = true at held
  change (runLane s).out.inProgress = _
  have before : s.out.held = true := by
    unfold runLane at held
    split at held
    · split at held
      · rwa [held_beginPacket] at held
      · exact held
    · exact held
  simp [runLane, laneFree_of_held before]

/-- Settles O58: no effect starts a packet, and the end of an event starts none under the hold. -/
theorem heldLaneStartsNothing : Obligations.HeldLaneStartsNothing := by
  intro c s t h held
  cases ran_of_exec h with
  | powerOn pins => exact .inl rfl
  | resetN => exact .inl rfl
  | nothing => exact .inr (.inl rfl)
  | linkInLocked => exact .inr (.inl rfl)
  | event effect => rw [inProgress_endEvent_of_held held]; exact effect.unstarted
  | boundary effect =>
    obtain ⟨_, kept⟩ := effect.kept
    rw [inProgress_endBoundary_of_held held]
    exact kept.progress

end Sys2Proof.Machine
end

section
/-! PROOFS. The pixel records stay in their ranges (R83, R85, R91, R93, R94, R97 to R101). -/

namespace Sys2Proof.Machine

/-! ### The ranges of one record under its visits (R85, R93, R94, R97 to R101) -/

/-- A quotient is rounded to no less than a bound of the exact one, and to no more. -/
theorem roundDiv_between {a b lo hi : Int} (pos : 0 < b) (low : lo * b ≤ a) (high : a ≤ hi * b) :
    lo ≤ roundDiv a b ∧ roundDiv a b ≤ hi := by
  have quotient : ∀ {x l h : Int}, l * b ≤ x → x ≤ h * b → l ≤ (2 * x + b) / (2 * b) ∧ (2 * x + b) / (2 * b) ≤ h := by
    intro x l h lx xh
    constructor
    · exact (Int.le_ediv_iff_mul_le (by omega)).mpr (by linarith)
    · exact Int.le_of_lt_add_one ((Int.ediv_lt_iff_lt_mul (by omega)).mpr (by linarith))
  unfold roundDiv
  split
  · exact quotient low high
  · obtain ⟨l, h⟩ := quotient (x := -a) (l := -hi) (h := -lo) (by linarith) (by linarith)
    constructor <;> omega

/-- A calibrated sample (R83). -/
def SampleInRange (y : Int) : Prop := -4096 ≤ y ∧ y ≤ 16383

theorem inRange_cleared : Pixel.cleared.InRange :=
  ⟨Nat.zero_le _, Nat.zero_le _, by decide, fun _ => ⟨rfl, rfl⟩, nofun, nofun⟩

section
variable {px : Pixel} (range : px.InRange)
include range

theorem inRange_sumDark (blackLevel x : Nat) : (sumDark blackLevel x px).InRange := { range with }

theorem inRange_countSaturated : (countSaturated px).InRange := { range with sat := Nat.min_le_left _ _ }

theorem inRange_welford {y : Int} (sample : SampleInRange y) : (welford px y).InRange := by
  unfold welford
  split
  · exact range
  · rename_i room
    obtain ⟨yl, yh⟩ := sample
    obtain ⟨ml, mh⟩ := range.mean
    have share := roundDiv_share (d := deviation px y) (k := 1) (b := (px.n : Int) + 1) (by omega) (by omega) (by omega)
    rw [mul_one] at share
    obtain ⟨l, h⟩ := share
    refine { range with n := by simp only; omega, mean := ?_, unfolded := fun zero => absurd zero (Nat.succ_ne_zero _) }
    unfold deviation at l h ⊢
    constructor <;> simp only <;> omega

theorem inRange_commitPending (vetoed : Nat → Bool) : (commitPending vetoed px).InRange := by
  unfold commitPending
  split
  · exact range
  · rename_i v sf held
    refine { range with pending := nofun, peak := ?_ }
    intro k peak
    simp only at peak
    split at peak
    · cases peak
      exact range.pending (v, sf) held
    · exact range.peak k peak

/-- A fade of 1..255 moves the peak to a mean of the two, within both (R99). -/
theorem inRange_fadePeak {p : Policy} (fade : 1 ≤ p.fade ∧ p.fade ≤ 255) : (fadePeak p px).InRange := by
  unfold fadePeak
  split
  · rename_i peak _ held
    split
    · refine { range with peak := ?_ }
      intro k faded
      cases faded
      obtain ⟨pl, ph⟩ := range.peak peak held
      obtain ⟨ml, mh⟩ := range.mean
      obtain ⟨_, fh⟩ := fade
      have f0 : (0 : Int) ≤ p.fade := by omega
      have f1 : (0 : Int) ≤ 256 - p.fade := by omega
      have lowMean := mul_le_mul_of_nonneg_right ml f1
      have highMean := mul_le_mul_of_nonneg_right mh f1
      have lowPeak := mul_le_mul_of_nonneg_right pl f0
      have highPeak := mul_le_mul_of_nonneg_right ph f0
      refine roundDiv_between (by decide) ?_ ?_ <;> linarith
    · exact range
  · exact range

theorem inRange_holdCandidate (subframe : Nat) {y : Int} (sample : SampleInRange y) : (holdCandidate subframe y px).InRange := by
  unfold holdCandidate
  split
  · refine { range with pending := ?_ }
    intro v held
    cases held
    exact sample
  · exact { range with pending := nofun }

theorem inRange_visitLight {p : Policy} (fade : 1 ≤ p.fade ∧ p.fade ≤ 255) (vetoed : Nat → Bool) (subframe : Nat)
    (sample : Option Int) (calibrated : ∀ y ∈ sample, SampleInRange y) : (visitLight p vetoed subframe px sample).pixel.InRange := by
  unfold visitLight
  split
  · have settled := inRange_fadePeak (inRange_commitPending range vetoed) fade
    cases sample with
    | none => exact inRange_holdCandidate (inRange_countSaturated settled) subframe ⟨by decide, by decide⟩
    | some y => exact inRange_holdCandidate (inRange_welford settled (calibrated y rfl)) subframe (calibrated y rfl)
  · cases sample with
    | none => exact inRange_countSaturated range
    | some y =>
      unfold visitMeanReject
      simp only
      split
      · exact range
      · exact inRange_welford range (calibrated y rfl)

theorem inRange_commitRecord (visit : Nat → Bool) (set : TakeSettings) (det : TrailDetector) (a : Nat) :
    (commitRecord visit set det a px).InRange := by
  unfold commitRecord commitOnly
  split
  · simp only
    split
    · exact inRange_commitPending range _
    · exact range
  · exact range

end

theorem sampleInRange_calibratedSample (blackLevel : Nat) (scale : Option Nat) (px : Pixel) (x : Nat) :
    SampleInRange (calibratedSample blackLevel scale px x) := by
  unfold calibratedSample clampInt SampleInRange
  omega

/-! ### The plane's records -/

/-- Every record listed is in its ranges. -/
def RecordsInRange (m : Memory Pixel) : Prop := ∀ e ∈ m, e.2.InRange

/-- The fades that a take has recorded are in their range (R91, R183). -/
def FadesInRange (set : TakeSettings) : Prop :=
  (1 ≤ set.sky.fade ∧ set.sky.fade ≤ 255) ∧ (1 ≤ set.ground.fade ∧ set.ground.fade ≤ 255)

theorem fade_pixelPolicy {set : TakeSettings} (fades : FadesInRange set) (row column : Nat) :
    1 ≤ (pixelPolicy set row column).fade ∧ (pixelPolicy set row column).fade ≤ 255 := by
  obtain ⟨sky, ground⟩ := fades
  unfold pixelPolicy policyOf
  split
  · exact sky
  · exact ground

theorem RecordsInRange.read {m : Memory Pixel} (range : RecordsInRange m) (a : Nat) : (Memory.read Pixel.cleared m a).InRange := by
  induction m with
  | nil => exact inRange_cleared
  | cons e rest ih =>
    unfold Memory.read
    split
    · exact range e (by simp)
    · exact ih fun e' held => range e' (by simp [held])

theorem RecordsInRange.write {m : Memory Pixel} (range : RecordsInRange m) (a : Nat) {px : Pixel} (own : px.InRange) :
    RecordsInRange (Memory.write Pixel.cleared m a px) := by
  induction m with
  | nil =>
    unfold Memory.write
    split
    · exact range
    · intro e held; obtain rfl := List.mem_singleton.mp held; exact own
  | cons e rest ih =>
    have first : e.2.InRange := range e (by simp)
    have others : RecordsInRange rest := fun e' held => range e' (by simp [held])
    have joined : ∀ (x : Nat × Pixel) (l : Memory Pixel), x.2.InRange → RecordsInRange l → RecordsInRange (x :: l) :=
      fun x l hx hl => List.forall_mem_cons.mpr ⟨hx, hl⟩
    unfold Memory.write
    split
    · split
      · exact range
      · exact joined _ _ own range
    · split
      · split
        · exact others
        · exact joined _ _ own others
      · exact joined _ _ first (ih others)

theorem RecordsInRange.update {m : Memory Pixel} {f : Nat → Pixel → Pixel} (range : RecordsInRange m)
    (kept : ∀ a px, px.InRange → (f a px).InRange) : RecordsInRange (Memory.update Pixel.cleared f m) := by
  intro e held
  obtain ⟨x, listed, updated⟩ := List.mem_filterMap.mp held
  split at updated
  · cases updated
  · cases updated
    exact kept _ _ (range x listed)

theorem RecordsInRange.restrict {m : Memory Pixel} (range : RecordsInRange m) (p : Nat → Bool) :
    RecordsInRange (Memory.restrict p m) := fun e held => range e (List.mem_filter.mp held).1

theorem RecordsInRange.of_kept {s t : State} (range : RecordsInRange s.plane) (h : Kept s t) : RecordsInRange t.plane := by
  rcases h.plane with e | ⟨_, k, e⟩ <;> rw [e]
  · exact range
  · exact range.restrict _

theorem recordsInRange_commitRows {s : State} (visit : Nat → Bool) (range : RecordsInRange s.plane) :
    RecordsInRange (commitRows visit s).plane :=
  range.update fun a _ own => inRange_commitRecord own visit s.settings s.trails a

/-! ### Ingest (R59, R65, R74, R95) -/

theorem recordsInRange_regionStage {s : State} (fades : FadesInRange s.settings) (row column x : Nat) {w : RowWork}
    (range : RecordsInRange w.plane) : RecordsInRange (regionStage s row column x w).plane := by
  unfold regionStage
  split
  · exact range
  · simp only
    split
    · unfold darkSample
      split
      · exact range
      · exact range.write _ (inRange_sumDark (range.read _) _ _)
    · refine range.write _ (inRange_visitLight (range.read _) (fade_pixelPolicy fades _ _) _ _ _ ?_)
      intro y sample
      split at sample
      · cases sample
      · cases sample
        exact sampleInRange_calibratedSample _ _ _ _

theorem recordsInRange_sampleStep {s : State} (fades : FadesInRange s.settings) (row : Nat) (pixels : List Nat)
    (sample : Nat × Nat) {w : RowWork} (range : RecordsInRange w.plane) :
    RecordsInRange (sampleStep s row pixels w sample).plane := by
  unfold sampleStep
  simp only
  split
  · split
    · split
      · exact range
      · exact recordsInRange_regionStage fades _ _ _ (w := { w with defects := _ }) range
    · exact recordsInRange_regionStage fades _ _ _ range
  · exact recordsInRange_regionStage fades _ _ _ range

theorem recordsInRange_ingestEntryRow (e : FifoEntry) {s : State} (fades : FadesInRange s.settings) (range : RecordsInRange s.plane) :
    RecordsInRange (ingestEntryRow e s).plane := by
  have folded : ∀ (row : Nat) (pixels : List Nat) (samples : List (Nat × Nat)) (w : RowWork), RecordsInRange w.plane →
      RecordsInRange (samples.foldl (sampleStep s row pixels) w).plane := by
    intro row pixels samples
    induction samples with
    | nil => intro w hw; exact hw
    | cons x rest ih => intro w hw; exact ih _ (recordsInRange_sampleStep fades row pixels x hw)
  have detected : ∀ (row : Nat) (flags : List (Nat × Region)) (u : State), (detectRow row flags u).plane = u.plane :=
    fun row flags u => (detectRow_rest row flags u).1
  unfold ingestEntryRow
  split
  · exact range
  split
  · change RecordsInRange (ingestGood _ _ _ s).plane
    unfold ingestGood
    simp only
    split
    · exact folded _ _ _ _ range
    · rw [detected]; exact folded _ _ _ _ range
  · change RecordsInRange (ingestMarker _ _ s).plane
    unfold ingestMarker
    simp only
    split
    · exact range
    · rw [detected]; exact recordsInRange_commitRows _ range

theorem settings_of_ingestRest {s u : State} (h : ingestRest u = ingestRest s) : u.settings = s.settings :=
  show (ingestRest u).settings = (ingestRest s).settings by rw [h]

theorem recordsInRange_ingestNext {s : State} (fades : FadesInRange s.settings) (range : RecordsInRange s.plane) :
    RecordsInRange (ingestNext s).plane := by
  unfold ingestNext
  split
  · exact range
  · exact recordsInRange_ingestEntryRow _ fades range

theorem plane_closeAllTrails (s : State) : (closeAllTrails s).plane = s.plane := by
  have rest : detectRest (closeAllTrails s) = detectRest { s with trails.openTrails := [] } := detectRest_closeTrails _ _
  exact show (detectRest (closeAllTrails s)).plane = (detectRest { s with trails.openTrails := [] }).plane by rw [rest]

theorem recordsInRange_settled {s : State} (fades : FadesInRange s.settings) (range : RecordsInRange s.plane) :
    RecordsInRange (settled s).plane := by
  have ingested : ∀ (k : Nat) (u : State), FadesInRange u.settings → RecordsInRange u.plane →
      RecordsInRange (finishIngest k u).plane := by
    intro k
    induction k with
    | zero => exact fun u _ own => own
    | succ k ih =>
      intro u set own
      refine ih _ ?_ (recordsInRange_ingestNext set own)
      rwa [settings_of_ingestRest (ingestRest_ingestNext u)]
  have whole := ingested s.fifo.entries.length s fades range
  unfold settled
  split
  · change RecordsInRange (closeAllTrails (commitRows _ _)).plane
    rw [plane_closeAllTrails]
    exact recordsInRange_commitRows _ whole
  · exact whole

theorem Effect.recordsInRange {c : Instr} {s u : State} (e : Effect c s u) (fades : FadesInRange s.settings)
    (range : RecordsInRange s.plane) : RecordsInRange u.plane := by
  rcases e.kept with ⟨locked, _, kept⟩ | ⟨v, lined, taken⟩ | ⟨_, rfl | ⟨_, rfl⟩⟩
  · exact RecordsInRange.of_kept (s := { s with out.locked := locked }) range kept
  · have same : v.plane = s.plane := show (lineRest v).plane = (lineRest s).plane by rw [lined.rest]
    rcases taken with rfl | ⟨_, rfl⟩
    · exact same ▸ range
    · exact RecordsInRange.of_kept (same ▸ range) (work_endReadout v).kept
  · exact recordsInRange_ingestNext fades range
  · rw [settleClose_eq]
    refine RecordsInRange.of_kept ?_ (kept_goOn _ _)
    rw [(fields_of_closeRecord _).1]
    exact recordsInRange_settled fades range

/-! ### What a take records (R91, R183) -/

theorem fade_policyFor {entries : List RegionEntry} (range : ∀ e ∈ entries, e.inRange = true) (region : Region) :
    1 ≤ (policyFor entries region).fade ∧ (policyFor entries region).fade ≤ 255 := by
  unfold policyFor
  split
  · rename_i e found
    obtain ⟨_, _, _, _, _, low, high⟩ := of_decide_eq_true (range e (List.mem_of_find?_eq_some found))
    exact ⟨low, high⟩
  · exact ⟨by decide, by decide⟩

theorem fades_recordSettings {t : Tables} (sound : Tables.Sound t) (p : Params) : FadesInRange (recordSettings t p) := by
  have range : ∀ e ∈ t.regions.seen, e.inRange = true := by
    intro e held
    unfold Table.seen at held
    split at held
    · cases held
    · exact sound.regions.2.1 e held
  exact ⟨fade_policyFor range .sky, fade_policyFor range .ground⟩

theorem planeSound_powerOn : PlaneSound State.reset :=
  ⟨tables_sound_reset, ⟨⟨by decide, by decide⟩, by decide, by decide⟩, nofun⟩

/-- Settles O10: each visit keeps the ranges of its record, a calibrated sample being one of R83 and a fade one of R91. -/
theorem stepKeepsPixelRanges : Obligations.StepKeepsPixelRanges := by
  intro s t sound stepped
  rcases step_cases stepped with rfl | ⟨c, rest, -, ran⟩
  · exact { sound with }
  · cases ran with
    | powerOn | resetN => exact { planeSound_powerOn with }
    | nothing | linkInLocked => exact { sound with }
    | @event _ _ u effect =>
      obtain ⟨tables, _, settings⟩ := endEvent_setup u
      constructor
      · rw [tables]; exact effect.tables_sound sound.tables
      · rw [settings]
        rcases effect.settings_cases with e | e <;> rw [e]
        · exact sound.fades
        · exact fades_recordSettings sound.tables _
      · rw [(fields_of_endEvent u).1]; exact effect.recordsInRange sound.fades sound.records
    | @boundary _ _ u effect =>
      obtain ⟨tables, _, settings⟩ := endBoundary_setup u
      obtain ⟨sameTables, _, sameSettings, -⟩ := fields_of_fixedPart effect.fixedPart
      constructor
      · rw [tables, sameTables]; exact sound.tables
      · rw [settings, sameSettings]; exact sound.fades
      · rw [(fields_of_endBoundary u).1]
        obtain ⟨locked, kept⟩ := effect.kept
        exact RecordsInRange.of_kept (s := { s with pending := rest, out.locked := locked }) sound.records kept

end Sys2Proof.Machine
end

section
/-! PROOFS. Sequencer, Plane Arbiter, Render Unit and Link Receiver stay in step (1.1, R1, R7 to R22, R104 to R108, R130 to R145, R190). -/

namespace Sys2Proof.Machine

/-! ### Where the take stands: what the Sequencer, the Plane Arbiter, the Render Unit and the Link Receiver agree on -/

/-- The fields that Coherent relates, a timer, a record and a readout by whether there is one, and the lock of Link Out. -/
structure Stand where
  take : TakeState
  phase : Phase
  planeValid : Bool
  shutter : Bool
  stepLevel : Bool
  finalHeld : Bool
  settle : Bool
  gap : Bool
  exposure : Bool
  extension : Bool
  timeout : Bool
  readout : Bool
  record : Bool
  subframe : Bool
  armed : Bool
  holder : Holder
  waiting : WaitingClaim
  render : RenderState
  kind : RenderKind
  rowHanded : Bool
  handed : Nat
  locked : Bool

def standOf (s : State) : Stand where
  take := s.seq.takeState
  phase := s.seq.phase
  planeValid := s.seq.planeValid
  shutter := s.seq.shutter
  stepLevel := s.seq.stepLevel
  finalHeld := s.seq.finalHeld
  settle := s.seq.settleTimer.isSome
  gap := s.seq.gapTimer.isSome
  exposure := s.seq.exposureTimer.isSome
  extension := s.seq.extensionTimer.isSome
  timeout := s.seq.readoutTimer.isSome
  readout := s.link.readout.isSome
  record := s.log.openRecord.isSome
  subframe := decide (s.link.frame = .subframe)
  armed := s.meas.armed
  holder := s.arb.holder
  waiting := s.arb.waiting
  render := s.render.state
  kind := s.render.kind
  rowHanded := s.render.rowHanded
  handed := handedLines s
  locked := s.out.locked

namespace Stand

/-- Coherent, of the stand, but for what it says of the FINAL request and its render. -/
structure Loose (x : Stand) : Prop where
  phase : x.phase = .none ↔ x.take ≠ .running
  planeValid : x.planeValid = x.take.planeValid
  levels : x.take.keepsLevels = false → x.shutter = false ∧ x.stepLevel = false
  settle : x.settle = true → x.phase = .stepStart
  gap : x.gap = true → x.phase = .wait
  exposure : x.exposure = true → x.phase = .expose
  extension : x.extension = true → x.phase = .hold
  timeout : x.timeout = true → x.phase = .readout
  readout : x.readout = true ↔ x.phase = .readout
  record : x.record = true ↔ x.phase = .expose ∨ x.phase = .hold ∨ x.phase = .readout ∨ x.phase = .settle
  ingest : x.holder = .ingest ↔ x.phase = .readout ∨ x.phase = .settle
  held : x.waiting = .ingest ↔ x.phase = .hold
  clearing : x.holder = .clearing ↔ x.take = .clearing
  active : x.render = .active ↔ x.holder = .render
  pending : x.render = .pending ↔ x.waiting = .render
  behindIngest : x.waiting = .render → x.holder = .ingest
  behindRender : x.waiting = .ingest → x.holder = .render
  subframe : x.subframe = true → x.readout = true
  armed : x.armed = true → x.phase = .expose ∨ x.phase = .hold ∨ x.phase = .readout
  handed : x.handed ≤ boolCode x.rowHanded
  handedActive : x.handed ≠ 0 → x.render = .active

/-- Coherent, of the stand. -/
structure Coherent (x : Stand) : Prop extends Loose x where
  finalHeld : x.finalHeld = true → x.take = .finishing ∧ x.render ≠ .idle ∧ x.kind = .preview
  finalInHand : x.render ≠ .idle → x.kind = .final → x.take = .finishing ∨ x.take = .finished
  finishing : x.take = .finishing → x.finalHeld = true ∨ (x.render ≠ .idle ∧ x.kind = .final)

/-! The operations of the model, as the stand sees them. -/

def enterTake (t : TakeState) (p : Phase) (x : Stand) : Stand :=
  { x with take := t, phase := p, shutter := x.shutter && t.keepsLevels, stepLevel := x.stepLevel && t.keepsLevels }

def grantRender (x : Stand) : Stand := { x with holder := .render, waiting := .none, render := .active, rowHanded := false }

def grantIngest (x : Stand) : Stand :=
  { x with holder := .ingest, waiting := .none, phase := .readout, exposure := false, extension := false, timeout := true,
           readout := true }

def free (x : Stand) : Stand := { x with holder := .none }

def releasePlane (x : Stand) : Stand :=
  match x.waiting with
  | .render => x.grantRender
  | .ingest => x.grantIngest
  | .none => x.free

def takeRender (k : RenderKind) (x : Stand) : Stand :=
  if x.holder = .none then grantRender { x with kind := k } else { x with kind := k, render := .pending, waiting := .render }

def requestFinal (x : Stand) : Stand :=
  if x.locked then x.takeRender .final else enterTake .complete .none { x with kind := .final }

def handHeldFinal (x : Stand) : Stand :=
  if x.finalHeld = true ∧ x.render = .idle then requestFinal { x with finalHeld := false } else x

def afterAbandonment (final : Bool) (r : AbandonReason) (x : Stand) : Stand :=
  handHeldFinal (if final && decide (r ≠ .abort) && decide (r ≠ .partReset) then x.enterTake .complete .none else x)

/-- The render in hand is the Sequencer's FINAL (R20). -/
def sequencerFinal (x : Stand) : Bool := decide (x.kind = .final ∧ x.take = .finishing)

def abandonRender (r : AbandonReason) (x : Stand) : Stand :=
  match x.render with
  | .idle => x
  | .pending => afterAbandonment x.sequencerFinal r { x with render := .idle, waiting := .none }
  | .active => afterAbandonment x.sequencerFinal r (releasePlane { x with render := .idle, handed := 0 })

def completeRender (x : Stand) : Stand :=
  let released := releasePlane { x with render := .idle }
  handHeldFinal (if x.sequencerFinal then released.enterTake .finished .none else released)

def enterFinishing (x : Stand) : Stand :=
  if x.render = .idle then (x.enterTake .finishing .none).requestFinal else { x.enterTake .finishing .none with finalHeld := true }

def endReadout (x : Stand) : Stand :=
  { x with subframe := false, armed := false, readout := false, phase := .settle, timeout := false }

def enterAborted (x : Stand) : Stand :=
  enterTake .aborted .none { abandonRender .abort { x with finalHeld := false } with planeValid := false }

def cancelWork (x : Stand) : Stand := { x with settle := false, gap := false }

/-- EXPOSE is entered. -/
def exposed (x : Stand) : Stand := { x with phase := .expose, gap := false, exposure := true, record := true, armed := true }

end Stand

/-! ### The stand of each operation -/

theorem coherent_iff_stand (s : State) : Coherent s ↔ (standOf s).Coherent := by
  have some : ∀ {α : Type} (o : Option α), o ≠ none ↔ o.isSome = true := by intro α o; cases o <;> simp
  constructor
  · intro h
    exact {
      phase := h.phase, planeValid := h.planeValid, levels := h.levels
      settle := fun t => h.settleTimer ((some _).mpr t)
      gap := fun t => h.gapTimer ((some _).mpr t)
      exposure := fun t => h.exposureTimer ((some _).mpr t)
      extension := fun t => h.extensionTimer ((some _).mpr t)
      timeout := fun t => h.readoutTimer ((some _).mpr t)
      readout := (some _).symm.trans h.readout
      record := (some _).symm.trans h.openRecord
      ingest := h.ingest, held := h.held, clearing := h.clearing, active := h.active, pending := h.pending
      behindIngest := h.behindIngest, behindRender := h.behindRender, finalHeld := h.finalHeld
      finalInHand := h.finalInHand, finishing := h.finishing
      subframe := fun f => (some _).mp (h.subframe (of_decide_eq_true f))
      armed := h.armed, handed := h.handed, handedActive := h.handedActive }
  · intro h
    exact {
      phase := h.phase, planeValid := h.planeValid, levels := h.levels
      settleTimer := fun t => h.settle ((some _).mp t)
      gapTimer := fun t => h.gap ((some _).mp t)
      exposureTimer := fun t => h.exposure ((some _).mp t)
      extensionTimer := fun t => h.extension ((some _).mp t)
      readoutTimer := fun t => h.timeout ((some _).mp t)
      readout := (some _).trans h.readout
      openRecord := (some _).trans h.record
      ingest := h.ingest, held := h.held, clearing := h.clearing, active := h.active, pending := h.pending
      behindIngest := h.behindIngest, behindRender := h.behindRender, finalHeld := h.finalHeld
      finalInHand := h.finalInHand, finishing := h.finishing
      subframe := fun f => (some _).mpr (h.subframe (decide_eq_true f))
      armed := h.armed, handed := h.handed, handedActive := h.handedActive }

theorem Coherent.of_stand {s t : State} (h : Coherent s) (same : standOf t = standOf s) : Coherent t := by
  rw [coherent_iff_stand, same, ← coherent_iff_stand]; exact h

theorem stand_of_busRest {s t : State} (h : busRest t = busRest s) : standOf t = standOf s :=
  show standOf (busRest t) = standOf (busRest s) by rw [h]

@[simp] theorem stand_queueReport (k : ReportKind) (p : List Byte) (s : State) : standOf (queueReport k p s) = standOf s :=
  stand_of_busRest (busRest_queueReport k p s)

@[simp] theorem stand_arbitrate (s : State) : standOf (arbitrate s) = standOf s := stand_of_busRest (busRest_arbitrate s)

@[simp] theorem stand_handScripts (indices : List Nat) (s : State) : standOf (handScripts indices s) = standOf s :=
  stand_of_busRest (busRest_handScripts indices s)

@[simp] theorem stand_driveLines (s : State) : standOf (driveLines s) = standOf s := rfl

@[simp] theorem stand_onRecord (f : SubframeRecord → SubframeRecord) (s : State) : standOf (onRecord f s) = standOf s := by
  change { standOf s with record := (s.log.openRecord.map f).isSome } = standOf s
  rw [Option.isSome_map]
  rfl

@[simp] theorem stand_enterTake (t : TakeState) (p : Phase) (s : State) : standOf (enterTake t p s) = (standOf s).enterTake t p := by
  unfold enterTake reportTakeState
  rw [stand_driveLines, stand_queueReport]
  rfl

@[simp] theorem stand_claimPoll (s : State) : standOf (claimPoll s) = standOf s := by
  unfold claimPoll
  simp only
  split
  · rfl
  · split
    · rfl
    · rw [stand_arbitrate]; rfl

/-- Entry to EXPOSE, where the plan has a step (R9). -/
theorem stand_enterExpose {s : State} {st : PlanStep} (step : currentStep s = some st) :
    standOf (enterExpose s) = (standOf s).exposed := by
  unfold enterExpose schedulePoll
  rw [step]
  simp only
  split
  · rfl
  · split
    · rw [stand_claimPoll]; rfl
    · rfl

theorem enterExpose_of_no_step {s : State} (none : currentStep s = none) : enterExpose s = s := by
  unfold enterExpose; rw [none]

theorem enterWait_of_no_step {s : State} (none : currentStep s = none) : enterWait s = s := by
  unfold enterWait; rw [none]

/-- Entry to WAIT, where the plan has a step: WAIT with or without a gap timer, or EXPOSE at once (R8, R9). -/
theorem stand_enterWait {s : State} {st : PlanStep} (step : currentStep s = some st) :
    (∃ g, standOf (enterWait s) = { standOf s with phase := .wait, gap := g })
      ∨ standOf (enterWait s) = (standOf s).exposed := by
  unfold enterWait
  rw [step]
  simp only
  split
  · exact .inl ⟨false, rfl⟩
  · split
    · exact .inr (stand_enterExpose (st := st) step)
    · exact .inl ⟨true, rfl⟩

@[simp] theorem stand_cancelWork (s : State) : standOf (cancelWork s) = (standOf s).cancelWork := rfl

@[simp] theorem stand_enterComplete (s : State) : standOf (enterComplete s) = (standOf s).enterTake .complete .none := by
  unfold enterComplete; rw [stand_enterTake]; rfl

@[simp] theorem stand_openDetector (s : State) : standOf (openDetector s) = standOf s := by
  unfold openDetector; split <;> rfl

theorem stand_releaseExposure (s : State) :
    standOf (releaseExposure s) = { standOf s with exposure := false, extension := false } := by
  have held : standOf (endHold s) = standOf s := by
    unfold endHold
    split
    · exact stand_onRecord _ _
    · rfl
  unfold releaseExposure takeTemperature
  rw [stand_onRecord, ← held]
  rfl

theorem stand_decideExposure (lineTime : Nat) (s : State) : standOf (decideExposure lineTime s) = { standOf s with armed := false } := by
  have decided : ∀ f, standOf { onRecord f s with meas.armed := false } = { standOf s with armed := false } := fun f =>
    congrArg (fun x : Stand => { x with armed := false }) (stand_onRecord f s)
  unfold decideExposure
  simp only
  split <;> exact decided _

/-- No LINE is handed over by a FRAME_START or a FRAME_END. -/
theorem handedLines_append {s : State} {p : RenderPacket} (other : p.isLine = false) :
    (s.out.renderQueue ++ [p]).countP RenderPacket.isLine = s.out.renderQueue.countP RenderPacket.isLine := by
  simp [other]

@[simp] theorem stand_grantRender (s : State) : standOf (grantRender s) = (standOf s).grantRender := by
  have lines := handedLines_append (s := s) (p := .frameStart s.render.kind s.render.frameId s.settings.width s.settings.height) rfl
  have handed : handedLines (grantRender s) = handedLines s := congrArg (· + boolCode (lineInProgress s)) lines
  rw [show standOf (grantRender s) = { (standOf s).grantRender with handed := handedLines (grantRender s) } from rfl, handed]
  rfl

@[simp] theorem stand_grantIngest (s : State) : standOf (grantIngest s) = (standOf s).grantIngest := by
  unfold grantIngest
  rw [stand_openDetector]
  exact congrArg Stand.grantIngest (stand_releaseExposure s)

@[simp] theorem stand_releasePlane (s : State) : standOf (releasePlane s) = (standOf s).releasePlane := by
  have waits : (standOf s).waiting = s.arb.waiting := rfl
  unfold releasePlane Stand.releasePlane
  rw [waits]
  cases s.arb.waiting with
  | render => exact stand_grantRender s
  | ingest => exact stand_grantIngest s
  | none => rfl

@[simp] theorem stand_openRender (k : RenderKind) (s : State) : standOf (openRender k s) = { standOf s with kind := k } := rfl

@[simp] theorem stand_takeRender (k : RenderKind) (s : State) : standOf (takeRender k s) = (standOf s).takeRender k := by
  have holds : (standOf s).holder = s.arb.holder := rfl
  unfold takeRender Stand.takeRender
  simp only [holds]
  split
  · exact stand_grantRender _
  · rfl

@[simp] theorem stand_requestFinal (s : State) : standOf (requestFinal s) = (standOf s).requestFinal := by
  unfold requestFinal Stand.requestFinal reportAbandoned
  by_cases locked : s.out.locked = true
  · rw [if_pos locked, if_pos (show (standOf s).locked = true from locked), stand_takeRender]
  · rw [if_neg locked, if_neg (show ¬ (standOf s).locked = true from locked), stand_enterTake, stand_queueReport, stand_openRender]

@[simp] theorem stand_handHeldFinal (s : State) : standOf (handHeldFinal s) = (standOf s).handHeldFinal := by
  have asks : ((standOf s).finalHeld = true ∧ (standOf s).render = .idle) = (s.seq.finalHeld = true ∧ s.render.state = .idle) := rfl
  unfold handHeldFinal Stand.handHeldFinal
  simp only [asks]
  split
  · rw [stand_requestFinal]; rfl
  · rfl

@[simp] theorem stand_afterAbandonment (final : Bool) (r : AbandonReason) (s : State) :
    standOf (afterAbandonment final r s) = (standOf s).afterAbandonment final r := by
  unfold afterAbandonment Stand.afterAbandonment
  rw [stand_handHeldFinal]
  split
  · rw [stand_enterTake]
  · rfl

/-- No LINE is handed over once the frame is withdrawn (R142). -/
theorem stand_withdrawFrame (r : AbandonReason) (s : State) : standOf (withdrawFrame r s) = { standOf s with handed := 0 } := by
  have ends : ∀ l : List RenderPacket, (l.filter RenderPacket.isFrameEnd).countP RenderPacket.isLine = 0 := by
    intro l
    rw [List.countP_eq_zero]
    intro p held
    cases p with
    | line => simp [RenderPacket.isFrameEnd] at held
    | _ => simp [RenderPacket.isLine]
  have detached : lineInProgress (withdrawFrame r s) = false := by
    unfold lineInProgress withdrawFrame
    simp only
    split
    · rename_i q live kept
      obtain ⟨p, _, same⟩ := Option.map_eq_some_iff.mp kept
      cases p with
      | render => simp only [LanePacket.detach, LanePacket.render.injEq] at same; exact same.2.symm
      | _ => cases same
    · rfl
  have lines : handedLines (withdrawFrame r s) = 0 := by
    unfold handedLines
    rw [detached]
    unfold withdrawFrame
    simp only [List.countP_append, ends]
    split <;> rfl
  change { standOf s with handed := handedLines (withdrawFrame r s) } = _
  rw [lines]

@[simp] theorem stand_abandonRender (r : AbandonReason) (s : State) : standOf (abandonRender r s) = (standOf s).abandonRender r := by
  have stands : (standOf s).render = s.render.state := rfl
  unfold abandonRender Stand.abandonRender reportAbandoned
  rw [stands]
  cases s.render.state with
  | idle => rfl
  | pending => simp only [stand_afterAbandonment, stand_queueReport]; rfl
  | active =>
    have idle : standOf { withdrawFrame r s with render.state := .idle } = { standOf s with render := .idle, handed := 0 } :=
      congrArg (fun x : Stand => { x with render := .idle }) (stand_withdrawFrame r s)
    simp only [stand_afterAbandonment, stand_releasePlane, stand_queueReport, idle]
    rfl

@[simp] theorem stand_completeRender (s : State) : standOf (completeRender s) = (standOf s).completeRender := by
  have lines := handedLines_append (s := s) (p := .frameEnd s.render.kind s.settings.height false) rfl
  have released : ∀ u : State, standOf u = standOf s →
      standOf (releasePlane { u with render.state := .idle }) = Stand.releasePlane { standOf s with render := .idle } := by
    intro u same
    rw [stand_releasePlane, ← same]
    rfl
  have reported : ∀ (k : ReportKind) (p : List Byte),
      standOf (queueReport k p { s with out.renderQueue := s.out.renderQueue ++ [.frameEnd s.render.kind s.settings.height false] })
        = standOf s := by
    intro k p
    have handed : ∀ u : State, handedLines u = handedLines s → { standOf s with handed := handedLines u } = standOf s :=
      fun u same => by rw [same]; rfl
    rw [stand_queueReport]
    exact handed { s with out.renderQueue := s.out.renderQueue ++ [.frameEnd s.render.kind s.settings.height false] }
      (congrArg (· + boolCode (lineInProgress s)) lines)
  have mine : ∀ u : State, isSequencerFinal u = (standOf u).sequencerFinal := fun _ => rfl
  unfold completeRender Stand.completeRender
  simp only [stand_handHeldFinal, mine]
  split
  · rw [stand_enterTake, released _ (reported _ _)]
  · rw [released _ (reported _ _)]

@[simp] theorem stand_enterFinishing (s : State) : standOf (enterFinishing s) = (standOf s).enterFinishing := by
  have idle : ((enterTake .finishing .none s).render.state = .idle) = ((standOf s).render = .idle) := by
    rw [show (standOf s).render = (standOf (enterTake .finishing .none s)).render by rw [stand_enterTake]; rfl]
    rfl
  unfold enterFinishing Stand.enterFinishing
  simp only [idle]
  split
  · rw [stand_requestFinal, stand_enterTake]
  · rw [← stand_enterTake]; rfl

@[simp] theorem stand_enterAborted (s : State) : standOf (enterAborted s) = (standOf s).enterAborted := by
  unfold enterAborted Stand.enterAborted
  rw [stand_enterTake]
  have dropped := stand_abandonRender .abort { s with seq.finalHeld := false }
  exact congrArg (fun x : Stand => Stand.enterTake .aborted .none { x with planeValid := false }) dropped

theorem stand_endFrame (s : State) : standOf (endFrame s) = { standOf s with subframe := false } := by
  unfold endFrame closeForwarded
  split <;> rfl

theorem stand_endReadout (s : State) : standOf (endReadout s) = (standOf s).endReadout := by
  have left := stand_endFrame s
  unfold endReadout
  simp only [stand_arbitrate]
  have ended : ∀ u : State, standOf u = { standOf s with subframe := false, armed := false } →
      standOf { u with link.lastRow := none, link.readout := none, seq.phase := .settle, seq.readoutTimer := none }
        = (standOf s).endReadout := fun u same =>
    congrArg (fun x : Stand => { x with readout := false, phase := .settle, timeout := false }) same
  refine ended _ ?_
  split
  · rw [stand_decideExposure, left]
  · rename_i disarmed
    rw [left]
    have off : (standOf s).armed = false := Bool.eq_false_iff.mpr disarmed
    rw [← off]

/-! ### The stand stays coherent: renders (R106 to R108, R130, R133, R134, R140 to R145) -/

namespace Stand
section
variable {x : Stand}

/-- Outside RUNNING and CLEARING a render alone can hold the plane. -/
theorem Loose.holder_free (h : x.Loose) (idle : x.render = .idle) (take : x.take ≠ .running) (pass : x.take ≠ .clearing) :
    x.holder = .none := by
  have phase := h.phase.mpr take
  have ingest := h.ingest
  have clearing := h.clearing
  have active := h.active
  cases holder : x.holder with
  | none => rfl
  | clearing => exact absurd (clearing.mp holder) pass
  | ingest => rw [phase] at ingest; exact absurd (ingest.mp holder) (by simp)
  | render => rw [idle] at active; exact absurd (active.mpr holder) (by simp)

/-- A change of take state where the plane is free and neither state runs. -/
theorem Loose.enterTake (h : x.Loose) {t : TakeState} (was : x.take ≠ .running) (pass : x.take ≠ .clearing) (running : t ≠ .running)
    (clearing : t ≠ .clearing) (levels : t.keepsLevels = false) (valid : x.planeValid = t.planeValid) :
    (x.enterTake t .none).Loose := by
  have phase := h.phase.mpr was
  have pass' : x.holder ≠ .clearing := fun e => pass (h.clearing.mp e)
  obtain ⟨_, _, _, settle, gap, exposure, extension, timeout, readout, record, ingest, held, _, active, pending, behindIngest,
    behindRender, subframe, armed, handed, handedActive⟩ := h
  rw [phase] at settle gap exposure extension timeout readout record ingest held armed
  constructor <;> simp_all [Stand.enterTake]

/-- A render that was ACTIVE has left, and the claim that waits has the plane. -/
theorem Loose.released (h : x.Loose) (active : x.render = .active) :
    (releasePlane { x with render := .idle, handed := 0 }).Loose := by
  have holder := h.active.mp active
  have waiting : x.waiting ≠ .render := fun e => by simpa [holder] using h.behindIngest e
  obtain ⟨phase, planeValid, levels, settle, gap, exposure, extension, timeout, readout, record, ingest, held, clearing, _, pending,
    behindIngest, behindRender, subframe, armed, handed, handedActive⟩ := h
  unfold releasePlane
  cases waits : x.waiting with
  | render => exact absurd waits waiting
  | ingest =>
    have phase' := held.mp waits
    have running : x.take = .running := by by_contra other; rw [phase.mpr other] at phase'; cases phase'
    constructor <;> simp_all [grantIngest]
  | none => constructor <;> simp_all [free]

/-- A render that was PENDING has left. -/
theorem Loose.withdrawn (h : x.Loose) (waits : x.render = .pending) : Loose { x with render := .idle, waiting := .none } := by
  have waiting := h.pending.mp waits
  have holder := h.behindIngest waiting
  obtain ⟨phase, planeValid, levels, settle, gap, exposure, extension, timeout, readout, record, ingest, held, clearing, active,
    pending, behindIngest, behindRender, subframe, armed, handed, handedActive⟩ := h
  constructor <;> simp_all

/-- A render is taken on a free plane. -/
theorem Loose.granted (h : x.Loose) (idle : x.render = .idle) (free : x.holder = .none) : x.grantRender.Loose := by
  have waiting : x.waiting = .none := by
    cases waits : x.waiting with
    | none => rfl
    | ingest => exact absurd (h.behindRender waits) (by rw [free]; exact nofun)
    | render => exact absurd (h.behindIngest waits) (by rw [free]; exact nofun)
  have nothing : x.handed = 0 := by
    by_contra some
    have := h.handedActive some
    rw [idle] at this; cases this
  obtain ⟨phase, planeValid, levels, settle, gap, exposure, extension, timeout, readout, record, ingest, held, clearing, active,
    pending, behindIngest, behindRender, subframe, armed, handed, handedActive⟩ := h
  constructor <;> simp_all [grantRender]

/-- A render is taken while ingest holds the plane. -/
theorem Loose.waits (h : x.Loose) (idle : x.render = .idle) (held : x.holder = .ingest) :
    Loose { x with render := .pending, waiting := .render } := by
  have waiting : x.waiting = .none := by
    cases waits : x.waiting with
    | none => rfl
    | ingest => exact absurd (h.behindRender waits) (by rw [held]; exact nofun)
    | render => exact absurd (h.pending.mpr waits) (by rw [idle]; exact nofun)
  obtain ⟨phase, planeValid, levels, settle, gap, exposure, extension, timeout, readout, record, ingest, hold, clearing, active,
    pending, behindIngest, behindRender, subframe, armed, handed, handedActive⟩ := h
  constructor <;> simp_all

theorem Loose.kind (h : x.Loose) (k : RenderKind) : Loose { x with kind := k } := { h with }

/-- A FINAL request that the Sequencer holds or makes, at its handing over (R20, R133, R134, R144). -/
theorem Loose.requestFinal (h : x.Loose) (idle : x.render = .idle) (take : x.take = .finishing) (none : x.finalHeld = false) :
    x.requestFinal.Coherent := by
  have free := h.holder_free idle (by rw [take]; exact nofun) (by rw [take]; exact nofun)
  unfold Stand.requestFinal
  split
  · have granted := (h.kind .final).granted idle free
    unfold takeRender
    rw [if_pos free]
    exact { granted with
      finalHeld := fun held => absurd held (by simp [grantRender, none])
      finalInHand := fun _ _ => .inl take
      finishing := fun _ => .inr ⟨nofun, rfl⟩ }
  · have valid : x.planeValid = TakeState.planeValid .complete := by rw [h.planeValid, take]; rfl
    have entered := (h.kind .final).enterTake (t := .complete) (by simp [take]) (by simp [take]) nofun nofun rfl valid
    exact { entered with
      finalHeld := fun held => absurd held (by simp [Stand.enterTake, none])
      finalInHand := fun hand => absurd idle hand
      finishing := nofun }

/-- The take behind a render that has left: the Sequencer's FINAL leads to t, and otherwise a FINAL request held is handed over
(R20, R133, R141, R142). -/
theorem Loose.concluded (h : x.Loose) (idle : x.render = .idle) {final : Bool} {t : TakeState} (last : t = .complete ∨ t = .finished)
    (mine : final = true → x.take = .finishing ∧ x.finalHeld = false) (other : final = false → x.take = .finishing → x.finalHeld = true)
    (held : x.finalHeld = true → x.take = .finishing) :
    (handHeldFinal (if final then x.enterTake t .none else x)).Coherent := by
  cases final with
  | true =>
    obtain ⟨take, none⟩ := mine rfl
    have valid : x.planeValid = t.planeValid := by rw [h.planeValid, take]; rcases last with rfl | rfl <;> rfl
    have entered := h.enterTake (t := t) (by simp [take]) (by simp [take]) (by rcases last with rfl | rfl <;> exact nofun)
      (by rcases last with rfl | rfl <;> exact nofun) (by rcases last with rfl | rfl <;> rfl) valid
    have unasked : ¬ ((x.enterTake t .none).finalHeld = true ∧ (x.enterTake t .none).render = .idle) := by
      simp [Stand.enterTake, none]
    rw [if_pos rfl, handHeldFinal, if_neg unasked]
    exact { entered with
      finalHeld := fun held => absurd held (by simp [Stand.enterTake, none])
      finalInHand := fun hand => absurd idle hand
      finishing := fun take => by rcases last with rfl | rfl <;> cases take }
  | false =>
    rw [if_neg Bool.false_ne_true, handHeldFinal]
    split
    · rename_i asked
      have loose : Loose { x with finalHeld := false } := { h with }
      exact loose.requestFinal idle (held asked.1) rfl
    · rename_i unasked
      have none : ¬ x.finalHeld = true := fun asked => unasked ⟨asked, idle⟩
      exact { h with
        finalHeld := fun asked => absurd asked none
        finalInHand := fun hand => absurd idle hand
        finishing := fun take => absurd (other rfl take) none }

/-- What the take state and the FINAL request are when a render in hand leaves. -/
theorem Coherent.leaving (h : x.Coherent) :
    (x.sequencerFinal = true → x.take = .finishing ∧ x.finalHeld = false)
      ∧ (x.sequencerFinal = false → x.take = .finishing → x.finalHeld = true) ∧ (x.finalHeld = true → x.take = .finishing) := by
  refine ⟨fun mine => ?_, fun other take => ?_, fun held => (h.finalHeld held).1⟩
  · obtain ⟨kind, take⟩ := of_decide_eq_true mine
    refine ⟨take, ?_⟩
    by_contra held
    have preview := (h.finalHeld (Bool.not_eq_false _ ▸ held)).2.2
    rw [kind] at preview; cases preview
  · rcases h.finishing take with held | ⟨_, kind⟩
    · exact held
    · exact absurd ⟨kind, take⟩ (of_decide_eq_false other)

/-- What a release of the plane leaves of the take, the render and the FINAL request, where no render waits. -/
theorem releasePlane_keeps (waits : x.waiting ≠ .render) : x.releasePlane.render = x.render ∧ x.releasePlane.take = x.take
    ∧ x.releasePlane.finalHeld = x.finalHeld ∧ x.releasePlane.kind = x.kind ∧ x.releasePlane.locked = x.locked := by
  unfold releasePlane
  cases waiting : x.waiting with
  | render => exact absurd waiting waits
  | ingest => exact ⟨rfl, rfl, rfl, rfl, rfl⟩
  | none => exact ⟨rfl, rfl, rfl, rfl, rfl⟩

theorem Loose.no_render_waits (h : x.Loose) (active : x.render = .active) : x.waiting ≠ .render := fun waits => by
  have holder := h.behindIngest waits
  rw [h.active.mp active] at holder; cases holder

theorem Coherent.abandonRender (h : x.Coherent) {r : AbandonReason} (abort : r ≠ .abort) (reset : r ≠ .partReset) :
    (x.abandonRender r).Coherent := by
  have leads : ∀ final : Bool, (final && decide (r ≠ .abort) && decide (r ≠ .partReset)) = final := by
    intro final; simp [abort, reset]
  unfold Stand.abandonRender Stand.afterAbandonment
  simp only [leads]
  cases state : x.render with
  | idle => exact h
  | pending =>
    obtain ⟨mine, other, held⟩ := h.leaving
    exact (h.toLoose.withdrawn state).concluded rfl (.inl rfl) mine other held
  | active =>
    obtain ⟨mine, other, held⟩ := h.leaving
    obtain ⟨render, take, final, _, _⟩ :=
      releasePlane_keeps (x := { x with render := .idle, handed := 0 }) (h.toLoose.no_render_waits state)
    refine (h.toLoose.released state).concluded render (.inl rfl) ?_ ?_ ?_ <;> rw [take, final] <;> assumption

/-- A render completes when its last LINE has gone (R141). -/
theorem Coherent.completeRender (h : x.Coherent) (active : x.render = .active) (gone : x.handed = 0) : x.completeRender.Coherent := by
  obtain ⟨mine, other, held⟩ := h.leaving
  have same : ({ x with render := .idle } : Stand) = { x with render := .idle, handed := 0 } := by rw [← gone]
  obtain ⟨render, take, final, _, _⟩ :=
    releasePlane_keeps (x := { x with render := .idle, handed := 0 }) (h.toLoose.no_render_waits active)
  unfold Stand.completeRender
  simp only [same]
  refine (h.toLoose.released active).concluded render (.inr rfl) ?_ ?_ ?_ <;> rw [take, final] <;> assumption

/-- A render request is taken where the Render Unit is IDLE; a FINAL one only of a FINISHED take (R131 to R134). -/
theorem Coherent.takeRender (h : x.Coherent) (idle : x.render = .idle) {k : RenderKind}
    (final : k = .final → x.take = .finished) (open_ : x.holder ≠ .clearing) : (x.takeRender k).Coherent := by
  have none : x.finalHeld = false := by
    by_contra held
    exact (h.finalHeld (Bool.not_eq_false _ ▸ held)).2.1 idle
  have other : x.take ≠ .finishing := fun take => by
    rcases h.finishing take with held | ⟨hand, _⟩
    · rw [none] at held; cases held
    · exact hand idle
  unfold Stand.takeRender
  split
  · rename_i free
    exact { (h.toLoose.kind k).granted idle free with
      finalHeld := fun held => absurd held (by simp [grantRender, none])
      finalInHand := fun _ kind => .inr (final kind)
      finishing := fun take => absurd take other }
  · rename_i busy
    have ingest : x.holder = .ingest := by
      cases holder : x.holder with
      | none => exact absurd holder busy
      | clearing => exact absurd holder open_
      | ingest => rfl
      | render => have := h.active.mpr holder; rw [idle] at this; cases this
    exact { (h.toLoose.kind k).waits idle ingest with
      finalHeld := fun held => absurd held (by simp [none])
      finalInHand := fun _ kind => .inr (final kind)
      finishing := fun take => absurd take other }

/-- A COMPLETE take becomes FINISHING (R20). -/
theorem Coherent.enterFinishing (h : x.Coherent) (take : x.take = .complete) : x.enterFinishing.Coherent := by
  have none : x.finalHeld = false := by
    by_contra held
    have := (h.finalHeld (Bool.not_eq_false _ ▸ held)).1
    rw [take] at this; cases this
  have entered := h.toLoose.enterTake (t := .finishing) (by simp [take]) (by simp [take]) nofun nofun rfl
    (by rw [h.planeValid, take]; rfl)
  unfold Stand.enterFinishing
  split
  · rename_i idle
    exact entered.requestFinal idle rfl none
  · rename_i hand
    have preview : x.kind = .preview := by
      cases kind : x.kind with
      | preview => rfl
      | final => rcases h.finalInHand hand kind with e | e <;> rw [take] at e <;> cases e
    exact { entered with
      finalHeld := fun _ => ⟨rfl, hand, preview⟩
      finalInHand := fun _ _ => .inl rfl
      finishing := fun _ => .inl rfl }

/-- A take outside RUNNING and CLEARING becomes COMPLETE, as at a stop in PAUSED (R19). -/
theorem Coherent.enterComplete (h : x.Coherent) (take : x.take = .paused) : (x.enterTake .complete .none).Coherent := by
  have entered := h.toLoose.enterTake (t := .complete) (by simp [take]) (by simp [take]) nofun nofun rfl
    (by rw [h.planeValid, take]; rfl)
  exact { entered with
    finalHeld := fun held => absurd (h.finalHeld held).1 (by simp [take])
    finalInHand := fun hand kind => by rcases h.finalInHand hand kind with e | e <;> rw [take] at e <;> cases e
    finishing := nofun }

/-! The phases (R1, R7 to R12, R17 to R21, R107). -/

/-- Nothing of a subframe is in hand: no phase timer, no open record, no readout; the plane is free or a render's, and no claim
waits. The take state, the phase and the FINAL request are left open. -/
structure Parked (x : Stand) : Prop where
  settle : x.settle = false
  gap : x.gap = false
  exposure : x.exposure = false
  extension : x.extension = false
  timeout : x.timeout = false
  readout : x.readout = false
  record : x.record = false
  subframe : x.subframe = false
  armed : x.armed = false
  holder : x.holder = .none ∨ x.holder = .render
  waiting : x.waiting = .none
  active : x.render = .active ↔ x.holder = .render
  pending : x.render ≠ .pending
  handed : x.handed ≤ boolCode x.rowHanded
  handedActive : x.handed ≠ 0 → x.render = .active

theorem Coherent.running (h : x.Coherent) (phase : x.phase ≠ .none) : x.take = .running := by
  by_contra other; exact phase (h.phase.mpr other)

/-- In a phase without exposure and readout, whatever the take, a stand is so once its timers are cancelled. -/
theorem Coherent.parked (h : x.Coherent) (phase : x.phase = .none ∨ x.phase = .stepStart ∨ x.phase = .wait)
    (pass : x.take ≠ .clearing) : x.cancelWork.Parked := by
  have holder : x.holder = .none ∨ x.holder = .render := by
    have ingest := h.ingest
    have clearing := h.clearing
    cases held : x.holder with
    | none => exact .inl rfl
    | clearing => exact absurd (clearing.mp held) pass
    | ingest => rcases ingest.mp held with e | e <;> simp [e] at phase
    | render => exact .inr rfl
  have waiting : x.waiting = .none := by
    cases waits : x.waiting with
    | none => rfl
    | ingest => simp [h.held.mp waits] at phase
    | render => simp [h.behindIngest waits] at holder
  obtain ⟨⟨_, _, _, settle, gap, exposure, extension, timeout, readout, record, _, _, _, active, pending, _, _, subframe, armed,
    handed, handedActive⟩, _⟩ := h
  rcases phase with e | e | e <;> constructor <;> simp_all [cancelWork]

/-- A CLEARING pass that is stopped (R88). -/
theorem Coherent.stopped (h : x.Coherent) (take : x.take = .clearing) : x.free.Parked := by
  have holder := h.clearing.mpr take
  have phase := h.phase.mpr (by simp [take])
  obtain ⟨⟨_, _, _, settle, gap, exposure, extension, timeout, readout, record, _, held, _, active, pending, behindIngest, _, subframe,
    armed, handed, handedActive⟩, _⟩ := h
  have waiting : x.waiting = .none := by
    cases waits : x.waiting with
    | none => rfl
    | ingest => simp [phase] at held; exact absurd waits held
    | render => simp [behindIngest waits] at holder
  constructor <;> simp_all [free]

section
variable (p : x.Parked)
include p

/-- Its take enters a state outside RUNNING and CLEARING. -/
theorem Parked.leaves {t : TakeState} (running : t ≠ .running) (clearing : t ≠ .clearing) (valid : x.planeValid = t.planeValid) :
    (x.enterTake t .none).Loose := by
  obtain ⟨settle, gap, exposure, extension, timeout, readout, record, subframe, armed, holder, waiting, active, pending, handed,
    handedActive⟩ := p
  constructor <;> simp_all [Stand.enterTake]
  · rcases holder with e | e <;> simp [e]
  · rcases holder with e | e <;> simp [e]

/-- The take is ABORTED (R21, R143). -/
theorem Parked.enterAborted : x.enterAborted.Coherent := by
  obtain ⟨settle, gap, exposure, extension, timeout, readout, record, subframe, armed, holder, waiting, active, pending, handed,
    handedActive⟩ := p
  cases state : x.render with
  | pending => exact absurd state pending
  | idle =>
    have free : x.holder = .none := holder.resolve_right fun e => by simp [active.mpr e] at state
    have nothing : x.handed = 0 := by by_contra some; simp [handedActive some] at state
    unfold Stand.enterAborted Stand.abandonRender
    simp only [state]
    constructor
    · constructor <;> simp_all [Stand.enterTake, TakeState.planeValid, TakeState.keepsLevels]
    all_goals simp_all [Stand.enterTake]
  | active =>
    unfold Stand.enterAborted Stand.abandonRender
    simp only [state]
    unfold Stand.afterAbandonment handHeldFinal releasePlane
    constructor
    · constructor <;> simp_all [Stand.enterTake, Stand.free, TakeState.planeValid, TakeState.keepsLevels]
    all_goals simp_all [Stand.enterTake, Stand.free]

end

/-- A RUNNING take between two subframes, or before its first; the phase is left open. -/
structure Between (x : Stand) : Prop extends Parked x where
  take : x.take = .running
  planeValid : x.planeValid = true
  finalHeld : x.finalHeld = false
  kind : x.render ≠ .idle → x.kind = .preview

/-- A RUNNING take in STEP_START or WAIT stands so, once its timers are cancelled. -/
theorem Coherent.between (h : x.Coherent) (phase : x.phase = .stepStart ∨ x.phase = .wait) : x.cancelWork.Between := by
  have take := h.running (by rcases phase with e | e <;> rw [e] <;> exact nofun)
  refine { h.parked (.inr phase) (by rw [take]; exact nofun) with take := take, planeValid := ?_, finalHeld := ?_, kind := ?_ }
  · exact h.planeValid.trans (by rw [take]; rfl)
  · by_contra held
    simpa [take] using (h.finalHeld (Bool.not_eq_false _ ▸ held)).1
  · intro hand
    cases kind : x.kind with
    | preview => exact kind
    | final => rcases h.finalInHand hand kind with e | e <;> simp [take] at e

section
variable (b : x.Between)
include b

theorem Between.waits (gap : Bool) : Coherent { x with phase := .wait, gap := gap } := by
  obtain ⟨⟨settle, _, exposure, extension, timeout, readout, record, subframe, armed, holder, waiting, active, pending, handed,
    handedActive⟩, take, valid, final, kind⟩ := b
  constructor
  · constructor <;> simp_all [TakeState.planeValid, TakeState.keepsLevels]
    · rcases holder with e | e <;> simp [e]
    · rcases holder with e | e <;> simp [e]
  all_goals simp_all

theorem Between.exposes : x.exposed.Coherent := by
  obtain ⟨⟨settle, _, exposure, extension, timeout, readout, record, subframe, armed, holder, waiting, active, pending, handed,
    handedActive⟩, take, valid, final, kind⟩ := b
  constructor
  · constructor <;> simp_all [TakeState.planeValid, TakeState.keepsLevels, exposed]
    · rcases holder with e | e <;> simp [e]
    · rcases holder with e | e <;> simp [e]
  all_goals simp_all [exposed]

theorem Between.starts (settles shutter level : Bool) :
    Coherent { x with phase := .stepStart, settle := settles, shutter := shutter, stepLevel := level } := by
  obtain ⟨⟨_, gap, exposure, extension, timeout, readout, record, subframe, armed, holder, waiting, active, pending, handed,
    handedActive⟩, take, valid, final, kind⟩ := b
  constructor
  · constructor <;> simp_all [TakeState.planeValid, TakeState.keepsLevels]
    · rcases holder with e | e <;> simp [e]
    · rcases holder with e | e <;> simp [e]
  all_goals simp_all

/-- The take is PAUSED or COMPLETE. -/
theorem Between.leaves {t : TakeState} (last : t = .paused ∨ t = .complete) : (x.enterTake t .none).Coherent := by
  have loose : (x.enterTake t .none).Loose :=
    b.toParked.leaves (by rcases last with rfl | rfl <;> exact nofun) (by rcases last with rfl | rfl <;> exact nofun)
      (by rw [b.planeValid]; rcases last with rfl | rfl <;> rfl)
  exact { loose with
    finalHeld := fun held => absurd held (by simp [Stand.enterTake, b.finalHeld])
    finalInHand := fun hand kind => absurd (b.kind hand) (by rw [show x.kind = .final from kind]; exact nofun)
    finishing := fun take => by rcases last with rfl | rfl <;> cases take }

end

/-- READOUT ends (R12, R55). -/
theorem Coherent.endReadout (h : x.Coherent) (phase : x.phase = .readout) : x.endReadout.Coherent := by
  have take := h.running (by rw [phase]; exact nofun)
  obtain ⟨⟨_, planeValid, levels, settle, gap, exposure, extension, timeout, readout, record, ingest, held, clearing, active, pending,
    behindIngest, behindRender, subframe, armed, handed, handedActive⟩, finalHeld, finalInHand, finishing⟩ := h
  constructor
  · constructor <;> simp_all [Stand.endReadout]
  all_goals simp_all [Stand.endReadout]

/-- The plane is granted to ingest at the end of the exposure (R10, R107). -/
theorem Coherent.grantIngest (h : x.Coherent) (phase : x.phase = .expose) (free : x.holder = .none) : x.grantIngest.Coherent := by
  have take := h.running (by rw [phase]; exact nofun)
  obtain ⟨⟨_, planeValid, levels, settle, gap, exposure, extension, timeout, readout, record, ingest, held, clearing, active, pending,
    behindIngest, behindRender, subframe, armed, handed, handedActive⟩, finalHeld, finalInHand, finishing⟩ := h
  constructor
  · constructor <;> simp_all [Stand.grantIngest]
  all_goals simp_all [Stand.grantIngest]

/-- HOLD behind a render (R11). -/
theorem Coherent.hold (h : x.Coherent) (phase : x.phase = .expose) (busy : x.holder ≠ .none) (timer : x.exposure = false)
    (limit : Bool) : Coherent { x with phase := .hold, extension := limit, waiting := .ingest } := by
  have take := h.running (by rw [phase]; exact nofun)
  have holder : x.holder = .render := by
    have ingest := h.ingest
    have clearing := h.clearing
    cases held : x.holder with
    | none => exact absurd held busy
    | clearing => simp [clearing.mp held] at take
    | ingest => simp [phase, held] at ingest
    | render => rfl
  obtain ⟨⟨_, planeValid, levels, settle, gap, exposure, extension, timeout, readout, record, ingest, held, clearing, active, pending,
    behindIngest, behindRender, subframe, armed, handed, handedActive⟩, finalHeld, finalInHand, finishing⟩ := h
  have unpending : x.render ≠ .pending := fun waits => by simp [holder] at active; simp [active] at waits
  constructor
  · constructor <;> simp_all
  all_goals simp_all

/-- An exposure that an abort cuts stands in SETTLE, the render that held the plane abandoned (R21, R107). -/
theorem Coherent.cut (h : x.Coherent) (phase : x.phase = .expose ∨ x.phase = .hold) :
    Coherent { Stand.abandonRender .abort
      { x with exposure := false, extension := false, armed := false, phase := .settle, waiting := .none } with
      holder := .ingest } := by
  have take := h.running (by rcases phase with e | e <;> rw [e] <;> exact nofun)
  have waiting : x.waiting ≠ .render := fun waits => by
    have ingest := h.ingest.mp (h.behindIngest waits)
    rcases phase with e | e <;> simp [e] at ingest
  obtain ⟨⟨_, planeValid, levels, settle, gap, exposure, extension, timeout, readout, record, ingest, held, clearing, active, pending,
    behindIngest, behindRender, subframe, armed, handed, handedActive⟩, finalHeld, finalInHand, finishing⟩ := h
  have early : x.timeout = false := by by_contra some; have := timeout (by simpa using some); simp [this] at phase
  have unsettled : x.settle = false := by by_contra some; have := settle (by simpa using some); simp [this] at phase
  have ungapped : x.gap = false := by by_contra some; have := gap (by simpa using some); simp [this] at phase
  have unread : x.readout = false := by by_contra some; have := readout.mp (by simpa using some); simp [this] at phase
  have recorded : x.record = true := record.mpr (by rcases phase with e | e <;> simp [e])
  have unheld : x.finalHeld = false := by by_contra some; have := (finalHeld (by simpa using some)).1; simp [take] at this
  have preview : x.render ≠ .idle → x.kind ≠ .final := fun hand kind => by simpa [take] using finalInHand hand kind
  unfold Stand.abandonRender
  cases state : x.render with
  | pending => exact absurd (pending.mp state) waiting
  | idle =>
    simp only
    constructor
    · constructor <;> simp_all
    all_goals simp_all
  | active =>
    simp only
    unfold Stand.afterAbandonment handHeldFinal releasePlane
    constructor
    · constructor <;> simp_all [Stand.free]
    all_goals simp_all [Stand.free]

/-- A close in SETTLE: the record has been closed, the plane not yet released. -/
structure Closing (x : Stand) : Prop where
  take : x.take = .running
  planeValid : x.planeValid = true
  timers : x.settle = false ∧ x.gap = false ∧ x.exposure = false ∧ x.extension = false ∧ x.timeout = false
  readout : x.readout = false ∧ x.subframe = false ∧ x.armed = false ∧ x.record = false
  finalHeld : x.finalHeld = false
  claim : x.render = .idle ∧ x.waiting = .none ∨ x.render = .pending ∧ x.waiting = .render ∧ x.kind = .preview
  handed : x.handed = 0

theorem Coherent.closing (h : x.Coherent) (phase : x.phase = .settle) : Closing { x with record := false } := by
  have take := h.running (by rw [phase]; exact nofun)
  have holder := h.ingest.mpr (.inr phase)
  obtain ⟨⟨_, planeValid, levels, settle, gap, exposure, extension, timeout, readout, record, ingest, held, clearing, active, pending,
    behindIngest, behindRender, subframe, armed, handed, handedActive⟩, finalHeld, finalInHand, finishing⟩ := h
  have inactive : x.render ≠ .active := fun state => by simp [active.mp state] at holder
  have nothing : x.handed = 0 := by by_contra some; exact inactive (handedActive some)
  have claim : x.render = .idle ∧ x.waiting = .none ∨ x.render = .pending ∧ x.waiting = .render ∧ x.kind = .preview := by
    cases state : x.render with
    | active => exact absurd state inactive
    | idle =>
      cases waits : x.waiting with
      | none => exact .inl ⟨rfl, rfl⟩
      | ingest => simp [phase] at held; exact absurd waits held
      | render => simp [pending.mpr waits] at state
    | pending =>
      cases kind : x.kind with
      | preview => exact .inr ⟨rfl, pending.mp state, rfl⟩
      | final => simpa [take] using finalInHand (by simp [state]) kind
  constructor <;> simp_all [TakeState.planeValid]

/-- With an abort pending a render that waits is abandoned (R13). -/
theorem Closing.dropped (c : x.Closing) : Stand.abandonRender .abort x = { x with render := .idle, waiting := .none } := by
  have none : x.finalHeld = false := c.finalHeld
  unfold Stand.abandonRender
  rcases c.claim with ⟨state, waits⟩ | ⟨state, waits, _⟩
  · simp only [state]
    cases x
    simp_all
  · simp [state, Stand.afterAbandonment, Stand.handHeldFinal, none]

/-- The plane is released: to a render that waits, and otherwise it is free (R13, R108). -/
theorem Closing.released (c : x.Closing) : x.releasePlane.Between := by
  obtain ⟨take, valid, ⟨settle, gap, exposure, extension, timeout⟩, ⟨readout, subframe, armed, record⟩, final, claim, handed⟩ := c
  unfold Stand.releasePlane
  rcases claim with ⟨state, waits⟩ | ⟨state, waits, kind⟩
  · simp only [waits]
    constructor
    · constructor <;> simp_all [Stand.free]
    all_goals simp_all [Stand.free]
  · simp only [waits]
    constructor
    · constructor <;> simp_all [Stand.grantRender]
    all_goals simp_all [Stand.grantRender]

/-- Behind the close of the record the plane is released: to a render that waits, but where an abort is pending (R13, R108). -/
theorem Closing.settled (c : x.Closing) (abort : Bool) :
    (releasePlane (if abort then Stand.abandonRender .abort x else x)).Between := by
  cases abort with
  | false => exact c.released
  | true =>
    have dropped : Closing { x with render := .idle, waiting := .none } := { c with claim := .inl ⟨rfl, rfl⟩ }
    rw [if_pos rfl, c.dropped]
    exact dropped.released

/-! The beginning and the end of a take (R5, R6, R18, R22, R190). -/

/-- A take that is PAUSED resumes (R18). -/
theorem Coherent.resumed (h : x.Coherent) (take : x.take = .paused) (phase : Phase) : (x.enterTake .running phase).Between := by
  have parked := h.parked (.inl (h.phase.mpr (by simp [take]))) (by simp [take])
  have settle : x.settle = false := by
    by_contra some
    have := h.settle (by simpa using some)
    rw [h.phase.mpr (by simp [take])] at this; cases this
  have gap : x.gap = false := by
    by_contra some
    have := h.gap (by simpa using some)
    rw [h.phase.mpr (by simp [take])] at this; cases this
  refine { parked with
    settle := settle, gap := gap, take := rfl, planeValid := h.planeValid.trans (by rw [take]; rfl), finalHeld := ?_, kind := ?_ }
  · change x.finalHeld = false
    by_contra held
    simpa [take] using (h.finalHeld (by simpa using held)).1
  · intro hand
    change x.kind = .preview
    cases kind : x.kind with
    | preview => rfl
    | final => simpa [take] using h.finalInHand hand kind

/-- The CLEARING pass is complete, and the take RUNNING (R6). -/
theorem Coherent.begun (h : x.Coherent) (take : x.take = .clearing) (phase : Phase) :
    Between (Stand.enterTake .running phase { x with holder := .none, planeValid := true }) := by
  have stopped := h.stopped take
  have idle : x.render = .idle := by
    cases state : x.render with
    | idle => rfl
    | active => exact absurd (stopped.active.mp state) nofun
    | pending => exact absurd state stopped.pending
  refine { stopped with take := rfl, planeValid := rfl, finalHeld := ?_, kind := fun hand => absurd idle hand }
  change x.finalHeld = false
  by_contra held
  simpa [take] using (h.finalHeld (by simpa using held)).1

/-- TAKE_START is accepted (R5). -/
theorem Coherent.started (h : x.Coherent) (take : x.take.unfixed = true) (idle : x.render = .idle) :
    Coherent (Stand.enterTake .clearing .none { x with planeValid := false, record := false, holder := .clearing }) := by
  have was : x.take ≠ .running ∧ x.take ≠ .finishing ∧ x.take ≠ .clearing := by
    refine ⟨?_, ?_, ?_⟩ <;> intro e <;> simp [e, TakeState.unfixed] at take
  have phase := h.phase.mpr was.1
  have parked := h.parked (.inl phase) was.2.2
  have free := h.toLoose.holder_free idle was.1 was.2.2
  obtain ⟨settle, gap, exposure, extension, timeout, readout, record, subframe, armed, holder, waiting, active, pending, handed,
    handedActive⟩ := parked
  have nothing : x.handed = 0 := by by_contra some; simpa [idle] using h.handedActive some
  have unheld : x.finalHeld = false := by by_contra held; exact (h.finalHeld (by simpa using held)).2.1 idle
  have unsettled : x.settle = false := by by_contra some; simpa [phase] using h.settle (by simpa using some)
  have ungapped : x.gap = false := by by_contra some; simpa [phase] using h.gap (by simpa using some)
  constructor
  · constructor <;> simp_all [Stand.enterTake, cancelWork, TakeState.planeValid, TakeState.keepsLevels]
  all_goals simp_all [Stand.enterTake, cancelWork]

/-- TAKE_CLEAR forgets the take (R22). -/
theorem Coherent.forgotten (h : x.Coherent) (take : x.take.clearable = true) (idle : x.render = .idle) :
    Coherent (Stand.enterTake .noTake .none { x with planeValid := false, record := false }) := by
  have was : x.take ≠ .running ∧ x.take ≠ .finishing ∧ x.take ≠ .clearing := by
    refine ⟨?_, ?_, ?_⟩ <;> intro e <;> simp [e, TakeState.clearable] at take
  have phase := h.phase.mpr was.1
  have parked : Parked { x with planeValid := false, record := false } := by
    have settle : x.settle = false := by by_contra some; simpa [phase] using h.settle (by simpa using some)
    have gap : x.gap = false := by by_contra some; simpa [phase] using h.gap (by simpa using some)
    exact { h.parked (.inl phase) was.2.2 with settle := settle, gap := gap, record := rfl }
  have unheld : x.finalHeld = false := by by_contra held; exact (h.finalHeld (by simpa using held)).2.1 idle
  exact { parked.leaves (t := .noTake) nofun nofun rfl with
    finalHeld := fun held => absurd held (by simp [Stand.enterTake, unheld])
    finalInHand := fun hand => absurd idle hand
    finishing := nofun }

/-- The render that PART_RESET abandons leaves nothing in hand (R142, R145). -/
theorem reset_render (handed : x.handed ≠ 0 → x.render = .active) (r : AbandonReason) (reset : r = .partReset) :
    (Stand.abandonRender r { x with finalHeld := false, waiting := .none }).render = .idle
      ∧ (Stand.abandonRender r { x with finalHeld := false, waiting := .none }).handed = 0 := by
  subst reset
  unfold Stand.abandonRender
  cases state : x.render with
  | idle => simp_all
  | pending => simp_all [Stand.afterAbandonment, handHeldFinal]
  | active => simp_all [Stand.afterAbandonment, handHeldFinal, releasePlane, Stand.free]

/-- Nothing in hand, no take, and every block reset (R190). -/
theorem coherent_of_reset (take : x.take = .noTake) (phase : x.phase = .none) (valid : x.planeValid = false)
    (levels : x.shutter = false ∧ x.stepLevel = false) (held : x.finalHeld = false)
    (timers : x.settle = false ∧ x.gap = false ∧ x.exposure = false ∧ x.extension = false ∧ x.timeout = false)
    (readout : x.readout = false ∧ x.subframe = false ∧ x.armed = false ∧ x.record = false)
    (plane : x.holder = .none ∧ x.waiting = .none) (render : x.render = .idle ∧ x.handed = 0) : x.Coherent := by
  obtain ⟨settle, gap, exposure, extension, timeout⟩ := timers
  obtain ⟨unread, subframe, armed, record⟩ := readout
  obtain ⟨holder, waiting⟩ := plane
  obtain ⟨idle, handed⟩ := render
  constructor
  · constructor <;> simp_all [TakeState.planeValid]
  all_goals simp_all

/-! Lines handed over, and the lock (R140, R170). -/

theorem Coherent.fewer (h : x.Coherent) {n : Nat} (fewer : n ≤ x.handed) (locked : Bool) :
    Coherent { x with handed := n, locked := locked } :=
  { h with
    handed := fewer.trans h.handed
    handedActive := fun some => h.handedActive fun none => some (Nat.le_zero.mp (none ▸ fewer)) }

theorem Coherent.one_more (h : x.Coherent) (active : x.render = .active) (free : x.rowHanded = false) :
    Coherent { x with handed := x.handed + 1, rowHanded := true } := by
  have nothing : x.handed = 0 := Nat.le_zero.mp (by simpa [free, boolCode] using h.handed)
  exact { h with handed := by simp [nothing, boolCode], handedActive := fun _ => active }

end
end Stand

/-! ### Every event keeps the blocks in step -/

theorem Coherent.stand {s : State} (h : Coherent s) : (standOf s).Coherent := (coherent_iff_stand s).mp h

/-- A state whose stand is known. -/
theorem coherent_of_stand_eq {s : State} {x : Stand} (same : standOf s = x) (h : x.Coherent) : Coherent s :=
  (coherent_iff_stand s).mpr (same ▸ h)

@[simp] theorem stand_joinReply (p : QueuedPacket) (s : State) : standOf (joinReply p s) = standOf s := by
  rw [joinReply_frame]; rfl

@[simp] theorem stand_answer (r : Request) (st : Status) (p : List Byte) (s : State) : standOf (answer r st p s) = standOf s :=
  stand_joinReply _ s

@[simp] theorem stand_handFlow (f : FlowSymbol) (s : State) : standOf (handFlow f s) = standOf s := by
  rw [handFlow_frame]; rfl

@[simp] theorem stand_removeRequest (s : State) : standOf (removeRequest s) = standOf s := by
  unfold removeRequest markGo
  split
  · rw [stand_handFlow]; rfl
  · rfl

/-! #### STEP_START, WAIT and EXPOSE (R7 to R9) -/

theorem Stand.Between.of_stepStart {x : Stand} (b : x.Between) (phase : x.phase = .stepStart) : x.Coherent := by
  have again := b.starts x.settle x.shutter x.stepLevel
  rwa [← phase] at again

theorem Stand.Between.of_wait {x : Stand} (b : x.Between) (phase : x.phase = .wait) : x.Coherent := by
  have again := b.waits x.gap
  rwa [← phase] at again

theorem coherent_enterWait {s : State} (b : (standOf s).Between) (stays : currentStep s = none → Coherent s) :
    Coherent (enterWait s) := by
  cases step : currentStep s with
  | none => rw [enterWait_of_no_step step]; exact stays step
  | some st =>
    rcases stand_enterWait step with ⟨g, same⟩ | same
    · exact coherent_of_stand_eq same (b.waits g)
    · exact coherent_of_stand_eq same b.exposes

/-- WAIT ends (R9). -/
theorem coherent_enterExpose_of_wait {s : State} (h : Coherent s) (phase : s.seq.phase = .wait) : Coherent (enterExpose s) := by
  cases step : currentStep s with
  | none => rw [enterExpose_of_no_step step]; exact h
  | some st =>
    have settle : (standOf s).settle = false := by
      by_contra some
      have := h.stand.settle (by simpa using some)
      rw [show (standOf s).phase = .wait from phase] at this; cases this
    have exposes := (h.stand.between (.inr phase)).exposes
    refine coherent_of_stand_eq (stand_enterExpose step) ?_
    rwa [show (standOf s).cancelWork.exposed = (standOf s).exposed by
      unfold Stand.cancelWork Stand.exposed; rw [← settle]] at exposes

/-- In STEP_START and WAIT a stand without a timer of its phase is between two subframes. -/
theorem Coherent.between_of_no_timer {s : State} (h : Coherent s) (phase : s.seq.phase = .stepStart ∨ s.seq.phase = .wait)
    (settle : s.seq.settleTimer = none) (gap : s.seq.gapTimer = none) : (standOf s).Between := by
  have cancelled : (standOf s).cancelWork = standOf s := by
    change { standOf s with settle := false, gap := false } = standOf s
    simp [standOf, settle, gap]
  rw [← cancelled]
  exact h.stand.between phase

theorem Coherent.no_gap {s : State} (h : Coherent s) (phase : s.seq.phase ≠ .wait) : s.seq.gapTimer = none := by
  by_contra some; exact phase (h.gapTimer some)

theorem Coherent.no_settle {s : State} (h : Coherent s) (phase : s.seq.phase ≠ .stepStart) : s.seq.settleTimer = none := by
  by_contra some; exact phase (h.settleTimer some)

theorem coherent_tryEndStepStart {s : State} (h : Coherent s) : Coherent (tryEndStepStart s) := by
  unfold tryEndStepStart
  split
  · rename_i ends
    obtain ⟨phase, settle, _⟩ := ends
    exact coherent_enterWait (h.between_of_no_timer (.inl phase) settle (h.no_gap (by rw [phase]; exact nofun))) fun _ => h
  · exact h

theorem coherent_enterStepStart {s : State} (settles : Bool) (b : (standOf s).Between)
    (stays : currentStep s = none → Coherent s) : Coherent (enterStepStart settles s) := by
  unfold enterStepStart
  split
  · exact stays ‹_›
  · rename_i st step
    refine coherent_tryEndStepStart ((coherent_iff_stand _).mpr ?_)
    rw [stand_arbitrate, stand_handScripts]
    exact b.starts _ _ _

/-! #### The take commands (R17 to R22) -/

theorem Phase.actsAtOnce_iff (p : Phase) : p.actsAtOnce = true ↔ p = .stepStart ∨ p = .wait := by cases p <;> simp [Phase.actsAtOnce]

theorem coherent_pauseTake {s : State} (h : Coherent s) : Coherent (pauseTake s) := by
  have leaves : s.seq.phase = .stepStart ∨ s.seq.phase = .wait → ((standOf s).cancelWork.enterTake .paused .none).Coherent :=
    fun phase => (h.stand.between phase).leaves (.inl rfl)
  unfold pauseTake
  split
  · split
    · rename_i phase
      exact coherent_of_stand_eq (stand_enterTake _ _ _) (leaves (.inl phase))
    · rename_i phase
      exact coherent_of_stand_eq (stand_enterTake _ _ _) (leaves (.inr phase))
    · exact h.of_stand rfl
  · exact h

theorem coherent_completeWork {s : State} (h : Coherent s) (phase : s.seq.phase.actsAtOnce = true) :
    Coherent (enterComplete (cancelWork s)) :=
  coherent_of_stand_eq (stand_enterComplete _) ((h.stand.between (s.seq.phase.actsAtOnce_iff.mp phase)).leaves (.inr rfl))

theorem coherent_completePaused {s : State} (h : Coherent s) (take : s.seq.takeState = .paused) : Coherent (enterComplete s) :=
  coherent_of_stand_eq (stand_enterComplete s) (h.stand.enterComplete take)

theorem coherent_stopTake {s : State} (h : Coherent s) : Coherent (stopTake s) := by
  unfold stopTake
  split
  · split
    · exact coherent_completeWork h ‹_›
    · exact h.of_stand rfl
  · exact coherent_completePaused h ‹_›
  · exact h

theorem coherent_enterFinishing {s : State} (h : Coherent s) (take : s.seq.takeState = .complete) : Coherent (enterFinishing s) :=
  coherent_of_stand_eq (stand_enterFinishing s) (h.stand.enterFinishing take)

theorem takeState_enterComplete (s : State) : (enterComplete s).seq.takeState = .complete :=
  congrArg Stand.take (stand_enterComplete s)

theorem coherent_finishTake {s : State} (h : Coherent s) : Coherent (finishTake s) := by
  unfold finishTake
  split
  · split
    · exact coherent_enterFinishing (coherent_completeWork h ‹_›) (takeState_enterComplete _)
    · exact h.of_stand rfl
  · exact coherent_enterFinishing (coherent_completePaused h ‹_›) (takeState_enterComplete s)
  · exact coherent_enterFinishing h ‹_›
  · exact h

theorem coherent_resumeTake {s : State} (h : Coherent s) (take : s.seq.takeState = .paused) : Coherent (resumeTake s) := by
  have resumed : ∀ phase, (standOf (enterTake .running phase s)).Between := by
    intro phase
    rw [stand_enterTake]
    exact h.stand.resumed take phase
  have stepStart : Coherent (enterTake .running .stepStart s) :=
    (coherent_iff_stand _).mpr ((resumed .stepStart).of_stepStart (by rw [stand_enterTake]; rfl))
  have wait : Coherent (enterTake .running .wait s) :=
    (coherent_iff_stand _).mpr ((resumed .wait).of_wait (by rw [stand_enterTake]; rfl))
  unfold resumeTake
  split
  · exact coherent_enterStepStart _ (resumed _) fun _ => stepStart
  · exact coherent_enterWait (resumed _) fun _ => wait

theorem stand_cutExposure (s : State) : standOf (cutExposure s) = { Stand.abandonRender .abort
    { standOf s with exposure := false, extension := false, armed := false, phase := .settle, waiting := .none } with
    holder := .ingest } := by
  have released := stand_decideExposure (s.now - s.seq.exposeStart) (releaseExposure s)
  rw [stand_releaseExposure] at released
  have entered : ∀ u : State, standOf u = { standOf s with exposure := false, extension := false, armed := false } →
      standOf { abandonRender .abort { u with
          seq.phase := .settle, seq.lineTime := s.now - s.seq.exposeStart, seq.abortPending := true, seq.closeAbandoned := true,
          link.rowMap := [], arb.waiting := .none } with arb.holder := .ingest }
        = { Stand.abandonRender .abort
          { standOf s with exposure := false, extension := false, armed := false, phase := .settle, waiting := .none } with
          holder := .ingest } := by
    intro u same
    rw [← show standOf { u with
        seq.phase := .settle, seq.lineTime := s.now - s.seq.exposeStart, seq.abortPending := true, seq.closeAbandoned := true,
        link.rowMap := [], arb.waiting := .none } = _ from
      congrArg (fun x : Stand => ({ x with phase := .settle, waiting := .none } : Stand)) same, ← stand_abandonRender]
    rfl
  unfold cutExposure
  rw [stand_openDetector]
  exact entered _ released

/-- A take outside RUNNING and CLEARING, or a RUNNING one in STEP_START or WAIT with its work cancelled, is aborted. -/
theorem coherent_abortTake {s : State} (h : Coherent s) : Coherent (abortTake s) := by
  have parked : ∀ {u : State}, (standOf u).Parked → Coherent (enterAborted u) := fun p =>
    coherent_of_stand_eq (stand_enterAborted _) p.enterAborted
  have running : s.seq.phase = .stepStart ∨ s.seq.phase = .wait → Coherent (enterAborted (cancelWork s)) := fun phase =>
    parked (h.stand.between phase).toParked
  have cut : s.seq.phase = .expose ∨ s.seq.phase = .hold → Coherent (cutExposure s) := by
    intro phase
    exact coherent_of_stand_eq (stand_cutExposure s) (h.stand.cut phase)
  have idle : s.seq.takeState ≠ .running → s.seq.takeState ≠ .clearing → Coherent (enterAborted s) := by
    intro still pass
    have phase := h.phase.mpr still
    have cancelled : (standOf s).cancelWork = standOf s := by
      change { standOf s with settle := false, gap := false } = standOf s
      simp [standOf, h.no_settle (by rw [phase]; exact nofun), h.no_gap (by rw [phase]; exact nofun)]
    refine parked ?_
    rw [← cancelled]
    exact h.stand.parked (.inl phase) pass
  unfold abortTake
  split
  · exact h
  · exact h
  · rename_i take
    exact parked (h.stand.stopped take)
  · split
    · exact running (.inl ‹_›)
    · exact running (.inr ‹_›)
    · exact cut (.inl ‹_›)
    · exact cut (.inr ‹_›)
    · rename_i phase
      exact Coherent.of_stand (coherent_of_stand_eq (stand_endReadout s) (h.stand.endReadout phase)) rfl
    · exact h.of_stand rfl
  · rename_i notRunning
    exact idle notRunning ‹_›

theorem coherent_startTake {s : State} (h : Coherent s) (take : s.seq.takeState.unfixed = true) (idle : s.render.state = .idle) :
    Coherent (startTake s) :=
  coherent_of_stand_eq (stand_enterTake _ _ _) (h.stand.started take idle)

theorem coherent_clearTake {s : State} (h : Coherent s) (take : s.seq.takeState.clearable = true) (idle : s.render.state = .idle) :
    Coherent (clearTake s) :=
  coherent_of_stand_eq (stand_enterTake _ _ _) (h.stand.forgotten take idle)

/-! #### The requests -/

theorem Coherent.answered {s : State} (h : Coherent s) (r : Request) (st : Status) (p : List Byte) : Coherent (answer r st p s) :=
  h.of_stand (stand_answer r st p s)

/-- The take state and the Render Unit as the reply leaves them. -/
theorem fields_of_answer (r : Request) (st : Status) (p : List Byte) (s : State) :
    (answer r st p s).seq = s.seq ∧ (answer r st p s).render = s.render ∧ (answer r st p s).arb = s.arb := by
  change (joinReply _ s).seq = _ ∧ (joinReply _ s).render = _ ∧ (joinReply _ s).arb = _
  rw [joinReply_frame]
  exact ⟨rfl, rfl, rfl⟩

section
variable {s : State} (h : Coherent s) (r : Request)
include h

theorem coherent_acceptRender {k : RenderKind} (idle : s.render.state = .idle) (final : k = .final → s.seq.takeState = .finished)
    (pass : s.seq.takeState ≠ .clearing) : Coherent (acceptRender k r s) := by
  refine coherent_of_stand_eq ((stand_takeRender k _).trans (congrArg (Stand.takeRender k) (stand_answer _ _ _ s)))
    (h.stand.takeRender idle final fun held => pass (h.clearing.mp held))

theorem coherent_renderPreview : Coherent (renderPreview r s) := by
  unfold renderPreview
  split
  case h_5 pass _ =>
    split
    · exact coherent_acceptRender h r ‹_› nofun ‹_›
    · exact h.answered r _ _
  all_goals exact h.answered r _ _

theorem coherent_renderRepeat : Coherent (renderRepeat r s) := by
  unfold renderRepeat
  split
  case h_2 take =>
    split
    · exact coherent_acceptRender h r ‹_› (fun _ => take) (by rw [take]; exact nofun)
    · exact h.answered r _ _
  all_goals exact h.answered r _ _

theorem coherent_takeResume : Coherent (takeResume r s) := by
  unfold takeResume
  split
  · rename_i take
    exact coherent_resumeTake (h.answered r _ _) (by rw [(fields_of_answer r .ok [] s).1]; exact take)
  · exact h.answered r _ _

theorem coherent_takeStart : Coherent (takeStart r s) := by
  unfold takeStart
  split
  · exact h.answered r _ _
  · rename_i unfixed
    split
    · exact h.answered r _ _
    · rename_i idle
      split
      · exact h.answered r _ _
      · obtain ⟨seq, render, _⟩ := fields_of_answer r .ok (startPayload s) s
        refine coherent_startTake (h.answered r _ _) ?_ ?_
        · rw [seq]; simpa using unfixed
        · rw [render]; simpa using idle

theorem coherent_takeClear : Coherent (takeClear r s) := by
  unfold takeClear
  split
  · exact h.answered r _ _
  · rename_i clearable
    split
    · exact h.answered r _ _
    · rename_i idle
      obtain ⟨seq, render, _⟩ := fields_of_answer r .ok [] s
      refine coherent_clearTake (h.answered r _ _) ?_ ?_
      · rw [seq]; simpa using clearable
      · rw [render]; simpa using idle

theorem coherent_presentRelay (device : Nat) (reg : RegAddr) (access : BusAccess) : Coherent (presentRelay r device reg access s) := by
  unfold presentRelay
  split
  · exact h.answered r _ _
  · split
    · exact h.answered r _ _
    · split
      · exact h.answered r _ _
      · exact coherent_tryEndStepStart (h.of_stand (stand_arbitrate _))

theorem coherent_bridgeRequests : Coherent (bridgeWrite r s) ∧ Coherent (bridgeRead r s) ∧ Coherent (bridgeRecover r s) := by
  refine ⟨?_, ?_, ?_⟩
  · unfold bridgeWrite
    split
    · exact h.answered r _ _
    · split
      · exact h.answered r _ _
      · split
        · exact h.answered r _ _
        · split
          · exact h.answered r _ _
          · exact coherent_presentRelay h r _ _ _
  · unfold bridgeRead
    split
    · exact h.answered r _ _
    · split
      · exact h.answered r _ _
      · exact coherent_presentRelay h r _ _ _
  · unfold bridgeRecover askTrain
    split
    · split <;> exact h.of_stand rfl
    · exact h.answered r _ _

theorem coherent_tableRequests : Coherent (openTable r s) ∧ Coherent (appendTable r s) ∧ Coherent (closeTable r s) := by
  have replied : ∀ (u : State), standOf u = standOf s → ∀ st p, Coherent (answer r st p u) := fun u same st p =>
    (h.of_stand same).answered r st p
  refine ⟨?_, ?_, ?_⟩
  · unfold openTable
    split
    · exact h.answered r _ _
    · split
      · exact h.answered r _ _
      · refine replied _ ?_ _ _
        split <;> rfl
  · unfold appendTable
    split
    · exact h.answered r _ _
    · split
      · exact h.answered r _ _
      · simp only
        split
        · exact h.answered r _ _
        · split
          · exact h.answered r _ _
          · split
            · exact h.answered r _ _
            · refine replied _ ?_ _ _
              rfl
  · unfold closeTable
    split
    · exact h.answered r _ _
    · split
      · exact h.answered r _ _
      · refine replied _ ?_ _ _
        split <;> rfl

theorem coherent_setParam : Coherent (setParam r s) := by
  unfold setParam
  simp only
  split
  · exact h.answered r _ _
  · split
    · exact h.answered r _ _
    · split
      · exact h.answered r _ _
      · refine Coherent.answered (h.of_stand ?_) r _ _
        unfold paramEffects
        split
        case h_6 => split <;> rfl
        all_goals rfl

theorem coherent_readRequests : Coherent (readTable r s) ∧ Coherent (getParam r s) ∧ Coherent (readLog r s) := by
  refine ⟨?_, ?_, ?_⟩
  · unfold readTable
    split
    · exact h.answered r _ _
    · simp only
      split <;> exact h.answered r _ _
  · unfold getParam
    simp only
    split <;> exact h.answered r _ _
  · unfold readLog
    simp only
    split <;> exact h.answered r _ _

theorem coherent_setLineLevel : Coherent (setLineLevel r s) := by
  unfold setLineLevel
  split
  · split
    · refine Coherent.answered (h.of_stand ?_) r _ _
      rfl
    · exact h.answered r _ _
  · exact h.answered r _ _

theorem coherent_of_meaning {c : Instr} {n : Nat} {carry : Request → State → State} (m : Meaning c n carry) :
    Coherent (carry r s) := by
  have length : ∀ {k : Nat} {own : Request → State → State}, Coherent (own r s) → Coherent (fixedLength k own r s) := fun own =>
    fixedLength_keeps own (h.answered r _ _)
  obtain ⟨write, read, recover⟩ := coherent_bridgeRequests h r
  obtain ⟨opens, appends, closes⟩ := coherent_tableRequests h r
  obtain ⟨table, get, log⟩ := coherent_readRequests h r
  cases m with
  | tableOpen => exact length opens
  | tableAppend => exact appends
  | tableClose => exact length closes
  | tableRead => exact length table
  | paramSet => exact length (coherent_setParam h r)
  | paramGet => exact length get
  | takeStart => exact length (coherent_takeStart h r)
  | takePause => exact length (coherent_pauseTake (h.answered r _ _))
  | takeResume => exact length (coherent_takeResume h r)
  | takeStop => exact length (coherent_stopTake (h.answered r _ _))
  | takeFinish => exact length (coherent_finishTake (h.answered r _ _))
  | takeAbort => exact length (coherent_abortTake (h.answered r _ _))
  | takeClear => exact length (coherent_takeClear h r)
  | renderPreview => exact length (coherent_renderPreview h r)
  | renderRepeat => exact length (coherent_renderRepeat h r)
  | logRead => exact length log
  | statusRead => exact length (h.answered r _ _)
  | bridgeWrite => exact write
  | bridgeRead => exact length read
  | bridgeRecover => exact length recover
  | lineLevel => exact length (coherent_setLineLevel h r)
  | lineRead => exact length (h.answered r _ _)

end

/-! #### The events -/

section
variable {s : State} (h : Coherent s)
include h

/-- An open readout is one in READOUT. -/
theorem coherent_endReadout (phase : s.seq.phase = .readout) : Coherent (endReadout s) :=
  coherent_of_stand_eq (stand_endReadout s) (h.stand.endReadout phase)

theorem coherent_endFrame : Coherent (endFrame s) :=
  coherent_of_stand_eq (stand_endFrame s) { h.stand with subframe := nofun }

theorem coherent_loseLinkIn : Coherent (loseLinkIn s) := by
  unfold loseLinkIn
  simp only
  split
  · rename_i opened
    exact Coherent.of_stand (coherent_endReadout h (h.readout.mp (Option.isSome_iff_ne_none.mp opened))) rfl
  · exact Coherent.of_stand (coherent_endFrame h) rfl

omit h in
theorem stand_openForwarded (counter : Half) (s : State) : standOf (openForwarded counter s) = standOf s := by
  unfold openForwarded; split <;> rfl

theorem coherent_beginStray (counter : Half) : Coherent (beginStray counter s) := by
  have begun : Coherent { s with
      link.frame := .stray, link.strayCount := (s.link.strayCount + 1) % 65536, link.forwarding := .no } :=
    coherent_of_stand_eq (x := { standOf s with subframe := false }) rfl { h.stand with subframe := nofun }
  unfold beginStray
  simp only
  split
  · exact begun.of_stand (stand_openForwarded counter _)
  · exact begun

omit h in
theorem stand_computeScale (s : State) : standOf (computeScale s) = standOf s := by
  unfold computeScale
  split
  · rfl
  · exact stand_onRecord _ _

theorem coherent_beginSubframe (counter : Half) {r : Readout} (opened : s.link.readout = some r) :
    Coherent (beginSubframe counter r s) := by
  have begun : Coherent (onRecord (fun q => { q with frameCounter := some counter })
      { s with link.frame := .subframe, link.lastRow := none, link.readout := some { r with seenFrame := true } }) := by
    refine coherent_of_stand_eq (x := { standOf s with subframe := true }) ?_
      { h.stand with subframe := fun _ => by simp [standOf, opened] }
    rw [stand_onRecord]
    simp [standOf, opened, handedLines, lineInProgress]
  have lit : ∀ u : State, Coherent u → Coherent (lightFrameStart u) := by
    intro u before
    unfold lightFrameStart
    refine Coherent.of_stand ?_ (stand_computeScale _)
    split
    · exact coherent_of_stand_eq (stand_decideExposure _ u) { before.stand with armed := nofun }
    · exact before
  unfold beginSubframe
  simp only
  split
  · refine Coherent.of_stand ?_ (stand_openForwarded counter _)
    split
    · exact lit _ begun
    · exact begun
  · split
    · exact lit _ begun
    · exact begun

theorem coherent_takeFrameStart (counter : Half) : Coherent (takeFrameStart counter s) := by
  unfold takeFrameStart
  split
  · exact coherent_beginStray (coherent_endFrame h) counter
  · rename_i r opened
    split
    · exact coherent_beginStray (coherent_endReadout h (h.readout.mp (by rw [opened]; exact nofun))) counter
    · have same : (endFrame s).link.readout = s.link.readout := by
        unfold endFrame closeForwarded; split <;> rfl
      exact coherent_beginSubframe (coherent_endFrame h) counter (same.trans opened)

/-- A LINE leaves the stand as it is, and in the subframe frame may end the readout. -/
theorem coherent_lineTaken {t : State} (taken : LineTaken s t) : Coherent t := by
  obtain ⟨u, lined, ends⟩ := taken
  have same : standOf u = standOf s := by
    have record : u.log.openRecord.isSome = s.log.openRecord.isSome := by
      have := congrArg Option.isSome lined.record
      simpa using this
    have rest : standOf (lineRest u) = standOf (lineRest s) := by rw [lined.rest]
    calc standOf u = { standOf (lineRest u) with record := u.log.openRecord.isSome } := rfl
      _ = { standOf (lineRest s) with record := s.log.openRecord.isSome } := by rw [rest, record]
      _ = standOf s := rfl
  have good := h.of_stand same
  rcases ends with rfl | ⟨frame, rfl⟩
  · exact good
  · refine coherent_endReadout good ?_
    rw [show u.seq.phase = s.seq.phase from congrArg Stand.phase same]
    exact h.readout.mp (h.subframe frame)

theorem coherent_abandonRender {r : AbandonReason} (abort : r ≠ .abort) (reset : r ≠ .partReset) : Coherent (abandonRender r s) :=
  coherent_of_stand_eq (stand_abandonRender r s) (h.stand.abandonRender abort reset)

theorem coherent_loseLinkOut : Coherent (loseLinkOut s) := by
  have cut : Coherent (cutForwarding (cutLink s)) := by
    refine coherent_of_stand_eq (x := { standOf s with handed := s.out.renderQueue.countP RenderPacket.isLine, locked := false })
      rfl (h.stand.fewer (Nat.le_add_right _ _) false)
  have abandoned := coherent_abandonRender cut (r := .linkDown) nofun nofun
  refine coherent_of_stand_eq (x := { standOf (abandonRender .linkDown (cutForwarding (cutLink s))) with
    handed := boolCode (lineInProgress (abandonRender .linkDown (cutForwarding (cutLink s)))) }) ?_
    (abandoned.stand.fewer (Nat.le_add_left _ _) _)
  simp only [standOf, handedLines, loseLinkOut, List.countP_nil, Nat.zero_add]
  rfl

theorem coherent_handRow (active : s.render.state = .active) (free : s.render.rowHanded = false) : Coherent (handRow s) := by
  refine coherent_of_stand_eq (x := { standOf s with handed := handedLines s + 1, rowHanded := true }) ?_
    (h.stand.one_more active free)
  have lines : handedLines (handRow s) = handedLines s + 1 := by
    change (s.out.renderQueue ++ [_]).countP _ + boolCode (lineInProgress s) = _
    rw [List.countP_append]
    change _ + 1 + _ = _ + _ + 1
    omega
  rw [← lines]
  rfl

theorem coherent_completeClearing (take : s.seq.takeState = .clearing) : Coherent (completeClearing s) := by
  have between : (standOf (enterTake .running .stepStart { s with
      plane := Memory.restrict (fun a => decide (s.settings.width * s.settings.height ≤ a)) s.plane,
      arb.holder := .none, seq.planeValid := true })).Between := by
    rw [stand_enterTake]
    exact h.stand.begun take .stepStart
  unfold completeClearing
  simp only
  refine coherent_enterStepStart _ between fun _ => ?_
  refine (coherent_iff_stand _).mpr ?_
  exact between.of_stepStart (by rw [stand_enterTake]; rfl)

theorem coherent_claimIngest (phase : s.seq.phase = .expose) (timer : s.seq.exposureTimer = none) : Coherent (claimIngest s) := by
  unfold claimIngest
  split
  · rename_i free
    exact coherent_of_stand_eq (stand_grantIngest s) (h.stand.grantIngest phase free)
  · rename_i busy
    have held : ∀ limit : Option Nat, Coherent { s with
        seq.phase := .hold, seq.holdStart := s.now, seq.extensionTimer := limit, arb.waiting := .ingest } := fun limit =>
      coherent_of_stand_eq (x := { standOf s with phase := .hold, extension := limit.isSome, waiting := .ingest }) rfl
        (h.stand.hold phase busy (by simp [standOf, timer]) limit.isSome)
    unfold enterHold
    simp only
    split
    · exact coherent_abandonRender (held _) nofun nofun
    · exact held _

theorem coherent_deliverEdge (f : LineFunction) (active : Bool) : Coherent (deliverEdge f active s) := by
  unfold deliverEdge
  split
  · unfold captureEdge
    split
    · exact h
    · split <;> exact h.of_stand rfl
  · unfold triggerEdge
    split
    · rename_i awaits
      have phase : s.seq.phase = .wait := by
        unfold awaitsTrigger at awaits
        split at awaits
        · assumption
        · cases awaits
      exact coherent_enterExpose_of_wait h phase
    · exact h
  · exact coherent_pauseTake h
  · exact coherent_stopTake h
  · exact h

end

/-! #### The close of a subframe (R13 to R15) -/

theorem stand_closeRecord (s : State) : standOf (closeRecord s) = { standOf s with record := false } := by
  cases opened : s.log.openRecord with
  | none => rw [closeRecord_of_none opened]; simp [standOf, opened]
  | some r =>
    unfold closeRecord
    rw [opened]
    exact stand_queueReport _ _ _

theorem stand_settleRelease (s : State) : standOf (settleRelease s)
    = Stand.releasePlane (if s.seq.abortPending then (standOf s).abandonRender .abort else standOf s) := by
  unfold settleRelease
  rw [stand_releasePlane]
  split
  · rw [stand_abandonRender]
  · rfl

theorem stand_advancePlan (s : State) : standOf (advancePlan s) = standOf s := by
  unfold advancePlan
  split
  · rfl
  · split <;> rfl

theorem takeState_enterWait (s : State) : (enterWait s).seq.takeState = s.seq.takeState := by
  cases step : currentStep s with
  | none => rw [enterWait_of_no_step step]
  | some st =>
    rcases stand_enterWait step with ⟨g, same⟩ | same
    · exact congrArg Stand.take same
    · exact congrArg Stand.take same

theorem takeState_enterStepStart (settles : Bool) (s : State) : (enterStepStart settles s).seq.takeState = s.seq.takeState := by
  have ended : ∀ u : State, (tryEndStepStart u).seq.takeState = u.seq.takeState := by
    intro u
    unfold tryEndStepStart
    split
    · exact takeState_enterWait u
    · rfl
  have handed : ∀ (indices : List Nat) (u : State), (arbitrate (handScripts indices u)).seq.takeState = u.seq.takeState := by
    intro indices u
    have same := (stand_arbitrate (handScripts indices u)).trans (stand_handScripts indices u)
    exact congrArg Stand.take same
  unfold enterStepStart
  split
  · rfl
  · exact (ended _).trans (handed _ _)

namespace Stand

theorem take_enterFinishing (x : Stand) : x.enterFinishing.take = .finishing ∨ x.enterFinishing.take = .complete := by
  unfold enterFinishing requestFinal
  split
  · split
    · unfold takeRender
      split <;> exact .inl rfl
    · exact .inr rfl
  · exact .inl rfl

end Stand

/-- What comes next is in step again, and is no CLEARING (R14). -/
theorem coherent_decideNext {s : State} (b : (standOf s).Between) :
    Coherent (decideNext s) ∧ (decideNext s).seq.takeState ≠ .clearing := by
  have known : ∀ {u : State} {x : Stand}, standOf u = x → x.Coherent → x.take ≠ .clearing →
      Coherent u ∧ u.seq.takeState ≠ .clearing := fun same good other =>
    ⟨coherent_of_stand_eq same good, fun e => other (by rw [← same]; exact e)⟩
  have next : (standOf (advancePlan s)).Between := by rw [stand_advancePlan]; exact b
  have running : (advancePlan s).seq.takeState = .running := next.take
  unfold decideNext
  simp only
  split
  · exact known (stand_enterAborted _) next.toParked.enterAborted nofun
  · split
    · have complete : Coherent (enterComplete (advancePlan s)) := coherent_of_stand_eq (stand_enterComplete _) (next.leaves (.inr rfl))
      split
      · refine ⟨coherent_enterFinishing complete (takeState_enterComplete _), fun e => ?_⟩
        have same := congrArg Stand.take (stand_enterFinishing (enterComplete (advancePlan s)))
        rcases (standOf (enterComplete (advancePlan s))).take_enterFinishing with e' | e' <;>
          exact absurd (same.symm.trans e) (by rw [e']; exact nofun)
      · exact ⟨complete, by rw [takeState_enterComplete]; exact nofun⟩
    · rename_i inside
      have stays : currentStep (advancePlan s) ≠ none := by
        intro none
        refine inside ?_
        rw [Bool.or_eq_true, decide_eq_true_iff]
        exact .inl (List.getElem?_eq_none_iff.mp none)
      split
      · exact known (stand_enterTake _ _ _) (Stand.Between.leaves (x := standOf (advancePlan s)) next (.inl rfl)) nofun
      · split
        · refine ⟨coherent_enterStepStart _ next fun none => absurd none stays, ?_⟩
          rw [takeState_enterStepStart, running]; exact nofun
        · refine ⟨coherent_enterWait next fun none => absurd none stays, ?_⟩
          rw [takeState_enterWait, running]; exact nofun

theorem coherent_autoPreview {s : State} (h : Coherent s) (pass : s.seq.takeState ≠ .clearing) : Coherent (autoPreview s) := by
  unfold autoPreview
  split
  · exact h
  · split
    · simp only
      split
      · rename_i free
        exact coherent_of_stand_eq (stand_takeRender .preview { s with seq.autoCount := 0 })
          (h.stand.takeRender free.1 nofun fun held => pass (h.clearing.mp held))
      · exact h.of_stand rfl
    · exact h.of_stand rfl

/-- With the record closed and the plane released the take stands between two subframes. -/
theorem between_settleRelease {s : State} (h : Coherent s) (phase : s.seq.phase = .settle) :
    (standOf (settleRelease (closeRecord (settled s)))).Between := by
  have rest := ingestRest_settled s
  have good : Coherent (settled s) := by rw [← coherent_ingestRest, rest, coherent_ingestRest]; exact h
  have phase' : (settled s).seq.phase = .settle := by
    rw [show (settled s).seq = s.seq from show (ingestRest (settled s)).seq = (ingestRest s).seq by rw [rest]]
    exact phase
  have closing : (standOf (closeRecord (settled s))).Closing := by rw [stand_closeRecord]; exact good.stand.closing phase'
  rw [stand_settleRelease]
  exact closing.settled _

theorem coherent_settleClose {s : State} (h : Coherent s) (phase : s.seq.phase = .settle) : Coherent (settleClose s) := by
  obtain ⟨decided, pass⟩ := coherent_decideNext (between_settleRelease h phase)
  rw [settleClose_eq, goOn]
  split
  · exact coherent_autoPreview decided pass
  · exact decided

theorem coherent_ingestNext {s : State} (h : Coherent s) : Coherent (ingestNext s) := by
  rw [← coherent_ingestRest, ingestRest_ingestNext, coherent_ingestRest]; exact h

/-! #### PART_RESET (R190) -/

theorem coherent_partReset {s : State} (h : Coherent s) (r : Request) : Coherent (partReset r s) := by
  have port : standOf (resetPort r s) = standOf s := by
    unfold resetPort
    simp only [stand_answer]
    split
    · rw [stand_handFlow]; rfl
    · rfl
  have handed : (standOf (stopPass (resetPort r s))).handed ≠ 0 → (standOf (stopPass (resetPort r s))).render = .active := by
    have same : (standOf (stopPass (resetPort r s))).handed = (standOf s).handed
        ∧ (standOf (stopPass (resetPort r s))).render = (standOf s).render := by
      rw [← port]
      unfold stopPass
      split <;> exact ⟨rfl, rfl⟩
    rw [same.1, same.2]
    exact h.stand.handedActive
  have dropped := stand_abandonRender .partReset { stopPass (resetPort r s) with seq.finalHeld := false, arb.waiting := .none }
  obtain ⟨idle, none⟩ := Stand.reset_render handed .partReset rfl
  have idle' : (standOf (resetRender (stopPass (resetPort r s)))).render = .idle := (congrArg Stand.render dropped).trans idle
  have none' : (standOf (resetRender (stopPass (resetPort r s)))).handed = 0 := (congrArg Stand.handed dropped).trans none
  have blocks : ∀ u : State, u.seq.takeState = .noTake → standOf u = { standOf (resetBlocks (resetRender (stopPass (resetPort r s)))) with
      take := .noTake } → Coherent u := by
    intro u take same
    refine coherent_of_stand_eq same (Stand.coherent_of_reset rfl rfl rfl ⟨rfl, rfl⟩ rfl ⟨rfl, rfl, rfl, rfl, rfl⟩
      ⟨rfl, rfl, rfl, rfl⟩ ⟨rfl, rfl⟩ ⟨idle', none'⟩)
  have take : Coherent (resetTake (resetBlocks (resetRender (stopPass (resetPort r s))))) := by
    unfold resetTake
    split
    · rename_i noTake
      refine blocks _ noTake ?_
      rw [← noTake]; rfl
    · exact blocks _ (congrArg Stand.take (stand_enterTake .noTake .none _)) (stand_enterTake _ _ _)
  exact take.of_stand rfl

/-! #### The lane -/

/-- The beginning of a packet that is offered hands no LINE over and takes none back (R140, R163). -/
theorem stand_beginPacket {p : LanePacket} {s : State} (k : Nat) (offered : p ∈ offers s) (free : laneFree s = true) :
    standOf (beginPacket p { s with out.choices := k }) = standOf s := by
  have idle := laneFree_inProgress free
  have before : handedLines s = s.out.renderQueue.countP RenderPacket.isLine := by
    simp [handedLines, lineInProgress, idle, boolCode]
  have known : ∀ u : State, handedLines u = handedLines s → { standOf s with handed := handedLines u } = standOf s := by
    intro u same
    rw [same]; rfl
  have lines : handedLines (beginPacket p { s with out.choices := k }) = handedLines s := by
    cases p with
    | render q live =>
      rcases mem_offers.mp offered with raw | queued | render
      · exact absurd raw offerRaw_not_render
      · simp [offerQueued] at queued
      · obtain ⟨x, head, same⟩ := Option.map_eq_some_iff.mp render
        cases same
        obtain ⟨rest, queue⟩ := List.head?_eq_some_iff.mp head
        rw [before, queue]
        rw [List.countP_cons]
        cases q <;> simp [beginPacket, handedLines, lineInProgress, queue, RenderPacket.isLine, boolCode]
    | _ => rw [before]; simp [beginPacket, handedLines, lineInProgress, boolCode, onFrames]
  cases p with
  | render q live => cases q <;> exact known _ lines
  | _ => exact known _ lines

theorem coherent_endEvent {s : State} (h : Coherent s) : Coherent (endEvent s) := by
  refine h.of_stand ?_
  change standOf (startFirst s) = standOf s
  rcases startFirst_cases s with same | ⟨p, offered, free, k, same⟩ <;> rw [same]
  exact stand_beginPacket k offered free

theorem coherent_endBoundary {s : State} (h : Coherent s) : Coherent (endBoundary s) := by
  refine h.of_stand ?_
  change standOf (runLane s) = standOf s
  rcases runLane_cases s with same | ⟨p, offered, free, same⟩ <;> rw [same]
  exact stand_beginPacket s.out.choices offered free

/-- The packet in progress has left; a LINE of the render in hand is then no longer handed over, and the last completes it (R140,
R141). -/
theorem coherent_endPacket {s : State} (h : Coherent s) {p : LanePacket} (progress : s.out.inProgress = some p) :
    Coherent (endPacket p (sendWaitingFlow { s with out.inProgress := none, out.sent := .sent p :: s.out.sent })) := by
  have left : standOf (sendWaitingFlow { s with out.inProgress := none, out.sent := .sent p :: s.out.sent })
      = { standOf s with handed := s.out.renderQueue.countP RenderPacket.isLine } := by
    unfold sendWaitingFlow
    split <;> rfl
  have fewer : Coherent (sendWaitingFlow { s with out.inProgress := none, out.sent := .sent p :: s.out.sent }) :=
    coherent_of_stand_eq left (h.stand.fewer (Nat.le_add_right _ _) _)
  unfold endPacket
  split
  · exact fewer.of_stand rfl
  · rename_i kind row values
    have one : handedLines s = s.out.renderQueue.countP RenderPacket.isLine + 1 := by
      simp [handedLines, lineInProgress, progress, boolCode]
    have active : s.render.state = .active := h.handedActive (by omega)
    have gone : s.out.renderQueue.countP RenderPacket.isLine = 0 := by
      have most := h.handed
      have unit : boolCode s.render.rowHanded ≤ 1 := by cases s.render.rowHanded <;> decide
      omega
    rw [gone] at left
    generalize sendWaitingFlow { s with
      out.inProgress := none, out.sent := .sent (.render (.line kind row values) true) :: s.out.sent } = u at left fewer
    have sent : ∀ v : State, standOf v = { standOf u with rowHanded := false } → (standOf v).Coherent := by
      intro v same
      rw [same, left]
      exact { h.stand.fewer (Nat.zero_le _) (standOf s).locked with handed := Nat.zero_le _ }
    have active' : (standOf u).render = .active := by rw [left]; exact active
    have gone' : (standOf u).handed = 0 := by rw [left]
    unfold endRenderLine
    simp only
    split
    · exact coherent_of_stand_eq (stand_completeRender _) ((sent _ rfl).completeRender active' gone')
    · exact (coherent_iff_stand _).mpr (sent _ rfl)
  · exact fewer

/-! #### Pins and the bus -/

theorem coherent_acceptLevel {s : State} (h : Coherent s) (l : LineNo) : Coherent (acceptLevel l s) := by
  unfold acceptLevel
  simp only
  split
  · exact h
  · split
    · exact h
    · refine coherent_deliverEdge (h.of_stand ?_) _ _
      split
      · exact (stand_queueReport _ _ _).trans rfl
      · rfl

theorem coherent_changePin {s : State} (h : Coherent s) (l : LineNo) (high : Bool) : Coherent (changePin l high s) := by
  unfold changePin
  simp only
  split
  · exact h.of_stand rfl
  · split
    · refine coherent_acceptLevel (h.of_stand ?_) l
      rfl
    · exact h.of_stand rfl

theorem stand_endTransaction (o : BusOutcome) (data : List Byte) (run : BusRun) (f : InFlight) (s : State) :
    standOf (endTransaction o data run f s) = standOf s := by
  have told : ∀ (c : Claimant) (u : State), standOf (endClaimant o data c u) = standOf u := by
    intro c u
    unfold endClaimant
    split
    · unfold endPoll
      split <;> rfl
    · have reported : ∀ step index : Nat, standOf (reportScriptEnd step index o u) = standOf u := fun step index =>
        stand_of_busRest (busRest_reportScriptEnd step index o u)
      simp only
      split
      · exact (stand_handScripts _ _).trans (reported _ _)
      · exact reported _ _
    · rfl
  unfold endTransaction
  rw [stand_arbitrate, told]
  rfl

/-! #### Every step -/

theorem Effect.coherent {c : Instr} {s u : State} (e : Effect c s u) (h : Coherent s) : Coherent u := by
  have taken : Coherent (removeRequest s) := h.of_stand (stand_removeRequest s)
  cases e with
  | arrival locked joins =>
    unfold markHold
    split
    · exact h.of_stand ((stand_handFlow _ _).trans rfl)
    · exact h.of_stand rfl
  | taken meaning head kind may => exact coherent_of_meaning taken _ meaning
  | unknown head kind may => exact taken.answered _ _ _
  | reset head kind empty => exact coherent_partReset h _
  | resetLength head kind length may => exact taken.answered _ _ _
  | recoverDone train =>
    have answered : ∀ (high : Bool) (u : State), standOf u = standOf s → Coherent (answerTrain high u) := by
      intro high u same
      unfold answerTrain
      split
      · split
        · exact h.of_stand ((stand_joinReply _ _).trans same)
        · exact h.of_stand same
      · exact h.of_stand same
    unfold endTrain
    dsimp only
    split
    · exact answered _ _ rfl
    · exact h.of_stand rfl
  | waitingReply waits room => exact h.of_stand (stand_joinReply _ _)
  | relayReply oldest due room => exact h.of_stand (stand_joinReply _ _)
  | trailDrain queue locked room => exact h.of_stand (stand_queueReport _ _ _)
  | hold locked => exact h.of_stand rfl
  | linkInLost locked => exact coherent_loseLinkIn h
  | frameStart locked => exact coherent_takeFrameStart h _
  | line locked => exact coherent_lineTaken h (takeLine_taken _ _ _ s)
  | frameEndSubframe locked frame => exact coherent_endReadout h (h.readout.mp (h.subframe frame))
  | frameEndStray locked frame => exact coherent_endFrame h
  | linkOutLoss locked => exact coherent_loseLinkOut h
  | rowRead active free inside => exact coherent_handRow h active free
  | clearingComplete take holder => exact coherent_completeClearing h take
  | settleExpiry timer =>
    exact coherent_tryEndStepStart (coherent_of_stand_eq (x := { standOf s with settle := false }) rfl { h.stand with settle := nofun })
  | gapExpiry timer =>
    exact coherent_enterExpose_of_wait (coherent_of_stand_eq (x := { standOf s with gap := false }) rfl { h.stand with gap := nofun })
      (h.gapTimer (by rw [timer]; exact nofun))
  | exposureExpiry timer =>
    exact coherent_claimIngest
      (coherent_of_stand_eq (x := { standOf s with exposure := false }) rfl { h.stand with exposure := nofun })
      (h.exposureTimer (by rw [timer]; exact nofun)) rfl
  | extensionExpiry timer =>
    exact coherent_abandonRender
      (coherent_of_stand_eq (x := { standOf s with extension := false }) rfl { h.stand with extension := nofun }) nofun nofun
  | readoutExpiry timer => exact coherent_endReadout (h.of_stand rfl) (h.readoutTimer (by rw [timer]; exact nofun))
  | ingest holder => exact coherent_ingestNext h
  | settleEnd phase holder => exact coherent_settleClose h phase
  | minPulse timer => exact h.of_stand rfl
  | inputPin moved => exact coherent_changePin h _ _
  | debounce timer =>
    refine coherent_acceptLevel (h.of_stand ?_) _
    rfl
  | @conversion _ channel _ due => cases channel <;> exact h.of_stand rfl
  | pwmPeriod => exact h.of_stand rfl
  | pwmEnd active part => exact h.of_stand rfl
  | poll scheduled => exact h.of_stand ((stand_claimPoll _).trans rfl)
  | busEnd flight possible => exact coherent_tryEndStepStart (h.of_stand (stand_endTransaction _ _ _ _ _))
  | busTimeout flight => exact coherent_tryEndStepStart (h.of_stand ((stand_endTransaction _ _ _ _ _).trans rfl))

theorem stand_regainLinkOut (s : State) : standOf (regainLinkOut s) = { standOf s with locked := true } := by
  unfold regainLinkOut formReport
  simp only
  split <;> rfl

theorem BoundaryEffect.coherent {c : Instr} {s u : State} (e : BoundaryEffect c s u) (h : Coherent s) : Coherent u := by
  cases e with
  | go locked => exact h.of_stand rfl
  | regain unlocked => exact coherent_of_stand_eq (stand_regainLinkOut s) (h.stand.fewer (Nat.le_refl _) true)
  | packetEnd progress => exact coherent_endPacket h progress

theorem coherent_reset : Coherent State.reset :=
  (coherent_iff_stand _).mpr (Stand.coherent_of_reset rfl rfl rfl ⟨rfl, rfl⟩ rfl ⟨rfl, rfl, rfl, rfl, rfl⟩ ⟨rfl, rfl, rfl, rfl⟩
    ⟨rfl, rfl⟩ ⟨rfl, rfl⟩)

theorem Ran.coherent {c : Instr} {s t : State} (ran : Ran c s t) (h : Coherent s) : Coherent t := by
  cases ran with
  | powerOn pins => exact coherent_reset.of_stand rfl
  | resetN => exact coherent_reset.of_stand rfl
  | nothing => exact h
  | linkInLocked => exact h.of_stand rfl
  | event effect => exact coherent_endEvent (effect.coherent h)
  | boundary effect => exact coherent_endBoundary (effect.coherent h)

/-- Settles O6: the effect of every command is followed on the stand, operation by operation, and the end of an event leaves it. -/
theorem stepKeepsCoherence : Obligations.StepKeepsCoherence := by
  intro s t h stepped
  rcases step_cases stepped with rfl | ⟨c, rest, -, ran⟩
  · exact h.of_stand rfl
  · exact ran.coherent (h.of_stand rfl)

end Sys2Proof.Machine
end

section
/-! PROOFS. While Link Out is unlocked: O7 -/

namespace Sys2Proof.Machine

/-! ### While Link Out is unlocked (R134, R170, R171) -/

/-- QuietWhileUnlocked of an unlocked Link Out, with its clauses side by side, so that a change of anything else leaves it. The render
packets that wait are q; at the loss of lock they go last. -/
def Silent (q : List RenderPacket) (s : State) : Prop :=
  s.out.locked = false ∧ s.out.queue = [] ∧ s.out.inProgress = none ∧ s.out.renderQueue = q ∧ s.out.flowWaiting = none
    ∧ s.out.held = false ∧ s.port.requests = [] ∧ s.port.waiting = none ∧ s.fifo.frames = [] ∧ s.render.state = .idle
    ∧ s.arb.waiting ≠ .render ∧ (∀ e ∈ s.fifo.entries, e.forward ≠ .pending) ∧ ∀ n, s.link.forwarding ≠ .frame n

theorem QuietWhileUnlocked.silent {s : State} (h : QuietWhileUnlocked s) (unlocked : s.out.locked = false) : Silent [] s :=
  ⟨unlocked, h.queue unlocked, h.inProgress unlocked, h.renderQueue unlocked, h.flow unlocked, h.hold unlocked,
    h.requests unlocked, h.mark unlocked, h.frames unlocked, h.render unlocked, h.claim unlocked, h.entries unlocked,
    h.forwarding unlocked⟩

theorem Silent.quiet {s : State} (h : Silent [] s) : QuietWhileUnlocked s := by
  obtain ⟨_, queue, progress, renders, flow, hold, requests, mark, frames, render, claim, entries, forwarding⟩ := h
  constructor <;> intro _ <;> assumption

theorem quiet_of_locked {s : State} (locked : s.out.locked = true) : QuietWhileUnlocked s := by
  constructor <;> intro unlocked <;> exact absurd (locked.symm.trans unlocked) (by decide)

section
variable {q : List RenderPacket} {s : State} (h : Silent q s)
include h

theorem Silent.locked : s.out.locked = false := h.1

theorem Silent.idle : s.render.state = .idle := by
  obtain ⟨_, _, _, _, _, _, _, _, _, render, _⟩ := h; exact render

theorem Silent.forwards_nothing : ForwardsNothing s := by
  obtain ⟨_, _, _, _, _, _, _, _, frames, _, _, entries, forwarding⟩ := h
  exact ⟨frames, entries, forwarding⟩

/-- With another readout, another forwarding and other entries that forward nothing. -/
theorem Silent.forward {t : State} (rest : t.out = s.out ∧ t.port = s.port ∧ t.render = s.render ∧ t.arb = s.arb)
    (nothing : ForwardsNothing t) : Silent q t := by
  obtain ⟨locked, queue, progress, renders, flow, hold, requests, mark, _, render, claim, _, _⟩ := h
  obtain ⟨out, port, unit, arb⟩ := rest
  rw [← out] at locked queue progress renders flow hold
  rw [← port] at requests mark
  rw [← unit] at render
  rw [← arb] at claim
  exact ⟨locked, queue, progress, renders, flow, hold, requests, mark, nothing.frames, render, claim, nothing.entries,
    nothing.forwarding⟩

/-- The bus. -/
theorem Silent.bus {t : State} (w : BusWork s t) : Silent q t := by
  have rest : ∀ {α : Type} (f : State → α), f (busRest t) = f (busRest s) := fun f => congrArg f w.rest
  have queue := w.silent h.locked
  have view : (t.out.locked = s.out.locked ∧ t.out.inProgress = s.out.inProgress ∧ t.out.renderQueue = s.out.renderQueue
      ∧ t.out.flowWaiting = s.out.flowWaiting ∧ t.out.held = s.out.held) ∧ t.port.requests = s.port.requests
      ∧ t.port.waiting = s.port.waiting ∧ t.fifo = s.fifo ∧ t.render = s.render ∧ t.arb = s.arb ∧ t.link = s.link :=
    ⟨⟨rest (·.out.locked), rest (·.out.inProgress), rest (·.out.renderQueue), rest (·.out.flowWaiting), rest (·.out.held)⟩,
      rest (·.port.requests), rest (·.port.waiting), rest (·.fifo), rest (·.render), rest (·.arb), rest (·.link)⟩
  obtain ⟨⟨locked, progress, renders, flow, held⟩, requests, mark, fifo, unit, arb, link⟩ := view
  unfold Silent
  rw [locked, queue, progress, renders, flow, held, requests, mark, fifo, unit, arb, link]
  exact h

theorem Silent.queueReport (k : ReportKind) (p : List Byte) : Silent q (queueReport k p s) := h.bus (busWork_queueReport k p s)

theorem Silent.arbitrate : Silent q (arbitrate s) := h.bus (busWork_arbitrate s)

theorem Silent.joinReply (p : QueuedPacket) : joinReply p s = s := by
  unfold Machine.joinReply
  simp [h.locked]

theorem Silent.enterTake (t : TakeState) (p : Phase) : Silent q (enterTake t p s) := by
  have entered : Silent q { s with
      seq.takeState := t, seq.phase := p, seq.shutter := s.seq.shutter && t.keepsLevels,
      seq.stepLevel := s.seq.stepLevel && t.keepsLevels } := h
  exact entered.queueReport _ _

theorem Silent.claimPoll : Silent q (claimPoll s) := by
  unfold Machine.claimPoll
  simp only
  split
  · exact h
  · split
    · exact h
    · exact Silent.arbitrate (s := { s with seq.pollAt := none, bridge.waitingPoll := some _ }) h

theorem Silent.enterExpose : Silent q (enterExpose s) := by
  unfold Machine.enterExpose
  split
  · exact h
  · unfold schedulePoll
    split
    · exact h
    · split
      · refine Silent.claimPoll ?_
        exact h
      · exact h

theorem Silent.enterWait : Silent q (enterWait s) := by
  unfold Machine.enterWait
  split
  · exact h
  · split
    · exact h
    · split
      · refine Silent.enterExpose ?_
        exact h
      · exact h

theorem Silent.tryEndStepStart : Silent q (tryEndStepStart s) := by
  unfold Machine.tryEndStepStart
  split
  · exact h.enterWait
  · exact h

theorem Silent.enterStepStart (settles : Bool) : Silent q (enterStepStart settles s) := by
  unfold Machine.enterStepStart
  split
  · exact h
  · refine Silent.tryEndStepStart (Silent.arbitrate (Silent.bus ?_ (busWork_handScripts _ _)))
    exact h

theorem Silent.enterComplete : Silent q (enterComplete s) := by
  unfold Machine.enterComplete
  refine Silent.enterTake ?_ _ _
  exact h

theorem Silent.pauseTake : Silent q (pauseTake s) := by
  have cancelled : Silent q (cancelWork s) := h
  unfold Machine.pauseTake
  split
  · split
    · refine Silent.enterTake ?_ _ _
      exact cancelled
    · exact cancelled.enterTake _ _
    · exact h
  · exact h

theorem Silent.stopTake : Silent q (stopTake s) := by
  have cancelled : Silent q (cancelWork s) := h
  unfold Machine.stopTake
  split
  · split
    · exact cancelled.enterComplete
    · exact h
  · exact h.enterComplete
  · exact h

theorem Silent.openDetector : Silent q (openDetector s) := by
  unfold Machine.openDetector
  split <;> exact h

theorem Silent.releaseExposure : Silent q (releaseExposure s) := by
  have held : Silent q (endHold s) := by
    unfold endHold
    split <;> exact h
  exact held

theorem Silent.decideExposure (lineTime : Nat) : Silent q (decideExposure lineTime s) := by
  unfold Machine.decideExposure
  simp only
  split <;> exact h

/-- The plane passes to an ingest or to none, for no render waits. -/
theorem Silent.releasePlane : Silent q (releasePlane s) := by
  have claim : s.arb.waiting ≠ .render := by
    obtain ⟨_, _, _, _, _, _, _, _, _, _, claim, _⟩ := h; exact claim
  obtain ⟨locked, queue, progress, renders, flow, hold, requests, mark, frames, render, _, entries, forwarding⟩ := h
  unfold Machine.releasePlane
  split
  · rename_i waits; exact absurd waits claim
  · have released := Silent.releaseExposure (s := s) ⟨locked, queue, progress, renders, flow, hold, requests, mark, frames, render,
      claim, entries, forwarding⟩
    obtain ⟨locked, queue, progress, renders, flow, hold, requests, mark, frames, render, _, entries, forwarding⟩ := released
    unfold grantIngest
    refine Silent.openDetector ?_
    exact ⟨locked, queue, progress, renders, flow, hold, requests, mark, frames, render, nofun, entries, forwarding⟩
  · exact ⟨locked, queue, progress, renders, flow, hold, requests, mark, frames, render, claim, entries, forwarding⟩

theorem Silent.grantIngest : Silent q (grantIngest s) := by
  have released := h.releaseExposure
  obtain ⟨locked, queue, progress, renders, flow, hold, requests, mark, frames, render, _, entries, forwarding⟩ := released
  unfold Machine.grantIngest
  refine Silent.openDetector ?_
  exact ⟨locked, queue, progress, renders, flow, hold, requests, mark, frames, render, nofun, entries, forwarding⟩

/-- A FINAL request is abandoned at its taking (R134, R144). -/
theorem Silent.requestFinal : Silent q (requestFinal s) := by
  have opened : Silent q (openRender .final s) := h
  unfold Machine.requestFinal
  rw [if_neg (by rw [h.locked]; exact Bool.false_ne_true)]
  exact (opened.queueReport _ _).enterTake _ _

/-- There is no render to abandon. -/
theorem Silent.abandonRender (r : AbandonReason) : abandonRender r s = s := by
  unfold Machine.abandonRender
  rw [h.idle]

theorem Silent.enterFinishing : Silent q (enterFinishing s) := by
  have entered := h.enterTake .finishing .none
  unfold Machine.enterFinishing
  simp only
  split
  · exact entered.requestFinal
  · exact entered

theorem Silent.enterAborted : Silent q (enterAborted s) := by
  have dropped : Silent q { s with seq.finalHeld := false } := h
  unfold Machine.enterAborted
  simp only [dropped.abandonRender]
  refine Silent.enterTake ?_ _ _
  exact dropped

theorem Silent.endFrame : Silent q (endFrame s) := by
  have nothing := h.forwards_nothing
  unfold Machine.endFrame closeForwarded
  split
  · rename_i n forwarded
    exact absurd forwarded (nothing.forwarding n)
  · exact h.forward ⟨rfl, rfl, rfl, rfl⟩ ⟨nothing.frames, nothing.entries, nofun⟩

theorem Silent.endReadout : Silent q (endReadout s) := by
  have ended := h.endFrame
  unfold Machine.endReadout
  simp only
  refine Silent.arbitrate ?_
  split
  · exact ended.decideExposure s.seq.lineTime
  · exact ended

theorem Silent.openForwarded (counter : Half) : Silent q (openForwarded counter s) := by
  have nothing := h.forwards_nothing
  unfold Machine.openForwarded
  rw [if_neg (by rw [h.locked]; exact Bool.false_ne_true)]
  exact h.forward ⟨rfl, rfl, rfl, rfl⟩ ⟨nothing.frames, nothing.entries, nofun⟩

theorem Silent.beginStray (counter : Half) : Silent q (beginStray counter s) := by
  have nothing := h.forwards_nothing
  have begun : Silent q { s with
      link.frame := .stray, link.strayCount := (s.link.strayCount + 1) % 65536, link.forwarding := .no } :=
    h.forward ⟨rfl, rfl, rfl, rfl⟩ ⟨nothing.frames, nothing.entries, nofun⟩
  unfold Machine.beginStray
  simp only
  split
  · exact begun.openForwarded counter
  · exact begun

theorem Silent.beginSubframe (counter : Half) (r : Readout) : Silent q (beginSubframe counter r s) := by
  have begun : Silent q (onRecord (fun q => { q with frameCounter := some counter })
      { s with link.frame := .subframe, link.lastRow := none, link.readout := some { r with seenFrame := true } }) := h
  have lit : ∀ u : State, Silent q u → Silent q (lightFrameStart u) := by
    intro u before
    have scaled : ∀ v : State, Silent q v → Silent q (computeScale v) := by
      intro v own
      unfold computeScale
      split <;> exact own
    unfold lightFrameStart
    refine scaled _ ?_
    split
    · exact before.decideExposure _
    · exact before
  unfold Machine.beginSubframe
  simp only
  split
  · refine Silent.openForwarded ?_ counter
    split
    · exact lit _ begun
    · exact begun
  · split
    · exact lit _ begun
    · exact begun

theorem Silent.takeFrameStart (counter : Half) : Silent q (takeFrameStart counter s) := by
  unfold Machine.takeFrameStart
  split
  · exact h.endFrame.beginStray counter
  · split
    · exact h.endReadout.beginStray counter
    · exact h.endFrame.beginSubframe counter _

theorem Silent.loseLinkIn : Silent q (loseLinkIn s) := by
  unfold Machine.loseLinkIn
  simp only
  split
  · exact h.endReadout
  · exact h.endFrame

theorem Silent.lineTaken {t : State} (taken : LineTaken s t) : Silent q t := by
  obtain ⟨u, lined, ends⟩ := taken
  have rest : ∀ {α : Type} (f : State → α), f (lineRest u) = f (lineRest s) := fun f => congrArg f lined.rest
  have good : Silent q u := h.forward ⟨rest (·.out), rest (·.port), rest (·.render), rest (·.arb)⟩ (lined.quiet h.forwards_nothing)
  rcases ends with rfl | ⟨_, rfl⟩
  · exact good
  · exact good.endReadout

theorem Silent.completeClearing : Silent q (completeClearing s) := by
  unfold Machine.completeClearing
  simp only
  refine Silent.enterStepStart (Silent.enterTake ?_ _ _) _
  exact h

theorem Silent.claimIngest : Silent q (claimIngest s) := by
  have held : ∀ limit : Option Nat, Silent q { s with
      seq.phase := .hold, seq.holdStart := s.now, seq.extensionTimer := limit, arb.waiting := .ingest } := by
    intro limit
    obtain ⟨locked, queue, progress, renders, flow, hold, requests, mark, frames, render, _, entries, forwarding⟩ := h
    exact ⟨locked, queue, progress, renders, flow, hold, requests, mark, frames, render, nofun, entries, forwarding⟩
  unfold Machine.claimIngest
  split
  · exact h.grantIngest
  · unfold enterHold
    simp only
    split
    · rw [(held _).abandonRender]; exact held _
    · exact held _

theorem Silent.deliverEdge (f : LineFunction) (active : Bool) : Silent q (deliverEdge f active s) := by
  unfold Machine.deliverEdge
  split
  · unfold captureEdge
    split
    · exact h
    · split <;> exact h
  · unfold triggerEdge
    split
    · exact h.enterExpose
    · exact h
  · exact h.pauseTake
  · exact h.stopTake
  · exact h

theorem Silent.acceptLevel (l : LineNo) : Silent q (acceptLevel l s) := by
  unfold Machine.acceptLevel
  simp only
  split
  · exact h
  · split
    · exact h
    · refine Silent.deliverEdge ?_ _ _
      split
      · refine Silent.queueReport ?_ _ _
        exact h
      · exact h

theorem Silent.changePin (l : LineNo) (high : Bool) : Silent q (changePin l high s) := by
  unfold Machine.changePin
  simp only
  split
  · exact h
  · split
    · refine Silent.acceptLevel ?_ l
      exact h
    · exact h

theorem Silent.endTransaction (o : BusOutcome) (data : List Byte) (run : BusRun) (f : InFlight) :
    Silent q (endTransaction o data run f s) := by
  have told : ∀ (c : Claimant) (u : State), Silent q u → Silent q (endClaimant o data c u) := by
    intro c u own
    unfold endClaimant
    split
    · unfold endPoll
      split <;> exact own
    · have reported : ∀ step index : Nat, Silent q (reportScriptEnd step index o u) := by
        intro step index
        unfold reportScriptEnd
        split
        · exact own
        · exact own.queueReport _ _
      simp only
      split
      · exact (reported _ _).bus (busWork_handScripts _ _)
      · exact reported _ _
    · exact own.bus (busWork_endRelay _ _ _ u)
  unfold Machine.endTransaction
  refine Silent.arbitrate (told _ _ ?_)
  exact h

/-- What ingest leaves forwards nothing. -/
theorem Silent.ingestNext : Silent q (ingestNext s) := by
  have nothing := h.forwards_nothing
  unfold Machine.ingestNext
  split
  · exact h
  · rename_i e _
    have rest := ingestRest_ingestEntryRow e s
    have fields : ∀ {α : Type} (f : State → α), f (ingestRest (ingestEntryRow e s)) = f (ingestRest s) := fun f => congrArg f rest
    refine h.forward ⟨fields (·.out), fields (·.port), fields (·.render), fields (·.arb)⟩ (ForwardsNothing.free ?_)
    refine ⟨?_, ?_, ?_⟩
    · rw [show (onEntries _ _ (ingestEntryRow e s)).fifo.frames = s.fifo.frames from fields (·.fifo.frames)]
      exact nothing.frames
    · intro x held
      obtain ⟨y, listed, rfl⟩ := List.mem_map.mp held
      rw [ingestEntryRow_entries] at listed
      have own := nothing.entries y listed
      split <;> exact own
    · rw [show (onEntries _ _ (ingestEntryRow e s)).link.forwarding = s.link.forwarding from fields (·.link.forwarding)]
      exact nothing.forwarding

theorem Silent.finishIngest (k : Nat) : Silent q (finishIngest k s) := by
  induction k generalizing s with
  | zero => exact h
  | succ k ih => exact ih h.ingestNext

omit h in
theorem entries_settleLight (s : State) : (settleLight s).fifo.entries = s.fifo.entries := by
  have rest : ∀ u : State, detectRest (closeAllTrails u) = detectRest { u with trails.openTrails := [] } := fun _ =>
    detectRest_closeTrails _ _
  have closed : ∀ u : State, (closeAllTrails u).fifo = u.fifo := fun u =>
    show (detectRest (closeAllTrails u)).fifo = (detectRest { u with trails.openTrails := [] }).fifo by rw [rest u]
  change (closeAllTrails (commitRows _ s)).fifo.entries = _
  rw [closed]
  rfl

theorem Silent.settled : Silent q (settled s) := by
  have ingested := h.finishIngest s.fifo.entries.length
  have nothing := ingested.forwards_nothing
  unfold Machine.settled
  split
  · have rest := ingestRest_settleLight (Machine.finishIngest s.fifo.entries.length s)
    have fields : ∀ {α : Type} (f : State → α), f (ingestRest (settleLight (Machine.finishIngest s.fifo.entries.length s)))
        = f (ingestRest (Machine.finishIngest s.fifo.entries.length s)) := fun f => congrArg f rest
    refine ingested.forward ⟨fields (·.out), fields (·.port), fields (·.render), fields (·.arb)⟩ ⟨?_, ?_, ?_⟩
    · exact (fields (·.fifo.frames)).trans nothing.frames
    · rw [entries_settleLight]; exact nothing.entries
    · rw [show (settleLight _).link.forwarding = _ from fields (·.link.forwarding)]; exact nothing.forwarding
  · exact ingested

theorem Silent.closeRecord : Silent q (closeRecord s) := by
  unfold Machine.closeRecord
  split
  · exact h
  · refine Silent.queueReport ?_ _ _
    exact h

theorem Silent.advancePlan : Silent q (advancePlan s) := by
  unfold Machine.advancePlan
  split
  · exact h
  · split <;> exact h

theorem Silent.decideNext : Silent q (decideNext s) := by
  have next := h.advancePlan
  unfold Machine.decideNext
  simp only
  split
  · exact next.enterAborted
  · split
    · split
      · exact next.enterComplete.enterFinishing
      · exact next.enterComplete
    · split
      · refine Silent.enterTake ?_ _ _
        exact next
      · split
        · exact next.enterStepStart _
        · exact next.enterWait

theorem Silent.autoPreview : Silent q (autoPreview s) := by
  unfold Machine.autoPreview
  split
  · exact h
  · split
    · simp only [h.locked, Bool.false_eq_true, and_false, if_false]
      exact h
    · exact h

theorem Silent.settleClose : Silent q (settleClose s) := by
  have released : Silent q (settleRelease (Machine.closeRecord (Machine.settled s))) := by
    have closed := h.settled.closeRecord
    unfold settleRelease
    rw [closed.abandonRender, ite_self]
    exact closed.releasePlane
  rw [settleClose_eq, goOn]
  split
  · exact released.decideNext.autoPreview
  · exact released.decideNext

end

/-- The loss of lock leaves Link Out silent (R170, R171). -/
theorem silent_loseLinkOut {s : State} (good : Coherent s) : Silent [] (loseLinkOut s) := by
  have cleared : ∀ {q : List RenderPacket} {u : State}, Silent q u → Silent [] { u with out.renderQueue := [] } := by
    intro q u h
    obtain ⟨locked, queue, progress, _, rest⟩ := h
    exact ⟨locked, queue, progress, rfl, rest⟩
  have entries : ∀ e ∈ (cutForwarding (cutLink s)).fifo.entries, e.forward ≠ .pending := by
    intro e held
    obtain ⟨x, _, rfl⟩ := List.mem_map.mp ((List.dropWhile_sublist _).subset held)
    change (abandonEntry x).forward ≠ .pending
    unfold abandonEntry
    split
    · exact nofun
    · assumption
  have forwarding : ∀ n, (cutForwarding (cutLink s)).link.forwarding ≠ .frame n := by
    intro n
    unfold cutForwarding
    change (match (cutLink s).link.forwarding with
      | .frame _ => Forwarding.abandoned
      | f => f) ≠ .frame n
    split
    · exact nofun
    · rename_i other; exact other n
  have cut : ∀ (unit : RenderUnit) (waits : WaitingClaim), unit.state = .idle → waits ≠ .render → ∀ q, Silent q
      { cutForwarding (cutLink s) with out.renderQueue := q, render := unit, arb.waiting := waits } := fun _ _ idle claim _ =>
    ⟨rfl, rfl, rfl, rfl, rfl, rfl, rfl, rfl, rfl, idle, claim, entries, forwarding⟩
  have concluded : ∀ (q : List RenderPacket) (final : Bool) (u : State), Silent q u → Silent q (afterAbandonment final .linkDown u) := by
    intro q final u h
    have held : ∀ v, Silent q v → Silent q (handHeldFinal v) := by
      intro v quiet
      unfold handHeldFinal
      split
      · refine Silent.requestFinal ?_
        exact quiet
      · exact quiet
    unfold afterAbandonment
    refine held _ ?_
    split
    · exact h.enterTake _ _
    · exact h
  have pending := good.pending
  have active := good.active
  have behind := good.behindIngest
  change Silent [] { abandonRender .linkDown (cutForwarding (cutLink s)) with out.renderQueue := [] }
  unfold abandonRender reportAbandoned
  have state : (cutForwarding (cutLink s)).render = s.render := rfl
  split
  · rename_i idle
    refine cleared (cut s.render s.arb.waiting idle ?_ s.out.renderQueue)
    intro waits
    rw [← pending, show s.render.state = .idle from idle] at waits
    cases waits
  · refine cleared (q := s.out.renderQueue) (concluded _ _ _ (Silent.queueReport ?_ _ _))
    exact cut { s.render with state := .idle } .none rfl nofun s.out.renderQueue
  · rename_i holds
    have claim : s.arb.waiting ≠ .render := by
      intro waits
      have held := behind waits
      rw [active.mp holds] at held
      cases held
    refine cleared (q := (withdrawFrame .linkDown (cutForwarding (cutLink s))).out.renderQueue)
      (concluded _ _ _ (Silent.releasePlane (Silent.queueReport ?_ _ _)))
    exact cut { s.render with state := .idle } s.arb.waiting rfl claim _

/-- While Link Out is unlocked every event leaves it silent. -/
theorem Effect.silent {c : Instr} {s u : State} (e : Effect c s u) {q : List RenderPacket} (h : Silent q s) : Silent q u := by
  obtain ⟨locked, queue, progress, renders, flow, hold, requests, mark, frames, render, claim, entries, forwarding⟩ := h
  have unlocked : ¬ s.out.locked = true := by rw [locked]; exact Bool.false_ne_true
  have h : Silent q s := ⟨locked, queue, progress, renders, flow, hold, requests, mark, frames, render, claim, entries, forwarding⟩
  cases e with
  | arrival lock joins => exact absurd lock unlocked
  | taken meaning head kind may => rw [requests] at head; cases head
  | unknown head kind may => rw [requests] at head; cases head
  | reset head kind empty => rw [requests] at head; cases head
  | resetLength head kind length may => rw [requests] at head; cases head
  | recoverDone train =>
    unfold endTrain answerTrain
    dsimp only
    split
    · split
      · rename_i waits; exact absurd (mark.symm.trans waits) nofun
      · exact h
    · exact h
  | waitingReply waits room => rw [mark] at waits; cases waits
  | relayReply oldest due room =>
    have left : Silent q { s with bridge.relays := s.bridge.relays.eraseP Relay.isAnswered } := h
    unfold queueReply
    rw [left.joinReply]
    exact left
  | trailDrain queue lock room => exact absurd lock unlocked
  | hold lock => exact absurd lock unlocked
  | linkInLost lock => exact h.loseLinkIn
  | frameStart lock => exact h.takeFrameStart _
  | line lock => exact h.lineTaken (takeLine_taken _ _ _ s)
  | frameEndSubframe lock frame => exact h.endReadout
  | frameEndStray lock frame => exact h.endFrame
  | linkOutLoss lock => exact absurd lock unlocked
  | rowRead active free inside => rw [render] at active; cases active
  | clearingComplete take holder => exact h.completeClearing
  | settleExpiry timer => exact Silent.tryEndStepStart h
  | gapExpiry timer => exact Silent.enterExpose h
  | exposureExpiry timer => exact Silent.claimIngest h
  | extensionExpiry timer =>
    have stopped : Silent q { advanceTo ‹_› s with seq.extensionTimer := none } := h
    rw [stopped.abandonRender]
    exact stopped
  | readoutExpiry timer => exact Silent.endReadout h
  | ingest holder => exact h.ingestNext
  | settleEnd phase holder => exact h.settleClose
  | minPulse timer => exact h
  | inputPin moved => exact h.changePin _ _
  | debounce timer =>
    refine Silent.acceptLevel ?_ _
    exact h
  | @conversion _ channel _ due => cases channel <;> exact h
  | pwmPeriod => exact h
  | pwmEnd active part => exact h
  | poll scheduled => exact Silent.claimPoll h
  | busEnd flight possible => exact (h.endTransaction _ _ _ _).tryEndStepStart
  | busTimeout flight =>
    refine Silent.tryEndStepStart (Silent.endTransaction ?_ _ _ _ _)
    exact h

theorem locked_endEvent (s : State) : (endEvent s).out.locked = s.out.locked := by
  change (startFirst s).out.locked = _
  rcases startFirst_cases s with e | ⟨p, _, _, k, e⟩ <;> rw [e]
  unfold beginPacket
  simp only
  split <;> rfl

theorem locked_endBoundary (s : State) : (endBoundary s).out.locked = s.out.locked := by
  change (runLane s).out.locked = _
  rcases runLane_cases s with e | ⟨p, _, _, e⟩ <;> rw [e]
  unfold beginPacket
  simp only
  split <;> rfl

/-- An unlocked lane starts nothing, so the end of an event changes the lines alone. -/
theorem Silent.endEvent {q : List RenderPacket} {s : State} (h : Silent q s) : Silent q (endEvent s) := by
  have free : laneFree s = false := by simp [laneFree, h.locked]
  unfold Machine.endEvent
  rw [startFirst_of_not_free free]
  exact h

theorem silent_or_locked {s : State} (h : QuietWhileUnlocked s) : s.out.locked = true ∨ Silent [] s := by
  cases locked : s.out.locked with
  | true => exact .inl rfl
  | false => exact .inr (h.silent locked)

theorem locked_closeRecord (s : State) : (closeRecord s).out.locked = s.out.locked := by
  unfold closeRecord
  split
  · rfl
  · rw [queueReport_frame]

/-- A lock is lost by its own event alone, by power and by RESET_N. -/
theorem Effect.locked {c : Instr} {s u : State} (e : Effect c s u) (other : c ≠ .linkOutLockLoss) : u.out.locked = s.out.locked := by
  rcases e.kept with ⟨locked, same, kept⟩ | ⟨v, lined, taken⟩ | ⟨_, closing⟩
  · rw [kept.locked]
    exact same other
  · have lane : v.out.locked = s.out.locked := show (lineRest v).out.locked = (lineRest s).out.locked by rw [lined.rest]
    rcases taken with rfl | ⟨_, rfl⟩
    · exact lane
    · exact ((work_endReadout v).kept.locked).trans lane
  · rcases closing with rfl | ⟨_, rfl⟩
    · exact show (ingestRest (ingestNext s)).out.locked = (ingestRest s).out.locked by rw [ingestRest_ingestNext]
    · rw [settleClose_eq, (kept_goOn _ _).locked, locked_closeRecord]
      exact show (ingestRest (settled s)).out.locked = (ingestRest s).out.locked by rw [ingestRest_settled]

/-- What an event leaves: the lock it found, or silence. -/
theorem Effect.quiet {c : Instr} {s u : State} (e : Effect c s u) (good : Coherent s) (quiet : QuietWhileUnlocked s) :
    QuietWhileUnlocked (Machine.endEvent u) := by
  rcases silent_or_locked quiet with locked | silent
  · by_cases loss : c = .linkOutLockLoss
    · subst loss
      cases e with
      | taken meaning => nomatch meaning
      | linkOutLoss => exact (silent_loseLinkOut good).endEvent.quiet
    · refine quiet_of_locked ?_
      rw [locked_endEvent, e.locked loss, locked]
  · exact (e.silent silent).endEvent.quiet

theorem BoundaryEffect.quiet {c : Instr} {s u : State} (e : BoundaryEffect c s u) (quiet : QuietWhileUnlocked s) :
    QuietWhileUnlocked (endBoundary u) := by
  refine quiet_of_locked ?_
  rw [locked_endBoundary]
  cases e with
  | go locked => exact locked
  | regain => exact (kept_regainLinkOut s).locked
  | packetEnd progress =>
    rw [(kept_endPacket _ _ s).locked]
    rcases silent_or_locked quiet with locked | ⟨_, _, none, _⟩
    · exact locked
    · cases none.symm.trans progress

/-- Settles O7: locked, an event leaves the lock or, as its loss, silence; unlocked, every event leaves the silence it found. -/
theorem stepKeepsQuietWhileUnlocked : Obligations.StepKeepsQuietWhileUnlocked := by
  intro s t good quiet stepped
  rcases step_cases stepped with rfl | ⟨c, rest, -, ran⟩
  · exact { quiet with }
  · have before : QuietWhileUnlocked { s with pending := rest } := { quiet with }
    cases ran with
    | powerOn | resetN =>
      refine Silent.quiet ⟨rfl, rfl, rfl, rfl, rfl, rfl, rfl, rfl, rfl, rfl, nofun, ?_, nofun⟩
      exact fun _ held => absurd held List.not_mem_nil
    | nothing | linkInLocked => exact { before with }
    | event effect => exact effect.quiet { good with } before
    | boundary effect => exact effect.quiet before

end Sys2Proof.Machine
end

section
/-! PROOFS. The plan position, the log and the dark count: O5 -/

namespace Sys2Proof.Machine

/-! ### The plan position, the log and the dark count (R2, R14, R23, R75) -/

/-- A take is under way, or the Sequencer holds its FINAL request, which Coherent gives to a FINISHING take alone (R134). -/
def Live (s : State) : Prop := s.seq.takeState ∉ [.noTake, .aborted, .finished] ∨ s.seq.finalHeld = true

/-- What TakeWithinPlan relates, but for the take state and the open record. -/
def planPart (s : State) : Nat × Nat × List SubframeRecord × Nat × Nat × Table PlanStep :=
  (s.seq.step, s.seq.count, s.log.closed, s.cal.darkCount, s.heater.duty, s.tables.plan)

/-- The kind of an open record, or of the step that one opens for. -/
def Opens (s : State) (k : Kind) : Prop :=
  (∃ p, s.log.openRecord = some p ∧ p.kind = k) ∨ ∃ st, currentStep s = some st ∧ st.kind = k

/-- From s to t the plan part stays, a record opens by its step alone, and no take begins. -/
def Onward (s t : State) : Prop :=
  planPart t = planPart s ∧ (∀ q, t.log.openRecord = some q → Opens s q.kind) ∧ (Live t → Live s)

theorem Onward.refl (s : State) : Onward s s := ⟨rfl, fun q held => .inl ⟨q, held, rfl⟩, id⟩

theorem live_of_take {s : State} {τ : TakeState} (take : s.seq.takeState = τ) (way : τ ∉ [.noTake, .aborted, .finished]) : Live s :=
  .inl (take ▸ way)

section
variable {s t : State} (h : Onward s t)
include h

theorem Onward.position : t.seq.step = s.seq.step ∧ t.seq.count = s.seq.count :=
  ⟨congrArg (·.1) h.1, congrArg (·.2.1) h.1⟩

theorem Onward.plan : t.tables.plan = s.tables.plan := congrArg (·.2.2.2.2.2) h.1

theorem Onward.currentStep : currentStep t = Machine.currentStep s := by
  unfold Machine.currentStep
  rw [h.plan, h.position.1]

theorem Onward.bus {u : State} (same : busRest u = busRest t) : Onward s u := by
  have fields : ∀ {α : Type} (f : State → α), f (busRest u) = f (busRest t) := fun f => congrArg f same
  have log : u.log = t.log := fields State.log
  have live : Live u = Live t := fields Live
  refine ⟨(fields planPart).trans h.1, ?_, ?_⟩
  · rw [log]; exact h.2.1
  · rw [live]; exact h.2.2

theorem Onward.queueReport (k : ReportKind) (p : List Byte) : Onward s (Machine.queueReport k p t) := h.bus (busRest_queueReport k p t)

theorem Onward.arbitrate : Onward s (arbitrate t) := h.bus (busWork_arbitrate t).rest

theorem Onward.onRecord {f : SubframeRecord → SubframeRecord} (kept : ∀ r, (f r).kind = r.kind) : Onward s (Machine.onRecord f t) := by
  refine ⟨h.1, ?_, h.2.2⟩
  intro q held
  obtain ⟨p, opened, rfl⟩ := Option.map_eq_some_iff.mp held
  rw [kept]
  exact h.2.1 p opened

/-- Another take state, while one is under way or to one that is not. -/
theorem Onward.enterTake {τ : TakeState} (p : Phase) (may : τ ∉ [.noTake, .aborted, .finished] → Live s) :
    Onward s (enterTake τ p t) := by
  have moved : Onward s { t with
      seq.takeState := τ, seq.phase := p, seq.shutter := t.seq.shutter && τ.keepsLevels,
      seq.stepLevel := t.seq.stepLevel && τ.keepsLevels } :=
    ⟨h.1, h.2.1, fun live => live.elim may fun held => h.2.2 (.inr held)⟩
  exact moved.queueReport .takeState (byteOf τ.code :: byteOf p.code :: byteOf t.seq.step :: bytes2 (subframeIndex t))

theorem Onward.claimPoll : Onward s (claimPoll t) := by
  unfold Machine.claimPoll
  simp only
  split
  · exact h
  · split
    · exact h
    · refine Onward.arbitrate ?_
      exact h

theorem Onward.enterExpose : Onward s (enterExpose t) := by
  have poll : ∀ (exposure : Nat) (u : State), Onward s u → Onward s (schedulePoll exposure u) := by
    intro exposure u hu
    unfold schedulePoll
    split
    · exact hu
    · split
      · exact hu.claimPoll
      · exact hu
  unfold Machine.enterExpose
  split
  · exact h
  · rename_i st step
    refine poll _ _ ⟨h.1, ?_, h.2.2⟩
    intro q held
    cases held
    exact .inr ⟨st, h.currentStep.symm.trans step, rfl⟩

theorem Onward.enterWait : Onward s (enterWait t) := by
  unfold Machine.enterWait
  split
  · exact h
  · split
    · exact h
    · split
      · refine Onward.enterExpose ?_
        exact h
      · exact h

theorem Onward.tryEndStepStart : Onward s (tryEndStepStart t) := by
  unfold Machine.tryEndStepStart
  split
  · exact h.enterWait
  · exact h

theorem Onward.enterStepStart (settles : Bool) : Onward s (enterStepStart settles t) := by
  unfold Machine.enterStepStart
  split
  · exact h
  · refine Onward.tryEndStepStart (Onward.arbitrate (Onward.bus ?_ (busWork_handScripts _ _).rest))
    exact h

theorem Onward.enterComplete (live : Live s) : Onward s (enterComplete t) := by
  unfold Machine.enterComplete
  refine Onward.enterTake ?_ _ fun _ => live
  exact h

theorem Onward.pauseTake : Onward s (pauseTake t) := by
  unfold Machine.pauseTake
  split
  · rename_i take
    have live := h.2.2 (live_of_take take (by decide))
    split
    · refine Onward.enterTake ?_ _ fun _ => live
      exact h
    · refine Onward.enterTake ?_ _ fun _ => live
      exact h
    · exact h
  · exact h

theorem Onward.stopTake : Onward s (stopTake t) := by
  unfold Machine.stopTake
  split
  · rename_i take
    have live := h.2.2 (live_of_take take (by decide))
    split
    · refine Onward.enterComplete ?_ live
      exact h
    · exact h
  · rename_i take
    exact h.enterComplete (h.2.2 (live_of_take take (by decide)))
  · exact h

theorem Onward.resumeTake (live : Live s) : Onward s (resumeTake t) := by
  unfold Machine.resumeTake
  split
  · exact (h.enterTake _ fun _ => live).enterStepStart _
  · exact (h.enterTake _ fun _ => live).enterWait

theorem Onward.releaseExposure : Onward s (releaseExposure t) := by
  have held : Onward s (endHold t) := by
    unfold endHold
    split
    · refine h.onRecord ?_
      intro r; rfl
    · exact h
  unfold Machine.releaseExposure takeTemperature
  refine Onward.onRecord ?_ fun r => rfl
  exact held

theorem Onward.decideExposure (lineTime : Nat) : Onward s (decideExposure lineTime t) := by
  have decided : ∀ f : SubframeRecord → SubframeRecord, (∀ r, (f r).kind = r.kind) →
      Onward s { Machine.onRecord f t with meas.armed := false } := fun f kept => h.onRecord kept
  unfold Machine.decideExposure
  simp only
  split
  · exact decided _ fun r => rfl
  · exact decided _ fun r => rfl

theorem Onward.openDetector : Onward s (openDetector t) := by
  unfold Machine.openDetector
  split <;> exact h

theorem Onward.grantIngest : Onward s (grantIngest t) := by
  have released := h.releaseExposure
  unfold Machine.grantIngest openCursor
  refine Onward.openDetector ?_
  exact released

theorem Onward.releasePlane : Onward s (releasePlane t) := by
  unfold Machine.releasePlane
  split
  · exact h
  · exact h.grantIngest
  · exact h

theorem Onward.takeRender (k : RenderKind) : Onward s (takeRender k t) := by
  unfold Machine.takeRender
  simp only
  split <;> exact h

theorem Onward.requestFinal (live : Live s) : Onward s (requestFinal t) := by
  unfold Machine.requestFinal reportAbandoned
  split
  · exact h.takeRender _
  · refine Onward.enterTake (Onward.queueReport ?_ _ _) _ fun _ => live
    exact h

theorem Onward.handHeldFinal : Onward s (handHeldFinal t) := by
  unfold Machine.handHeldFinal
  split
  · rename_i held
    refine Onward.requestFinal ?_ (h.2.2 (.inr held.1))
    exact ⟨h.1, h.2.1, fun live => h.2.2 (live.imp_right fun none => nomatch none)⟩
  · exact h

theorem Onward.afterAbandonment {final : Bool} (may : final = true → Live s) (r : AbandonReason) :
    Onward s (afterAbandonment final r t) := by
  unfold Machine.afterAbandonment
  refine Onward.handHeldFinal ?_
  split
  · rename_i ends
    simp only [Bool.and_eq_true] at ends
    exact h.enterTake _ fun _ => may ends.1.1
  · exact h

theorem Onward.sequencerFinal (final : isSequencerFinal t = true) : Live s := by
  obtain ⟨_, take⟩ := of_decide_eq_true final
  exact h.2.2 (live_of_take take (by decide))

theorem Onward.abandonRender (r : AbandonReason) : Onward s (abandonRender r t) := by
  unfold Machine.abandonRender reportAbandoned
  split
  · exact h
  · refine Onward.afterAbandonment (Onward.queueReport ?_ _ _) h.sequencerFinal _
    exact h
  · refine Onward.afterAbandonment (Onward.releasePlane (Onward.queueReport ?_ _ _)) h.sequencerFinal _
    exact h

theorem Onward.completeRender : Onward s (completeRender t) := by
  unfold Machine.completeRender
  simp only
  have idle : ∀ u : State, Onward s u → Onward s { u with render.state := .idle } := fun u hu => hu
  refine Onward.handHeldFinal ?_
  split
  · refine Onward.enterTake (Onward.releasePlane (idle _ (Onward.queueReport ?_ _ _))) _ fun way => absurd way (by decide)
    exact h
  · refine Onward.releasePlane (idle _ (Onward.queueReport ?_ _ _))
    exact h

theorem Onward.enterFinishing (live : Live s) : Onward s (enterFinishing t) := by
  have entered := h.enterTake (τ := .finishing) .none fun _ => live
  unfold Machine.enterFinishing
  simp only
  split
  · exact entered.requestFinal live
  · exact ⟨entered.1, entered.2.1, fun _ => live⟩

theorem Onward.enterAborted : Onward s (enterAborted t) := by
  have dropped : Onward s { t with seq.finalHeld := false } :=
    ⟨h.1, h.2.1, fun live => h.2.2 (live.imp_right fun none => nomatch none)⟩
  unfold Machine.enterAborted
  refine Onward.enterTake ?_ _ fun way => absurd way (by decide)
  exact dropped.abandonRender .abort

theorem Onward.endFrame : Onward s (endFrame t) := by
  have closed : Onward s (closeForwarded t) := by
    unfold closeForwarded
    split <;> exact h
  exact closed

theorem Onward.endReadout : Onward s (endReadout t) := by
  unfold Machine.endReadout
  simp only
  refine Onward.arbitrate ?_
  split
  · exact h.endFrame.decideExposure _
  · exact h.endFrame

end

/-! #### Requests and events -/

section
variable {s t : State} (h : Onward s t)
include h

theorem Onward.joinReply (p : QueuedPacket) : Onward s (joinReply p t) := by
  rw [joinReply_frame]
  exact h

theorem Onward.answer (r : Request) (st : Status) (p : List Byte) : Onward s (answer r st p t) := h.joinReply _

theorem Onward.removeRequest : Onward s (removeRequest t) := by
  rw [removeRequest_frame]
  exact h

theorem Onward.finishTake : Onward s (finishTake t) := by
  unfold Machine.finishTake
  split
  · rename_i take
    have live := h.2.2 (live_of_take take (by decide))
    split
    · refine Onward.enterFinishing (Onward.enterComplete ?_ live) live
      exact h
    · exact h
  · rename_i take
    have live := h.2.2 (live_of_take take (by decide))
    exact (h.enterComplete live).enterFinishing live
  · rename_i take
    exact h.enterFinishing (h.2.2 (live_of_take take (by decide)))
  · exact h

theorem Onward.cutExposure : Onward s (cutExposure t) := by
  unfold Machine.cutExposure
  simp only
  have held : ∀ u : State, Onward s u → Onward s { u with arb.holder := .ingest } := fun u hu => hu
  refine Onward.openDetector (held _ (Onward.abandonRender ?_ .abort))
  have released := h.releaseExposure.decideExposure (t.now - t.seq.exposeStart)
  exact released

theorem Onward.abortTake : Onward s (abortTake t) := by
  unfold Machine.abortTake
  split
  · exact h
  · exact h
  · refine Onward.enterAborted ?_
    exact h
  · split
    · refine Onward.enterAborted ?_
      exact h
    · refine Onward.enterAborted ?_
      exact h
    · exact h.cutExposure
    · exact h.cutExposure
    · exact h.endReadout
    · exact h
  · exact h.enterAborted

theorem Onward.presentRelay (r : Request) (device : Nat) (reg : RegAddr) (access : BusAccess) :
    Onward s (presentRelay r device reg access t) := by
  unfold Machine.presentRelay
  split
  · exact h.answer _ _ _
  split
  · exact h.answer _ _ _
  split
  · exact h.answer _ _ _
  · refine Onward.tryEndStepStart (Onward.arbitrate ?_)
    exact h

theorem Onward.bridgeRequests (r : Request) :
    Onward s (bridgeWrite r t) ∧ Onward s (bridgeRead r t) ∧ Onward s (bridgeRecover r t) := by
  refine ⟨?_, ?_, ?_⟩
  · unfold bridgeWrite
    split
    · exact h.answer _ _ _
    split
    · exact h.answer _ _ _
    split
    · exact h.answer _ _ _
    split
    · exact h.answer _ _ _
    · exact h.presentRelay _ _ _ _
  · unfold bridgeRead
    split
    · exact h.answer _ _ _
    split
    · exact h.answer _ _ _
    · exact h.presentRelay _ _ _ _
  · unfold bridgeRecover
    split
    · unfold askTrain
      split <;> exact h
    · exact h.answer _ _ _

theorem Onward.renderRequests (r : Request) : Onward s (renderPreview r t) ∧ Onward s (renderRepeat r t) := by
  have taken : ∀ k, Onward s (acceptRender k r t) := fun k => (h.answer _ _ _).takeRender k
  constructor
  · unfold renderPreview
    split
    case h_5 =>
      split
      · exact taken _
      · exact h.answer _ _ _
    all_goals exact h.answer _ _ _
  · unfold renderRepeat
    split
    case h_2 =>
      split
      · exact taken _
      · exact h.answer _ _ _
    all_goals exact h.answer _ _ _

theorem Onward.readRequests (r : Request) : Onward s (readTable r t) ∧ Onward s (getParam r t) ∧ Onward s (readLog r t) := by
  refine ⟨?_, ?_, ?_⟩
  · unfold readTable
    split
    · exact h.answer _ _ _
    · simp only
      split <;> exact h.answer _ _ _
  · unfold getParam
    simp only
    split <;> exact h.answer _ _ _
  · unfold readLog
    simp only
    split <;> exact h.answer _ _ _

theorem Onward.setParam (r : Request) : Onward s (setParam r t) := by
  have effects : ∀ (n : Param) (u : State), Onward s u → Onward s (paramEffects n u) := by
    intro n u hu
    unfold paramEffects
    split
    any_goals exact hu
    split <;> exact hu
  unfold Machine.setParam
  simp only
  split
  · exact h.answer _ _ _
  split
  · exact h.answer _ _ _
  split
  · exact h.answer _ _ _
  · refine Onward.answer (effects _ _ ?_) _ _ _
    exact h

theorem Onward.setLineLevel (r : Request) : Onward s (setLineLevel r t) := by
  unfold Machine.setLineLevel
  split
  · split
    · refine Onward.answer ?_ _ _ _
      exact h
    · exact h.answer _ _ _
  · exact h.answer _ _ _

theorem Onward.openForwarded (counter : Half) : Onward s (openForwarded counter t) := by
  unfold Machine.openForwarded
  simp only
  split <;> exact h

theorem Onward.beginStray (counter : Half) : Onward s (beginStray counter t) := by
  unfold Machine.beginStray
  simp only
  split
  · refine Onward.openForwarded ?_ _
    exact h
  · exact h

theorem Onward.computeScale : Onward s (computeScale t) := by
  unfold Machine.computeScale
  split
  · exact h
  · refine Onward.onRecord ?_ fun r => rfl
    exact h

theorem Onward.beginSubframe (counter : Half) (r : Readout) : Onward s (beginSubframe counter r t) := by
  have begun : Onward s (Machine.onRecord (fun q => { q with frameCounter := some counter })
      { t with link.frame := .subframe, link.lastRow := none, link.readout := some { r with seenFrame := true } }) := by
    refine Onward.onRecord ?_ fun r => rfl
    exact h
  have lit : ∀ u, Onward s u → Onward s (lightFrameStart u) := by
    intro u hu
    unfold lightFrameStart
    refine Onward.computeScale ?_
    split
    · exact hu.decideExposure _
    · exact hu
  have forwarded : ∀ u, Onward s u → Onward s (if r.forward then Machine.openForwarded counter u else u) := by
    intro u hu
    split
    · exact hu.openForwarded _
    · exact hu
  unfold Machine.beginSubframe
  refine forwarded _ ?_
  split
  · exact lit _ begun
  · exact begun

theorem Onward.takeFrameStart (counter : Half) : Onward s (takeFrameStart counter t) := by
  unfold Machine.takeFrameStart
  split
  · exact h.endFrame.beginStray _
  · split
    · exact h.endReadout.beginStray _
    · exact h.endFrame.beginSubframe _ _

theorem Onward.loseLinkIn : Onward s (loseLinkIn t) := by
  unfold Machine.loseLinkIn
  simp only
  split
  · exact h.endReadout
  · exact h.endFrame

theorem Onward.lined {u : State} (lined : Lined t u) : Onward s u := by
  have fields : ∀ {α : Type} (f : State → α), f (lineRest u) = f (lineRest t) := fun f => congrArg f lined.rest
  have live : Live u = Live t := fields Live
  refine ⟨(fields planPart).trans h.1, ?_, ?_⟩
  · intro q held
    have record := lined.record
    rw [held] at record
    obtain ⟨p, opened, same⟩ := Option.map_eq_some_iff.mp record.symm
    rw [← show p.kind = q.kind from congrArg Prod.snd same]
    exact h.2.1 p opened
  · rw [live]; exact h.2.2

theorem Onward.loseLinkOut : Onward s (loseLinkOut t) := by
  have cut : Onward s (cutForwarding (cutLink t)) := by
    unfold cutForwarding
    exact h
  have abandoned := cut.abandonRender .linkDown
  exact abandoned

theorem Onward.completeClearing (take : t.seq.takeState = .clearing) : Onward s (completeClearing t) := by
  unfold Machine.completeClearing
  refine Onward.enterStepStart (Onward.enterTake ?_ _ fun _ => h.2.2 (live_of_take take (by decide))) _
  exact h

theorem Onward.claimIngest : Onward s (claimIngest t) := by
  unfold Machine.claimIngest
  split
  · exact h.grantIngest
  · unfold enterHold
    simp only
    split
    · refine Onward.abandonRender ?_ _
      exact h
    · exact h

theorem Onward.deliverEdge (f : LineFunction) (active : Bool) : Onward s (deliverEdge f active t) := by
  unfold Machine.deliverEdge
  split
  · unfold captureEdge
    split
    · exact h
    · split <;> exact h
  · unfold triggerEdge
    split
    · exact h.enterExpose
    · exact h
  · exact h.pauseTake
  · exact h.stopTake
  · exact h

theorem Onward.acceptLevel (l : LineNo) : Onward s (acceptLevel l t) := by
  unfold Machine.acceptLevel
  simp only
  split
  · exact h
  · split
    · exact h
    · refine Onward.deliverEdge ?_ _ _
      split
      · refine Onward.queueReport ?_ _ _
        exact h
      · exact h

theorem Onward.changePin (l : LineNo) (high : Bool) : Onward s (changePin l high t) := by
  unfold Machine.changePin
  simp only
  split
  · exact h
  · split
    · refine Onward.acceptLevel ?_ l
      exact h
    · exact h

theorem Onward.endTransaction (o : BusOutcome) (data : List Byte) (run : BusRun) (f : InFlight) :
    Onward s (endTransaction o data run f t) := by
  have told : ∀ (c : Claimant) (u : State), Onward s u → Onward s (endClaimant o data c u) := by
    intro c u own
    unfold endClaimant
    split
    · unfold endPoll
      split <;> exact own
    · have reported : ∀ step index : Nat, Onward s (reportScriptEnd step index o u) := fun step index =>
        own.bus (busRest_reportScriptEnd step index o u)
      simp only
      split
      · exact (reported _ _).bus (busWork_handScripts _ _).rest
      · exact reported _ _
    · exact own
  unfold Machine.endTransaction
  refine Onward.arbitrate (told _ _ ?_)
  exact h

theorem Onward.endTrain (speed : Nat) (high : Bool) : Onward s (endTrain speed high t) := by
  have answered : ∀ u : State, Onward s u → Onward s (answerTrain high u) := by
    intro u hu
    unfold answerTrain
    split
    · split
      · refine Onward.joinReply ?_ _
        exact hu
      · exact hu
    · exact hu
  unfold Machine.endTrain
  dsimp only
  split
  · refine answered _ ?_
    exact h
  · exact h

theorem Onward.endPacket (p q : LanePacket) :
    Onward s (endPacket p (sendWaitingFlow { t with out.inProgress := none, out.sent := .sent q :: t.out.sent })) := by
  have left : Onward s (sendWaitingFlow { t with out.inProgress := none, out.sent := .sent q :: t.out.sent }) := by
    unfold sendWaitingFlow
    split <;> exact h
  unfold Machine.endPacket
  split
  · exact left
  · unfold endRenderLine
    simp only
    split
    · refine Onward.completeRender ?_
      exact left
    · exact left
  · exact left

theorem Onward.ingest {u : State} (same : ingestRest u = ingestRest t) : Onward s u := by
  have fields : ∀ {α : Type} (f : State → α), f (ingestRest u) = f (ingestRest t) := fun f => congrArg f same
  have live : Live u = Live t := fields Live
  refine ⟨(fields planPart).trans h.1, ?_, ?_⟩
  · intro q held
    have record : u.log.openRecord.map SubframeRecord.untallied = t.log.openRecord.map SubframeRecord.untallied :=
      fields (·.log.openRecord)
    rw [held] at record
    obtain ⟨p, opened, same⟩ := Option.map_eq_some_iff.mp record.symm
    rw [← show p.kind = q.kind from show p.untallied.kind = q.untallied.kind by rw [same]]
    exact h.2.1 p opened
  · rw [live]; exact h.2.2

theorem Onward.endEvent : Onward s (endEvent t) := by
  unfold Machine.endEvent
  rcases startFirst_cases t with e | ⟨p, _, _, k, e⟩ <;> rw [e]
  · exact h
  · unfold beginPacket
    simp only
    split <;> exact h

theorem Onward.endBoundary : Onward s (endBoundary t) := by
  unfold Machine.endBoundary
  rcases runLane_cases t with e | ⟨p, _, _, e⟩ <;> rw [e]
  · exact h
  · unfold beginPacket
    simp only
    split <;> exact h

end

/-! #### TakeWithinPlan (R2, R4, R14, R23, R24, R43, R75) -/

/-- A take is under way (1.1). -/
def UnderWay (s : State) : Prop := s.seq.takeState ∉ [.noTake, .aborted, .finished]

theorem Coherent.underWay_of_live {s : State} (good : Coherent s) (live : Live s) : UnderWay s := by
  rcases live with way | held
  · exact way
  · unfold UnderWay
    rw [(good.finalHeld held).1]
    decide

/-- An open record is one of a RUNNING take. -/
theorem Coherent.running_of_record {s : State} (good : Coherent s) {q : SubframeRecord} (opened : s.log.openRecord = some q) :
    s.seq.takeState = .running := by
  have phase := good.stand.record.mp (show s.log.openRecord.isSome = true by rw [opened]; rfl)
  by_contra other
  have none : (standOf s).phase = .none := good.phase.mpr other
  rw [none] at phase
  rcases phase with e | e | e | e <;> cases e

theorem Coherent.underWay_of_record {s : State} (good : Coherent s) {q : SubframeRecord} (opened : s.log.openRecord = some q) :
    UnderWay s := by
  unfold UnderWay
  rw [good.running_of_record opened]
  decide

theorem planUnderWay_of_part {s t : State} (same : planPart t = planPart s) (h : PlanUnderWay s) : PlanUnderWay t := by
  simp only [planPart, Prod.mk.injEq] at same
  obtain ⟨step, count, closed, darks, _, plan⟩ := same
  obtain ⟨loaded, within, room, darkRoom, summaries⟩ := h
  constructor <;> simp only [step, count, closed, darks, plan] <;> assumption

theorem darkRecords_append (l m : List SubframeRecord) : darkRecords (l ++ m) = darkRecords l + darkRecords m := List.countP_append

theorem darkRecords_single (q : SubframeRecord) : darkRecords [q] = if q.kind = .dark then 1 else 0 := by
  simp [darkRecords, List.countP_cons]

/-- A record that opens within the plan still has its place in the log, and as a dark its place among the darks. -/
theorem PlanUnderWay.place {s : State} (h : PlanUnderWay s) {st : PlanStep} (step : currentStep s = some st) :
    s.log.closed.length < 4096 ∧ (st.kind = .dark → darkRecords s.log.closed < 255) := by
  have below := h.within st step
  have room := h.room
  have darkRoom := h.darkRoom
  rw [plannedSubframes_drop step] at room
  rw [plannedDarks_drop step] at darkRoom
  refine ⟨by omega, fun dark => ?_⟩
  rw [if_pos dark, if_pos ⟨st, step, dark⟩] at darkRoom
  omega

/-- The log with an open record within its bounds. -/
theorem records_within {s : State} (closed : s.log.closed.length ≤ 4096 ∧ darkRecords s.log.closed ≤ 255)
    (place : ∀ q, s.log.openRecord = some q → s.log.closed.length < 4096 ∧ (q.kind = .dark → darkRecords s.log.closed < 255)) :
    s.log.records.length ≤ 4096 ∧ darkRecords s.log.records ≤ 255 := by
  unfold SubframeLog.records
  rw [darkRecords_append, List.length_append]
  cases opened : s.log.openRecord with
  | none => simpa [darkRecords] using closed
  | some q =>
    obtain ⟨room, dark⟩ := place q opened
    simp only [Option.toList_some, List.length_singleton, darkRecords_single]
    refine ⟨room, ?_⟩
    split
    · exact dark ‹_›
    · exact closed.2

theorem closed_within {s : State} (log : s.log.records.length ≤ 4096) (darks : darkRecords s.log.records ≤ 255) :
    s.log.closed.length ≤ 4096 ∧ darkRecords s.log.closed ≤ 255 := by
  unfold SubframeLog.records at log darks
  rw [List.length_append] at log
  rw [darkRecords_append] at darks
  exact ⟨by omega, by omega⟩

theorem Onward.opens {s t : State} (o : Onward s t) (h : TakeWithinPlan s) (q : SubframeRecord) (opened : t.log.openRecord = some q) :
    ∃ st, Machine.currentStep s = some st ∧ q.kind = st.kind := by
  rcases o.2.1 q opened with ⟨p, first, kind⟩ | ⟨st, here, kind⟩
  · obtain ⟨st, here, kind'⟩ := h.opened p first
    exact ⟨st, here, kind.symm.trans kind'⟩
  · exact ⟨st, here, kind.symm⟩

/-- What goes on from a state within the plan is within it. -/
theorem Onward.withinPlan {s t : State} (o : Onward s t) (live : Live s → UnderWay s) (after : Coherent t) (h : TakeWithinPlan s) :
    TakeWithinPlan t := by
  have part := o.1
  simp only [planPart, Prod.mk.injEq] at part
  obtain ⟨step, count, closed, darks, duty, plan⟩ := part
  have way : UnderWay t → UnderWay s := fun way => live (o.2.2 (.inl way))
  have within := records_within (s := t) (closed ▸ closed_within h.log h.darks) (by
    intro q opened
    obtain ⟨st, here, kind⟩ := o.opens h q opened
    rw [closed, kind]
    exact (h.underWay (way (after.underWay_of_record opened))).place here)
  exact {
    position := by rw [step, count]; exact h.position
    log := within.1
    darks := within.2
    darkCount := darks ▸ h.darkCount
    duty := duty ▸ h.duty
    opened := by rw [plan, step]; exact o.opens h
    underWay := fun w => planUnderWay_of_part o.1 (h.underWay (way w)) }

theorem Onward.within {s t : State} (o : Onward s t) (good : Coherent s) (after : Coherent t) (h : TakeWithinPlan s) :
    TakeWithinPlan t := o.withinPlan good.underWay_of_live after h

/-- The tables change: PLAN alone matters, and it does not change under way. -/
theorem TakeWithinPlan.withTables {s : State} (h : TakeWithinPlan s) (good : Coherent s) {tables : Tables}
    (moves : tables.plan = s.tables.plan ∨ ¬ UnderWay s) : TakeWithinPlan { s with tables := tables } := by
  rcases moves with same | parked
  · refine { h with opened := ?_, underWay := fun way => ?_ }
    · rw [same]; exact h.opened
    · refine planUnderWay_of_part ?_ (h.underWay way)
      simp only [planPart, same]
  · exact { h with
      opened := fun q opened => absurd (good.underWay_of_record opened) parked
      underWay := fun way => absurd way parked }

theorem plan_opened {n : TableName} (other : n ≠ .plan) (t : Tables) : (t.opened n).plan = t.plan := by
  cases n
  case plan => exact absurd rfl other
  all_goals rfl

theorem plan_closed {n : TableName} (other : n ≠ .plan) (t : Tables) : (t.closed n).plan = t.plan := by
  cases n
  case plan => exact absurd rfl other
  all_goals rfl

theorem plan_appendEntry {n : TableName} (other : n ≠ .plan) {b : List Byte} {t t' : Tables} (h : appendEntry n b t = .ok t') :
    t'.plan = t.plan := by
  cases n
  case plan => exact absurd rfl other
  all_goals
    obtain ⟨x, _, rfl⟩ := except_map_ok h
    rfl

theorem plan_appendEntries {n : TableName} (other : n ≠ .plan) : ∀ (entries : List (List Byte)) (done : Nat) (t : Tables),
    (appendEntries n entries done t).tables.plan = t.plan := by
  intro entries
  induction entries with
  | nil => intro done t; rfl
  | cons b rest ih =>
    intro done t
    unfold appendEntries
    split
    · rename_i t' appended
      exact (ih _ _).trans (plan_appendEntry other appended)
    · rfl

/-! #### The end of a subframe and the ends of a take -/

theorem mem_of_seen {α : Type} {t : Table α} {k : Nat} {a : α} (held : t.seen[k]? = some a) : a ∈ t.entries := by
  have member := List.mem_of_getElem? held
  unfold Table.seen at member
  split at member
  · exact absurd member List.not_mem_nil
  · exact member

theorem length_seen {α : Type} (t : Table α) : t.seen.length ≤ t.entries.length := by
  unfold Table.seen
  split
  · exact Nat.zero_le _
  · exact Nat.le_refl _

/-- Each step of the plan has a subframe to take. -/
theorem count_of_seen {plan : Table PlanStep} (range : ∀ e ∈ plan.entries, e.inRange = true) {k : Nat} {st : PlanStep}
    (held : plan.seen[k]? = some st) : 1 ≤ st.count ∧ st.count ≤ 4095 := by
  have range := of_decide_eq_true (range st (mem_of_seen held))
  exact ⟨range.1, range.2.1⟩

theorem darkStep_iff {s : State} {st : PlanStep} (step : currentStep s = some st) :
    (∃ st', s.tables.plan.seen[s.seq.step]? = some st' ∧ st'.kind = .dark) ↔ st.kind = .dark := by
  constructor
  · rintro ⟨st', held, dark⟩
    obtain rfl := Option.some.inj (held.symm.trans step)
    exact dark
  · exact fun dark => ⟨st, step, dark⟩

/-- What is closed has one more record, and the plan behind the position asks for one less (R2, R14). -/
theorem PlanUnderWay.advance {s : State} (h : PlanUnderWay s) (sound : Tables.Sound s.tables) {q : SubframeRecord} {st : PlanStep}
    (step : currentStep s = some st) (kind : q.kind = st.kind) {u : State} (closed : u.log.closed = s.log.closed ++ [q])
    (plan : u.tables.plan = s.tables.plan) (position : u.seq.step = s.seq.step ∧ u.seq.count = s.seq.count)
    (summaries : u.cal.darkCount ≤ darkRecords u.log.closed) : PlanUnderWay (advancePlan u) := by
  have here : s.tables.plan.seen[s.seq.step]? = some st := step
  have here' : currentStep u = some st := by
    unfold currentStep
    rw [plan, position.1]
    exact step
  have below := h.within st step
  have room := h.room
  have darkRoom := h.darkRoom
  rw [plannedSubframes_drop here] at room
  rw [plannedDarks_drop here, if_congr (darkStep_iff step) rfl rfl] at darkRoom
  have length : u.log.closed.length = s.log.closed.length + 1 := by rw [closed, List.length_append]; rfl
  have darks : darkRecords u.log.closed = darkRecords s.log.closed + if st.kind = .dark then 1 else 0 := by
    rw [closed, darkRecords_append, darkRecords_single, kind]
  unfold advancePlan
  rw [here']
  simp only [position.1, position.2]
  split
  · refine ⟨plan ▸ h.loaded, fun st' held => ?_, ?_, ?_, summaries⟩
    · simp only [plan] at held
      exact (count_of_seen sound.plan.2 held).1
    · simp only [plan, length]
      omega
    · simp only [plan, darks]
      split at darkRoom <;> simp_all
      omega
  · refine ⟨plan ▸ h.loaded, fun st' held => ?_, ?_, ?_, summaries⟩
    · simp only [plan] at held
      obtain rfl : st = st' := Option.some.inj (here.symm.trans held)
      show s.seq.count + 1 < st.count
      omega
    · simp only [plan, length, plannedSubframes_drop here]
      omega
    · simp only [plan, darks, plannedDarks_drop here]
      rw [if_congr (darkStep_iff step) rfl rfl]
      split at darkRoom <;> simp_all
      omega

/-- The position that follows stays in its ranges. -/
theorem position_advancePlan {s : State} (short : s.tables.plan.entries.length ≤ 16)
    (counts : ∀ e ∈ s.tables.plan.entries, e.inRange = true) (range : s.seq.step ≤ 16 ∧ s.seq.count ≤ 4095) :
    (advancePlan s).seq.step ≤ 16 ∧ (advancePlan s).seq.count ≤ 4095 := by
  unfold advancePlan
  split
  · exact range
  · rename_i st step
    have inside := (List.getElem?_eq_some_iff.mp step).1
    have short := (length_seen s.tables.plan).trans short
    have most := (count_of_seen counts step).2
    split
    · exact ⟨show s.seq.step + 1 ≤ 16 by omega, Nat.zero_le _⟩
    · exact ⟨range.1, show s.seq.count + 1 ≤ 4095 by omega⟩

/-- The close of a record counts it, as a dark among the summaries too when it contributes (R23, R75). -/
theorem closeRecord_counts {s : State} {q : SubframeRecord} (opened : s.log.openRecord = some q) :
    ∃ q', q'.kind = q.kind ∧ (closeRecord s).log.closed = s.log.closed ++ [q'] ∧ (closeRecord s).log.openRecord = none
      ∧ ((closeRecord s).cal.darkCount = s.cal.darkCount ∨ q'.kind = .dark ∧ (closeRecord s).cal.darkCount = s.cal.darkCount + 1)
      ∧ (closeRecord s).heater = s.heater ∧ (closeRecord s).tables = s.tables ∧ (closeRecord s).seq.step = s.seq.step
      ∧ (closeRecord s).seq.count = s.seq.count := by
  refine ⟨{ q with
    lost := q.lost + unseenRows s * s.settings.width,
    outcome := some (closeOutcome s.seq.closeAbandoned { q with lost := q.lost + unseenRows s * s.settings.width }) }, rfl, ?_⟩
  unfold closeRecord
  rw [opened]
  dsimp only
  rw [queueReport_frame]
  refine ⟨rfl, rfl, ?_, rfl, rfl, rfl, rfl⟩
  dsimp only
  split
  · rename_i counted
    unfold contributes at counted
    exact .inr ⟨of_decide_eq_true (Bool.and_eq_true_iff.mp counted).1, rfl⟩
  · exact .inl rfl

theorem onward_settleRelease (s : State) : Onward s (settleRelease s) := by
  unfold settleRelease
  refine Onward.releasePlane ?_
  split
  · exact (Onward.refl s).abandonRender _
  · exact .refl s

theorem Onward.goesOn {s : State} (counts : Bool) (take : (settleRelease s).seq.takeState = .running) :
    Onward (advancePlan (settleRelease s)) (goOn counts s) := by
  have same : (advancePlan (settleRelease s)).seq.takeState = .running :=
    (congrArg Stand.take (stand_advancePlan (settleRelease s))).trans take
  have live : Live (advancePlan (settleRelease s)) := live_of_take same (by decide)
  have start := Onward.refl (advancePlan (settleRelease s))
  have decided : Onward (advancePlan (settleRelease s)) (decideNext (settleRelease s)) := by
    unfold decideNext
    dsimp only
    split
    · exact start.enterAborted
    split
    · split
      · exact (start.enterComplete live).enterFinishing live
      · exact start.enterComplete live
    split
    · refine Onward.enterTake ?_ _ fun _ => live
      exact start
    split
    · exact start.enterStepStart _
    · exact start.enterWait
  have preview : ∀ u : State, Onward (advancePlan (settleRelease s)) u → Onward (advancePlan (settleRelease s)) (autoPreview u) := by
    intro u hu
    unfold autoPreview
    split
    · exact hu
    split
    · dsimp only
      split
      · refine Onward.takeRender ?_ _
        exact hu
      · exact hu
    · exact hu
  unfold goOn
  split
  · exact preview _ decided
  · exact decided

/-- Behind the close of a record the position moves on within the plan. -/
theorem withinPlan_advanced {s u : State} (way : PlanUnderWay s) (sound : Tables.Sound s.tables) (h : TakeWithinPlan s)
    {q : SubframeRecord} {st : PlanStep} (here : currentStep s = some st) (kind : q.kind = st.kind)
    (closed : u.log.closed = s.log.closed ++ [q]) (none : (advancePlan u).log.openRecord = none)
    (summaries : u.cal.darkCount ≤ s.cal.darkCount + if q.kind = .dark then 1 else 0) (duty : u.heater.duty = s.heater.duty)
    (plan : u.tables.plan = s.tables.plan) (position : u.seq.step = s.seq.step ∧ u.seq.count = s.seq.count) :
    TakeWithinPlan (advancePlan u) := by
  have place := way.place here
  have darks : darkRecords u.log.closed = darkRecords s.log.closed + if q.kind = .dark then 1 else 0 := by
    rw [closed, darkRecords_append, darkRecords_single]
  have counted : u.cal.darkCount ≤ darkRecords u.log.closed := by
    have := way.summaries
    omega
  have few : darkRecords u.log.closed ≤ 255 := by
    have most := (closed_within h.log h.darks).2
    rw [darks, kind]
    split
    · exact place.2 ‹_›
    · exact most
  have kept : (advancePlan u).log = u.log ∧ (advancePlan u).cal = u.cal ∧ (advancePlan u).heater = u.heater := by
    unfold advancePlan
    split
    · exact ⟨rfl, rfl, rfl⟩
    · split <;> exact ⟨rfl, rfl, rfl⟩
  obtain ⟨log, cal, heater⟩ := kept
  have records := records_within (s := advancePlan u) (by
      rw [log]
      refine ⟨?_, few⟩
      rw [closed, List.length_append]
      exact place.1) fun q opened => by rw [none] at opened; cases opened
  exact {
    position := position_advancePlan (plan ▸ sound.plan.1.length) (plan ▸ sound.plan.2) (by rw [position.1, position.2]; exact h.position)
    log := records.1
    darks := records.2
    darkCount := by rw [cal]; exact counted.trans few
    duty := by rw [heater, duty]; exact h.duty
    opened := fun q opened => by rw [none] at opened; cases opened
    underWay := fun _ => way.advance sound here kind closed plan position counted }

/-- The close of a subframe (R13, R14, R23, R75). -/
theorem withinPlan_settleClose {s : State} (good : Coherent s) (after : Coherent (settleClose s)) (sound : Tables.Sound s.tables)
    (h : TakeWithinPlan s) (phase : s.seq.phase = .settle) : TakeWithinPlan (settleClose s) := by
  have before : Onward s (settled s) := (Onward.refl s).ingest (ingestRest_settled s)
  have opens : (settled s).log.openRecord.isSome = true := by
    have same : (settled s).log.openRecord.map SubframeRecord.untallied = s.log.openRecord.map SubframeRecord.untallied :=
      show (ingestRest (settled s)).log.openRecord = (ingestRest s).log.openRecord by rw [ingestRest_settled]
    rw [← Option.isSome_map, same, Option.isSome_map]
    exact good.stand.record.mpr (.inr (.inr (.inr phase)))
  obtain ⟨q, opened⟩ := Option.isSome_iff_exists.mp opens
  obtain ⟨st, here, own⟩ := before.opens h q opened
  obtain ⟨q', kind, closed, none, darkCount, heater, tables, step, count⟩ := closeRecord_counts opened
  have between := between_settleRelease good phase
  have way : UnderWay s := good.underWay_of_live (live_of_take (good.stand.running (by rw [show (standOf s).phase = .settle from phase]; nofun)) (by decide))
  have first := before.1
  have released := (onward_settleRelease (closeRecord (settled s))).1
  simp only [planPart, Prod.mk.injEq, closed, heater, tables, step, count] at first released
  obtain ⟨step₁, count₁, closed₁, darks₁, duty₁, plan₁⟩ := first
  obtain ⟨step₂, count₂, closed₂, darks₂, duty₂, plan₂⟩ := released
  have advanced : TakeWithinPlan (advancePlan (settleRelease (closeRecord (settled s)))) := by
    refine withinPlan_advanced (h.underWay way) sound h here (kind.trans own) (closed₂.trans (by rw [closed₁])) ?_ ?_
      (duty₂.trans duty₁) (plan₂.trans plan₁) ⟨step₂.trans step₁, count₂.trans count₁⟩
    · have record : (standOf (advancePlan (settleRelease (closeRecord (settled s))))).record = false := by
        rw [stand_advancePlan]; exact between.record
      exact Option.not_isSome_iff_eq_none.mp (Bool.eq_false_iff.mp record)
    · rw [darks₂]
      rcases darkCount with e | ⟨dark, e⟩ <;> rw [e, darks₁]
      · exact Nat.le_add_right _ _
      · rw [if_pos dark]
  rw [settleClose_eq] at after ⊢
  refine (Onward.goesOn _ between.take).withinPlan (fun _ => ?_) after advanced
  unfold UnderWay
  rw [show (advancePlan (settleRelease (closeRecord (settled s)))).seq.takeState = .running from
    (congrArg Stand.take (stand_advancePlan _)).trans between.take]
  decide

/-! #### The beginning and the ends of a take, and the tables -/

theorem not_underWay_of_noTake {s : State} (take : s.seq.takeState = .noTake) : ¬ UnderWay s := by
  unfold UnderWay
  rw [take]
  decide

/-- With an empty log. -/
theorem withinPlan_of_empty {s : State} (position : s.seq.step = 0 ∧ s.seq.count = 0) (log : s.log = SubframeLog.empty)
    (dark : s.cal.darkCount ≤ 255) (duty : s.heater.duty ≤ 256) (way : UnderWay s → PlanUnderWay s) : TakeWithinPlan s where
  position := by rw [position.1, position.2]; decide
  log := by rw [log]; decide
  darks := by rw [log]; decide
  darkCount := dark
  duty := duty
  opened := fun q held => by rw [log] at held; cases held
  underWay := way

/-- A change of take state leaves the log and the plan part. -/
theorem plan_enterTake (τ : TakeState) (p : Phase) (s : State) : planPart (enterTake τ p s) = planPart s
    ∧ (enterTake τ p s).log = s.log ∧ (enterTake τ p s).seq.takeState = τ := by
  obtain ⟨lines, e, _⟩ := enterTake_form τ p s
  rw [e, queueReport_frame]
  exact ⟨rfl, rfl, rfl⟩

theorem not_underWay_of_loading {s : State} (h : TakeWithinPlan s) (loading : s.tables.plan.state = .loading) : ¬ UnderWay s :=
  fun way => (h.underWay way).loaded loading

theorem plan_moves_of_loading {s : State} (h : TakeWithinPlan s) {n : TableName} (loading : s.tables.stateOf n = .loading) {tables : Tables}
    
    (other : n ≠ .plan → tables.plan = s.tables.plan) : tables.plan = s.tables.plan ∨ ¬ UnderWay s := by
  by_cases own : n = .plan
  · subst own
    exact .inr (not_underWay_of_loading h loading)
  · exact .inl (other own)

/-- What the checks of R4 leave of the plan. -/
theorem limits_of_startRefusal {t : Tables} {p : Params} (passed : startRefusal t p = none) :
    t.plan.state ≠ .loading ∧ plannedSubframes t.plan.seen ≤ 4096 ∧ plannedDarks t.plan.seen ≤ 255 := by
  unfold startRefusal at passed
  dsimp only at passed
  split at passed
  · cases passed
  rename_i loaded
  split at passed
  · cases passed
  split at passed
  · cases passed
  split at passed
  · cases passed
  split at passed
  · cases passed
  rename_i total
  split at passed
  · cases passed
  rename_i darks
  have plan := List.find?_eq_none.mp loaded .plan (by decide)
  exact ⟨fun loading => plan (decide_eq_true loading), Nat.not_lt.mp total, Nat.not_lt.mp darks⟩

/-- A take that begins asks for no more than the log holds (R4, R5). -/
theorem withinPlan_startTake {s : State} (sound : Tables.Sound s.tables) (h : TakeWithinPlan s)
    (passed : startRefusal s.tables s.params = none) : TakeWithinPlan (startTake s) := by
  obtain ⟨loaded, total, darks⟩ := limits_of_startRefusal passed
  unfold startTake
  dsimp only
  have entered := plan_enterTake .clearing .none { s with
    seq.step := 0, seq.count := 0, seq.notStarted := false, seq.pausePending := false, seq.stopPending := false,
    seq.finishPending := false, seq.abortPending := false, seq.closeAbandoned := false, seq.autoCount := 0,
    seq.planeValid := false, log := SubframeLog.empty,
    cal := { s.cal with darkCount := 0, darkExposure := 0, darkTempTotal := 0, darkTempCount := 0, scale := none },
    trails.current := VetoList.absent, trails.previous := VetoList.absent, trails.queue := [],
    port.lostReports := s.port.lostReports || !s.trails.queue.isEmpty,
    settings := recordSettings s.tables s.params, arb.holder := .clearing }
  obtain ⟨part, log, _⟩ := entered
  have fields := part
  simp only [planPart, Prod.mk.injEq] at fields
  obtain ⟨step, count, closed, dark, duty, plan⟩ := fields
  refine withinPlan_of_empty ⟨step, count⟩ log (le_of_eq_of_le dark (Nat.zero_le _)) (le_of_eq_of_le duty h.duty) fun _ => ?_
  refine planUnderWay_of_part part ⟨loaded, fun st here => (count_of_seen sound.plan.2 here).1, ?_, ?_, Nat.le_refl _⟩
  · simpa [SubframeLog.empty] using total
  · simpa [SubframeLog.empty, darkRecords] using darks

theorem withinPlan_clearTake {s : State} (h : TakeWithinPlan s) : TakeWithinPlan (clearTake s) := by
  unfold clearTake
  have entered := plan_enterTake .noTake .none { s with
    log := SubframeLog.empty, seq.planeValid := false, seq.pausePending := false, seq.stopPending := false,
    seq.finishPending := false, seq.abortPending := false, seq.step := 0, seq.count := 0 }
  obtain ⟨part, log, take⟩ := entered
  simp only [planPart, Prod.mk.injEq] at part
  obtain ⟨step, count, _, dark, duty, _⟩ := part
  refine withinPlan_of_empty ⟨step, count⟩ log (le_of_eq_of_le dark h.darkCount) (le_of_eq_of_le duty h.duty) fun way => ?_
  exact absurd way (not_underWay_of_noTake take)

/-- PART_RESET leaves no take, an empty log and the heater off (R190). -/
theorem withinPlan_partReset (r : Request) (s : State) : TakeWithinPlan (partReset r s) := by
  have taken : ∀ u : State, planPart (resetTake u) = planPart u ∧ (resetTake u).log = u.log
      ∧ (resetTake u).seq.takeState = .noTake := by
    intro u
    unfold resetTake
    split
    · exact ⟨rfl, rfl, ‹_›⟩
    · exact plan_enterTake _ _ _
  obtain ⟨part, log, take⟩ := taken (resetBlocks (resetRender (stopPass (resetPort r s))))
  simp only [planPart, Prod.mk.injEq] at part
  obtain ⟨step, count, _, dark, duty, _⟩ := part
  refine withinPlan_of_empty ⟨step, count⟩ log (le_of_eq_of_le dark (Nat.zero_le _)) (le_of_eq_of_le duty (Nat.zero_le _)) fun way => ?_
  exact absurd way (not_underWay_of_noTake take)

section
variable {s : State} (good : Coherent s) (sound : Tables.Sound s.tables) (h : TakeWithinPlan s) (r : Request)
include good h

theorem TakeWithinPlan.answered (st : Status) (p : List Byte) : TakeWithinPlan (answer r st p s) :=
  ((Onward.refl s).answer r st p).within good (good.answered r st p) h

/-- A change of the tables that PLAN takes part in only while no take is under way, and its reply. -/
theorem TakeWithinPlan.tablesAnswered {tables : Tables} (moves : tables.plan = s.tables.plan ∨ ¬ UnderWay s) {t : State}
    (same : t = { s with tables := tables, lines := t.lines }) (st : Status) (p : List Byte) : TakeWithinPlan (answer r st p t) := by
  have moved : TakeWithinPlan t := by
    rw [same]
    have own := h.withTables good moves
    exact { own with underWay := fun way => { own.underWay way with } }
  refine ((Onward.refl t).answer r st p).within ?_ ?_ moved
  · rw [same]; exact good.of_stand rfl
  · refine Coherent.answered ?_ r st p
    rw [same]; exact good.of_stand rfl

theorem withinPlan_openTable : TakeWithinPlan (openTable r s) := by
  unfold openTable
  split
  · exact h.answered good r _ _
  rename_i n _
  split
  · exact h.answered good r _ _
  rename_i free
  have moves : (s.tables.opened n).plan = s.tables.plan ∨ ¬ UnderWay s := by
    by_cases own : n = .plan
    · right
      subst own
      unfold UnderWay
      intro way
      refine free ?_
      cases take : s.seq.takeState <;> simp_all [TableName.takeFixed, TakeState.unfixed]
    · exact .inl (plan_opened own _)
  refine h.tablesAnswered good r moves ?_ _ _
  split <;> rfl

theorem withinPlan_appendTable : TakeWithinPlan (appendTable r s) := by
  unfold appendTable
  split
  · exact h.answered good r _ _
  split
  · exact h.answered good r _ _
  rename_i n _
  dsimp only
  split
  · exact h.answered good r _ _
  split
  · exact h.answered good r _ _
  split
  · exact h.answered good r _ _
  rename_i loading
  exact h.tablesAnswered good r (plan_moves_of_loading h (not_not.mp loading) fun other => plan_appendEntries other _ _ _) rfl _ _

theorem withinPlan_closeTable : TakeWithinPlan (closeTable r s) := by
  unfold closeTable
  split
  · exact h.answered good r _ _
  rename_i n _
  split
  · exact h.answered good r _ _
  rename_i loading
  refine h.tablesAnswered good r (plan_moves_of_loading h (not_not.mp loading) fun other => plan_closed other _) ?_ _ _
  split <;> rfl

include sound

theorem withinPlan_of_meaning {c : Instr} {n : Nat} {carry : Request → State → State} (m : Meaning c n carry) :
    TakeWithinPlan (carry r s) := by
  have start := Onward.refl s
  have length : ∀ {k : Nat} {own : Request → State → State}, TakeWithinPlan (own r s) → TakeWithinPlan (fixedLength k own r s) :=
    fun own => fixedLength_keeps own (h.answered good r _ _)
  have after := coherent_of_meaning good r m
  have onward : ∀ {k : Nat} {own : Request → State → State}, Onward s (own r s) → Onward s (fixedLength k own r s) :=
    fun own => fixedLength_keeps own (start.answer r _ _)
  cases m with
  | tableOpen => exact length (withinPlan_openTable good h r)
  | tableAppend => exact withinPlan_appendTable good h r
  | tableClose => exact length (withinPlan_closeTable good h r)
  | tableRead => exact (onward (start.readRequests r).1).within good after h
  | paramSet => exact (onward (start.setParam r)).within good after h
  | paramGet => exact (onward (start.readRequests r).2.1).within good after h
  | takeStart =>
    refine length ?_
    unfold takeStart
    split
    · exact h.answered good r _ _
    split
    · exact h.answered good r _ _
    split
    · exact h.answered good r _ _
    · rename_i passed
      have kept : (answer r .ok (startPayload s) s).tables = s.tables ∧ (answer r .ok (startPayload s) s).params = s.params := by
        change (joinReply _ s).tables = _ ∧ (joinReply _ s).params = _
        rw [joinReply_frame]
        exact ⟨rfl, rfl⟩
      refine withinPlan_startTake (kept.1 ▸ sound) (h.answered good r _ _) ?_
      rw [kept.1, kept.2]; exact passed
  | takePause => exact (onward (start.answer r _ _).pauseTake).within good after h
  | takeResume =>
    refine Onward.within (onward ?_) good after h
    unfold takeResume
    split
    · rename_i take
      exact (start.answer r _ _).resumeTake (live_of_take take (by decide))
    · exact start.answer r _ _
  | takeStop => exact (onward (start.answer r _ _).stopTake).within good after h
  | takeFinish => exact (onward (start.answer r _ _).finishTake).within good after h
  | takeAbort => exact (onward (start.answer r _ _).abortTake).within good after h
  | takeClear =>
    refine length ?_
    unfold takeClear
    split
    · exact h.answered good r _ _
    split
    · exact h.answered good r _ _
    · exact withinPlan_clearTake (h.answered good r _ _)
  | renderPreview => exact (onward (start.renderRequests r).1).within good after h
  | renderRepeat => exact (onward (start.renderRequests r).2).within good after h
  | logRead => exact (onward (start.readRequests r).2.2).within good after h
  | statusRead => exact (onward (start.answer r _ _)).within good after h
  | bridgeWrite => exact (start.bridgeRequests r).1.within good after h
  | bridgeRead => exact (onward (start.bridgeRequests r).2.1).within good after h
  | bridgeRecover => exact (onward (start.bridgeRequests r).2.2).within good after h
  | lineLevel => exact (onward (start.setLineLevel r)).within good after h
  | lineRead => exact (onward (start.answer r _ _)).within good after h

end

/-- Every event. -/
theorem Effect.withinPlan {c : Instr} {s u : State} (e : Effect c s u) (good : Coherent s) (sound : Tables.Sound s.tables)
    (h : TakeWithinPlan s) : TakeWithinPlan u := by
  have after := e.coherent good
  have start := Onward.refl s
  cases e with
  | taken meaning head kind may =>
    have rest : (removeRequest s).tables = s.tables := by rw [removeRequest_frame]
    have taken := start.removeRequest
    have ready : Coherent (removeRequest s) := good.of_stand (stand_removeRequest s)
    exact withinPlan_of_meaning ready (rest ▸ sound) (taken.within good ready h) _ meaning
  | reset head kind empty => exact withinPlan_partReset _ s
  | settleEnd phase holder => exact withinPlan_settleClose good after sound h phase
  | @conversion _ channel code due =>
    cases channel with
    | th1 => exact { h with underWay := fun way => { h.underWay way with } }
    | th0 =>
      refine { h with duty := heaterDuty_le ?_ _, underWay := fun way => { h.underWay way with } }
      intro p member
      obtain ⟨k, inside, rfl⟩ := List.getElem_of_mem member
      have range := sound.heaterCurve.2.1 _ (mem_of_seen (List.getElem?_eq_getElem inside))
      exact of_decide_eq_true (Bool.and_eq_true_iff.mp range).2
  | arrival locked joins =>
    refine Onward.within ?_ good after h
    unfold markHold
    split
    · rw [handFlow_frame]; exact start
    · exact start
  | unknown head kind may => exact ((start.removeRequest).answer _ _ _).within good after h
  | resetLength head kind length may => exact ((start.removeRequest).answer _ _ _).within good after h
  | recoverDone train => exact (start.endTrain _ _).within good after h
  | waitingReply waits room =>
    refine Onward.within (Onward.joinReply ?_ _) good after h
    exact start
  | relayReply oldest due room =>
    refine Onward.within (Onward.joinReply ?_ _) good after h
    exact start
  | trailDrain queue locked room =>
    refine Onward.within (Onward.queueReport ?_ _ _) good after h
    exact start
  | hold locked => exact Onward.within start good after h
  | linkInLost locked => exact start.loseLinkIn.within good after h
  | frameStart locked => exact (start.takeFrameStart _).within good after h
  | line locked =>
    obtain ⟨v, lined, taken⟩ := takeLine_taken _ _ _ s
    rcases taken with same | ⟨_, same⟩
    · exact (same ▸ start.lined lined).within good after h
    · exact (same ▸ (start.lined lined).endReadout).within good after h
  | frameEndSubframe locked frame => exact start.endReadout.within good after h
  | frameEndStray locked frame => exact start.endFrame.within good after h
  | linkOutLoss locked => exact start.loseLinkOut.within good after h
  | rowRead active free inside => exact Onward.within start good after h
  | clearingComplete take holder => exact (start.completeClearing take).within good after h
  | settleExpiry timer =>
    refine Onward.within (Onward.tryEndStepStart ?_) good after h
    exact start
  | gapExpiry timer =>
    refine Onward.within (Onward.enterExpose ?_) good after h
    exact start
  | exposureExpiry timer =>
    refine Onward.within (Onward.claimIngest ?_) good after h
    exact start
  | extensionExpiry timer =>
    refine Onward.within (Onward.abandonRender ?_ _) good after h
    exact start
  | readoutExpiry timer =>
    refine Onward.within (Onward.endReadout ?_) good after h
    exact start
  | ingest holder => exact (start.ingest (ingestRest_ingestNext s)).within good after h
  | minPulse timer => exact Onward.within start good after h
  | inputPin moved => exact (start.changePin _ _).within good after h
  | debounce timer =>
    refine Onward.within (Onward.acceptLevel ?_ _) good after h
    exact start
  | pwmPeriod => exact Onward.within start good after h
  | pwmEnd active part => exact Onward.within start good after h
  | poll scheduled =>
    refine Onward.within (Onward.claimPoll ?_) good after h
    exact start
  | busEnd flight possible => exact (start.endTransaction _ _ _ _).tryEndStepStart.within good after h
  | busTimeout flight =>
    refine Onward.within (Onward.tryEndStepStart (Onward.endTransaction ?_ _ _ _ _)) good after h
    exact start

theorem BoundaryEffect.withinPlan {c : Instr} {s u : State} (e : BoundaryEffect c s u) (good : Coherent s) (h : TakeWithinPlan s) :
    TakeWithinPlan u := by
  have after := e.coherent good
  have start := Onward.refl s
  cases e with
  | go locked => exact Onward.within start good after h
  | regain unlocked =>
    refine Onward.within ?_ good after h
    unfold regainLinkOut formReport
    dsimp only
    split <;> exact start
  | packetEnd progress => exact (start.endPacket _ _).within good after h

theorem withinPlan_powerOn (pins : BitVec 6) : TakeWithinPlan (State.powerOn pins) :=
  withinPlan_of_empty ⟨rfl, rfl⟩ rfl (Nat.zero_le _) (Nat.zero_le _) fun way => absurd way (not_underWay_of_noTake rfl)

/-- Settles O5: the bounds are kept by every operation; of the plan, the position and the room in the log move at the close of a
subframe alone, each record taking what the plan has asked for. -/
theorem stepKeepsBounds : Obligations.StepKeepsBounds := by
  refine ⟨fun s t => step_keeps_withinBounds, fun s t good sound h stepped => ?_⟩
  rcases step_cases stepped with rfl | ⟨c, rest, -, ran⟩
  · exact { h with underWay := fun way => { h.underWay way with } }
  · have before : TakeWithinPlan { s with pending := rest } := { h with underWay := fun way => { h.underWay way with } }
    have ready : Coherent { s with pending := rest } := { good with }
    cases ran with
    | powerOn pins => exact { withinPlan_powerOn pins with underWay := fun way => absurd way (not_underWay_of_noTake rfl) }
    | resetN => exact { withinPlan_powerOn 0#6 with underWay := fun way => absurd way (not_underWay_of_noTake rfl) }
    | nothing => exact before
    | linkInLocked => exact { before with underWay := fun way => { before.underWay way with } }
    | event effect =>
      have done := effect.withinPlan ready sound before
      exact (Onward.refl _).endEvent.within (effect.coherent ready) (coherent_endEvent (effect.coherent ready)) done
    | boundary effect =>
      have done := effect.withinPlan ready before
      exact (Onward.refl _).endBoundary.within (effect.coherent ready) (coherent_endBoundary (effect.coherent ready)) done

end Sys2Proof.Machine
end

section
/-! PROOFS. Arrival, taking and TABLE_OPEN: O11 to O15 -/

namespace Sys2Proof.Machine

/-! ### Arrival and taking (R168, R173 to R176) -/

/-- The Request Queue, its HOLD_REQ flag and the flow symbols are as they were. -/
def FlowKept (s t : State) : Prop :=
  t.port.requests = s.port.requests ∧ t.port.holdReqSent = s.port.holdReqSent ∧ t.out.sent = s.out.sent
    ∧ t.out.flowWaiting = s.out.flowWaiting

theorem FlowKept.refl (s : State) : FlowKept s s := ⟨rfl, rfl, rfl, rfl⟩

theorem FlowKept.work {s t u : State} (h : FlowKept s t) (w : Work t u) : FlowKept s u := by
  have port : (workRest u).port = (workRest t).port := by rw [w.rest]
  obtain ⟨requests, hold, sent, flow⟩ := h
  exact ⟨(show (workRest u).port.requests = (workRest t).port.requests by rw [port]).trans requests,
    (show (workRest u).port.holdReqSent = (workRest t).port.holdReqSent by rw [port]).trans hold,
    w.sent.1.trans sent, w.sent.2.trans flow⟩

section
variable {s t : State} (h : FlowKept s t) (r : Request)
include h

theorem FlowKept.answer (st : Status) (p : List Byte) : FlowKept s (answer r st p t) := h.work (work_answer r st p t)

theorem FlowKept.tableRequests : FlowKept s (openTable r t) ∧ FlowKept s (appendTable r t) ∧ FlowKept s (closeTable r t) := by
  refine ⟨?_, ?_, ?_⟩
  · unfold openTable
    split
    · exact h.answer r _ _
    split
    · exact h.answer r _ _
    · refine FlowKept.answer ?_ r _ _
      split <;> exact h
  · unfold appendTable
    split
    · exact h.answer r _ _
    split
    · exact h.answer r _ _
    dsimp only
    split
    · exact h.answer r _ _
    split
    · exact h.answer r _ _
    split
    · exact h.answer r _ _
    · refine FlowKept.answer ?_ r _ _
      exact h
  · unfold closeTable
    split
    · exact h.answer r _ _
    split
    · exact h.answer r _ _
    · refine FlowKept.answer ?_ r _ _
      split <;> exact h

theorem FlowKept.setParam : FlowKept s (setParam r t) := by
  have effects : ∀ (n : Param) (u : State), FlowKept s u → FlowKept s (paramEffects n u) := by
    intro n u hu
    unfold paramEffects
    split
    any_goals exact hu
    split <;> exact hu
  unfold Machine.setParam
  dsimp only
  split
  · exact h.answer r _ _
  split
  · exact h.answer r _ _
  split
  · exact h.answer r _ _
  · refine FlowKept.answer (effects _ _ ?_) r _ _
    exact h

theorem FlowKept.takeStart : FlowKept s (takeStart r t) := by
  unfold Machine.takeStart
  split
  · exact h.answer r _ _
  split
  · exact h.answer r _ _
  split
  · exact h.answer r _ _
  · refine FlowKept.work ?_ (work_enterTake _ _ _)
    exact h.answer r _ _

theorem FlowKept.takeClear : FlowKept s (takeClear r t) := by
  unfold Machine.takeClear
  split
  · exact h.answer r _ _
  split
  · exact h.answer r _ _
  · refine FlowKept.work ?_ (work_enterTake _ _ _)
    exact h.answer r _ _

theorem FlowKept.takeAbort : FlowKept s (takeAbort r t) := by
  unfold Machine.takeAbort
  rcases abortTake_work (Machine.answer r (abortStatus t) [] t) with work | ⟨-, e⟩
  · exact (h.answer r _ _).work work
  · rw [e]
    refine FlowKept.work ?_ (work_enterAborted _)
    exact h.answer r _ _

theorem FlowKept.presentRelay (device : Nat) (reg : RegAddr) (access : BusAccess) : FlowKept s (presentRelay r device reg access t) := by
  unfold Machine.presentRelay
  split
  · exact h.answer r _ _
  split
  · exact h.answer r _ _
  split
  · exact h.answer r _ _
  · refine FlowKept.work (FlowKept.work ?_ (work_arbitrate _)) (work_tryEndStepStart _)
    exact h

theorem FlowKept.bridgeRequests : FlowKept s (bridgeWrite r t) ∧ FlowKept s (bridgeRead r t) ∧ FlowKept s (bridgeRecover r t) := by
  refine ⟨?_, ?_, ?_⟩
  · unfold bridgeWrite
    split
    · exact h.answer r _ _
    split
    · exact h.answer r _ _
    split
    · exact h.answer r _ _
    split
    · exact h.answer r _ _
    · exact h.presentRelay r _ _ _
  · unfold bridgeRead
    split
    · exact h.answer r _ _
    split
    · exact h.answer r _ _
    · exact h.presentRelay r _ _ _
  · unfold bridgeRecover
    split
    · unfold askTrain
      split <;> exact h
    · exact h.answer r _ _

theorem FlowKept.setLineLevel : FlowKept s (setLineLevel r t) := by
  unfold Machine.setLineLevel
  split
  · split
    · refine FlowKept.answer ?_ r _ _
      exact h
    · exact h.answer r _ _
  · exact h.answer r _ _

/-- What a request asks for leaves the flow control alone. -/
theorem FlowKept.meaning {c : Instr} {n : Nat} {carry : Request → State → State} (m : Meaning c n carry) : FlowKept s (carry r t) := by
  have length : ∀ {k : Nat} {own : Request → State → State}, FlowKept s (own r t) → FlowKept s (fixedLength k own r t) :=
    fun own => fixedLength_keeps own (h.answer r _ _)
  obtain ⟨table, get, log, status, lines⟩ := work_readRequests r t
  obtain ⟨pause, resume, stop, finish⟩ := work_takeCommands r t
  obtain ⟨preview, again⟩ := work_renderRequests r t
  obtain ⟨write, read, recover⟩ := h.bridgeRequests r
  obtain ⟨opens, appends, closes⟩ := h.tableRequests r
  cases m with
  | tableOpen => exact length opens
  | tableAppend => exact appends
  | tableClose => exact length closes
  | tableRead => exact length (h.work table)
  | paramSet => exact length (h.setParam r)
  | paramGet => exact length (h.work get)
  | takeStart => exact length (h.takeStart r)
  | takePause => exact length (h.work pause)
  | takeResume => exact length (h.work resume)
  | takeStop => exact length (h.work stop)
  | takeFinish => exact length (h.work finish)
  | takeAbort => exact length (h.takeAbort r)
  | takeClear => exact length (h.takeClear r)
  | renderPreview => exact length (h.work preview)
  | renderRepeat => exact length (h.work again)
  | logRead => exact length (h.work log)
  | statusRead => exact length (h.work status)
  | bridgeWrite => exact write
  | bridgeRead => exact length read
  | bridgeRecover => exact length recover
  | lineLevel => exact length (h.setLineLevel r)
  | lineRead => exact length (h.work lines)

end

/-- The end of an event starts a packet and hands over no flow symbol. -/
theorem flowKept_endEvent (s : State) : FlowKept s (endEvent s) := by
  refine ⟨by rw [port_endEvent], by rw [port_endEvent], ?_⟩
  change (startFirst s).out.sent = _ ∧ (startFirst s).out.flowWaiting = _
  rcases startFirst_cases s with e | ⟨p, -, -, k, e⟩ <;> rw [e]
  · exact ⟨rfl, rfl⟩
  · unfold beginPacket
    split <;> exact ⟨rfl, rfl⟩

theorem FlowKept.ended {s t : State} (h : FlowKept s t) : FlowKept s (endEvent t) := by
  obtain ⟨requests, hold, sent, flow⟩ := h
  obtain ⟨requests', hold', sent', flow'⟩ := flowKept_endEvent t
  exact ⟨requests'.trans requests, hold'.trans hold, sent'.trans sent, flow'.trans flow⟩

/-! #### Flow symbols (R168) -/

/-- On a locked lane a flow symbol is sent at once without a packet in progress, and otherwise waits. -/
theorem handFlow_idle {s : State} (locked : s.out.locked = true) (idle : s.out.inProgress = none) (f : FlowSymbol) :
    handFlow f s = { s with out.sent := .symbol f :: s.out.sent } := by
  unfold handFlow
  rw [if_pos locked, idle]

theorem handFlow_busy {s : State} (locked : s.out.locked = true) (busy : s.out.inProgress ≠ none) (f : FlowSymbol) :
    handFlow f s = { s with out.flowWaiting := some f } := by
  unfold handFlow
  rw [if_pos locked]
  cases progress : s.out.inProgress with
  | none => exact absurd progress busy
  | some p => rfl

/-- What a flow symbol leaves of the lane's record. -/
theorem sent_handFlow {s : State} (locked : s.out.locked = true) (f : FlowSymbol) :
    (s.out.inProgress = none → (handFlow f s).out.sent = .symbol f :: s.out.sent)
    ∧ (s.out.inProgress ≠ none → (handFlow f s).out.sent = s.out.sent ∧ (handFlow f s).out.flowWaiting = some f) :=
  ⟨fun idle => by rw [handFlow_idle locked idle], fun busy => by rw [handFlow_busy locked busy]; exact ⟨rfl, rfl⟩⟩

/-! #### O11: a request arrives -/

theorem requestJoins_iff (tag kind length : Byte) (payload : List Byte) (crc : Half) (s : State) :
    (s.out.locked && requestJoins tag kind length payload crc s) = true ↔
      s.out.locked = true ∧ crc16 (requestBytes tag kind length payload) = crc ∧ length.toNat = payload.length
        ∧ length.toNat ≤ 60 ∧ s.port.requests.length < 8 := by
  unfold requestJoins
  simp only [Bool.and_eq_true, decide_eq_true_eq, and_assoc]
  rfl

/-- What the mark of R174 does behind an arrival. -/
theorem markHold_arrival {s : State} (q : Request) (locked : s.out.locked = true) :
    let joined := { s with port.requests := s.port.requests ++ [q] }
    let marks := s.port.requests.length = 5 ∧ s.port.holdReqSent = false
    FlowApart joined (markHold joined)
      ∧ (marks → (markHold joined).port.holdReqSent = true
        ∧ (s.out.inProgress = none → (markHold joined).out.sent = .symbol .holdReq :: s.out.sent)
        ∧ (s.out.inProgress ≠ none → (markHold joined).out.sent = s.out.sent
          ∧ (markHold joined).out.flowWaiting = some .holdReq))
      ∧ (¬ marks → (markHold joined).port.holdReqSent = s.port.holdReqSent ∧ (markHold joined).out.sent = s.out.sent
        ∧ (markHold joined).out.flowWaiting = s.out.flowWaiting) := by
  intro joined marks
  have guard : (joined.port.requests.length = Config.holdReqMark ∧ joined.port.holdReqSent = false) ↔ marks := by
    refine and_congr_left fun _ => ?_
    change (s.port.requests ++ [q]).length = 6 ↔ _
    rw [List.length_append, List.length_singleton]
    omega
  unfold markHold
  by_cases m : marks
  · rw [if_pos (guard.mpr m)]
    refine ⟨?_, fun _ => ⟨by rw [handFlow_frame], sent_handFlow (s := { joined with port.holdReqSent := true }) locked .holdReq⟩,
      fun other => absurd m other⟩
    exact ⟨by rw [handFlow_frame], begunPackets_handFlow _ _⟩
  · rw [if_neg fun g => m (guard.mp g)]
    exact ⟨⟨rfl, rfl⟩, fun own => absurd own m, fun _ => ⟨rfl, rfl, rfl⟩⟩

/-- Settles O11: the two CRCs are computed, and an arrival is judged by the four checks in one guard. -/
theorem requestArrivalJoinsQueue : Obligations.RequestArrivalJoinsQueue := by
  refine ⟨by decide +kernel, fun tag kind length payload crc s => ⟨fun whole => ?_, fun other => ?_⟩⟩
  · have joins := (requestJoins_iff tag kind length payload crc s).mpr whole
    obtain ⟨apart, marked, unmarked⟩ := markHold_arrival (s := s) { tag := tag, kind := kind, payload := payload } whole.1
    refine ⟨endEvent (markHold { s with port.requests := s.port.requests ++ [{ tag := tag, kind := kind, payload := payload }] }),
      ?_, apart.ends.endEvent, ?_⟩
    · change execRequestArrival tag kind length payload crc s = _
      unfold execRequestArrival
      rw [if_pos joins]
    · obtain ⟨_, hold, sent, flow⟩ := flowKept_endEvent
        (markHold { s with port.requests := s.port.requests ++ [{ tag := tag, kind := kind, payload := payload }] })
      rw [hold, sent, flow]
      exact ⟨marked, unmarked⟩
  · change execRequestArrival tag kind length payload crc s = _
    unfold execRequestArrival
    rw [if_neg fun joins => other ((requestJoins_iff tag kind length payload crc s).mp joins)]

/-! #### O12: a request is taken -/

/-- What the mark of R174 does at a taking. -/
theorem removeRequest_marks {s : State} (some : s.port.requests ≠ []) (locked : s.out.locked = true) :
    let marks := s.port.requests.length = 3 ∧ s.port.holdReqSent = true
    (marks → (removeRequest s).port.holdReqSent = false
        ∧ (s.out.inProgress = none → (removeRequest s).out.sent = .symbol .goReq :: s.out.sent)
        ∧ (s.out.inProgress ≠ none → (removeRequest s).out.sent = s.out.sent
          ∧ (removeRequest s).out.flowWaiting = Option.some .goReq))
      ∧ (¬ marks → (removeRequest s).port.holdReqSent = s.port.holdReqSent ∧ (removeRequest s).out.sent = s.out.sent
        ∧ (removeRequest s).out.flowWaiting = s.out.flowWaiting) := by
  intro marks
  have guard : (s.port.requests.tail.length = Config.goReqMark ∧ s.port.holdReqSent = true) ↔ marks := by
    refine and_congr_left fun _ => ?_
    change s.port.requests.tail.length = 2 ↔ _
    have positive := List.length_pos_of_ne_nil some
    rw [List.length_tail]
    omega
  unfold removeRequest markGo
  by_cases m : marks
  · rw [if_pos (by exact guard.mpr m)]
    exact ⟨fun _ => ⟨by rw [handFlow_frame],
      sent_handFlow (s := { s with port.requests := s.port.requests.tail, port.holdReqSent := false }) locked .goReq⟩,
      fun other => absurd m other⟩
  · rw [if_neg fun g => m (guard.mp g)]
    exact ⟨fun own => absurd own m, fun _ => ⟨rfl, rfl, rfl⟩⟩

/-- A request of an unknown kind is taken like any other (R175). -/
theorem exec_unknownKind {s : State} {r : Request} (can : CanTake s r.kind.toNat r) (unknown : r.kind.toNat = 0 ∨ 23 < r.kind.toNat) :
    exec .requestUnknownKind s = .next (endEvent (answer r .unknownKind [] (removeRequest s))) := by
  obtain ⟨head, -, unmarked, room, -⟩ := can
  change takeRequest (fun k => !kindKnown k) (fun r s => answer r .unknownKind [] s) s = _
  unfold takeRequest
  cases queue : s.port.requests with
  | nil => simp [queue] at head
  | cons x rest =>
    obtain rfl : x = r := by simpa [queue] using head
    have other : kindKnown x.kind = false := decide_eq_false (by omega)
    simp [other, mayTake, unmarked, outQueueHasRoom, room]

theorem exec_taken {c : Instr} {n : Nat} {carry : Request → State → State} (m : Meaning c n carry) {s : State} {r : Request}
    (can : CanTake s n r) : exec c s = .next (endEvent (carry r (removeRequest s))) := by
  rw [exec_of_meaning m, takeRequest_of_canTake can]

/-- Settles O12: the taking alone moves the flag and hands over GO_REQ; what the request asks for, and the end of the event, leave
both as they are. -/
theorem takingHandsOverGoReq : Obligations.TakingHandsOverGoReq := by
  intro c s r can known marks
  have taken : ∃ u, exec c s = .next (endEvent u) ∧ FlowKept (removeRequest s) u := by
    rcases known with row | ⟨rfl, unknown⟩
    · obtain ⟨carry, m⟩ := exists_meaning row
      exact ⟨_, exec_taken m can, (FlowKept.refl _).meaning r m⟩
    · exact ⟨_, exec_unknownKind can unknown, (FlowKept.refl _).answer r _ _⟩
  obtain ⟨u, runs, kept⟩ := taken
  obtain ⟨requests, hold, sent, flow⟩ := kept.ended
  refine ⟨_, runs, requests.trans (removeRequest_requests s), ?_⟩
  rw [hold, sent, flow]
  have some : s.port.requests ≠ [] := by
    intro none
    have head := can.head
    rw [none] at head
    cases head
  exact removeRequest_marks some can.locked

/-! #### O13: a request waits -/

/-- The port may not take. -/
theorem mayTake_shut {s : State} (shut : s.port.waiting ≠ none ∨ 16 ≤ s.out.queue.length) : mayTake s = false := by
  rcases shut with mark | full
  · simp [mayTake, mark]
  · have full : ¬ s.out.queue.length < Config.outQueueCapacity := Nat.not_lt.mpr full
    simp [mayTake, outQueueHasRoom, full]

theorem takeRequest_waits {isK : Byte → Bool} {carry : Request → State → State} {s : State}
    (shut : ∀ r, s.port.requests.head? = some r → isK r.kind = true → mayTake s = false) : takeRequest isK carry s = .next s := by
  unfold takeRequest
  cases queue : s.port.requests with
  | nil => rfl
  | cons r rest =>
    have waits := shut r (by rw [queue]; rfl)
    cases kind : isK r.kind with
    | false => simp [kind]
    | true => simp [kind, waits kind]

/-- Settles O13: every taking has one guard, the kind of the request at the head and the port's readiness. -/
theorem requestWaitsItsTurn : Obligations.RequestWaitsItsTurn := by
  intro s
  refine ⟨fun row known waits => ?_, fun waits => ?_, fun waits => ?_⟩
  · obtain ⟨carry, m⟩ := exists_meaning (c := row.1) (n := row.2) known
    rw [exec_of_meaning m]
    exact takeRequest_waits fun r head kind => mayTake_shut (waits r head (of_decide_eq_true kind))
  · change takeRequest (fun k => !kindKnown k) _ s = _
    refine takeRequest_waits fun r head kind => mayTake_shut (waits r head ?_)
    have unknown : kindKnown r.kind = false := by simpa using kind
    have outside := of_decide_eq_false unknown
    omega
  · change execPartReset s = _
    unfold execPartReset
    split
    · rfl
    · rename_i r rest queue
      have own := waits r (by rw [queue]; rfl)
      by_cases kind : r.kind.toNat = 23
      · obtain ⟨some, shut⟩ := own kind
        rw [if_neg (by simp [some])]
        exact takeRequest_waits fun _ _ _ => mayTake_shut shut
      · rw [if_neg (by simp [isKind, kind])]
        refine takeRequest_waits fun x head own => ?_
        obtain rfl : r = x := by simpa [queue] using head
        exact absurd (of_decide_eq_true own) kind

/-! #### O14: refusals of every kind -/

/-- A kind of a fixed length that comes with another one. -/
theorem exec_badLength {c : Instr} {n k : Nat} {own : Request → State → State} (m : Meaning c n (fixedLength k own)) {s : State}
    {r : Request} (can : CanTake s n r) (length : r.payload.length ≠ k) :
    ∃ t, exec c s = .next t ∧ Ends (replied r .badLength [] s) t := by
  refine ⟨_, exec_taken m can, ?_⟩
  unfold fixedLength
  rw [if_neg length]
  exact answer_ends can _ _

theorem exec_partReset_badLength {s : State} {r : Request} (can : CanTake s 23 r) (length : r.payload.length ≠ 0) :
    ∃ t, exec .partReset s = .next t ∧ Ends (replied r .badLength [] s) t := by
  refine ⟨endEvent (answer r .badLength [] (removeRequest s)), ?_, answer_ends can _ _⟩
  rw [← takeRequest_of_canTake can fun r s => answer r .badLength [] s]
  change execPartReset s = _
  unfold execPartReset
  have head := can.head
  cases queue : s.port.requests with
  | nil => rw [queue] at head; cases head
  | cons x rest =>
    obtain rfl : x = r := by simpa [queue] using head
    have some : x.payload.isEmpty = false := by simpa using length
    simp [some]

/-- Settles O14: each fixed length stands in the table of meanings; the two lengths that depend on fields are judged first. -/
theorem unknownKindAndWrongLengthRefused : Obligations.UnknownKindAndWrongLengthRefused := by
  refine ⟨fun s r can unknown => ⟨_, exec_unknownKind can unknown, answer_ends can _ _⟩, fun row member s r can length => ?_,
    fun s r can short => ?_, fun s r can short => ?_⟩
  · simp only [fixedLengthRows, List.mem_cons, List.not_mem_nil, or_false] at member
    rcases member with rfl | rfl | rfl | rfl | rfl | rfl | rfl | rfl | rfl | rfl | rfl | rfl | rfl | rfl | rfl | rfl | rfl | rfl
      | rfl | rfl | rfl
    case inr.inr.inr.inr.inr.inr.inr.inr.inr.inr.inr.inr.inr.inr.inr.inr.inr.inr.inr.inr => exact exec_partReset_badLength can length
    all_goals exact exec_badLength (by constructor) can length
  · refine ⟨_, exec_taken .tableAppend can, ?_⟩
    unfold appendTable
    rw [if_pos short]
    exact answer_ends can _ _
  · refine ⟨_, exec_taken .bridgeWrite can, ?_⟩
    unfold bridgeWrite
    rw [if_pos short]
    exact answer_ends can _ _

/-! ### The requests: what each leaves (10.2) -/

theorem LineBank.get_map (f : LineNo → LineState → LineState) (b : LineBank) (l : LineNo) : (b.map f).get l = f l (b.get l) := by
  fin_cases l <;> rfl

/-- The end of an event drives the lines by the signals as the event left them. -/
theorem lines_endEvent (u : State) : (endEvent u).lines = u.lines.map (driveLine u) := by
  unfold endEvent
  rcases startFirst_cases u with e | ⟨p, -, -, k, e⟩ <;> rw [e]
  · rfl
  · unfold beginPacket
    split <;> rfl

theorem tables_endEvent (u : State) : (endEvent u).tables = u.tables := by
  obtain ⟨-, -, -, -, -, -, -, -, -, -, -, tables, -⟩ := endEvent_fields u
  exact tables

/-- States that differ in the levels driven and in the minimum-pulse timers alone. -/
theorem ends_of_lines {u v : State} (rest : { v with lines := u.lines } = u)
    (lines : v.lines.map (fun _ x => { x with driven := false, minTimer := none })
      = u.lines.map (fun _ x => { x with driven := false, minTimer := none })) : Ends u v := by
  refine ⟨?_, ?_, ?_⟩
  · unfold stillPart
    rw [lines, ← rest]
  · rw [← rest]; rfl
  · rw [← rest]; rfl

/-- The lane's record as a taking leaves it. -/
theorem begun_took {flag : Bool} {sent : List LaneItem} {flow : Option FlowSymbol} {s : State}
    (same : sent.reverse.filterMap LaneItem.packet = s.out.sent.reverse.filterMap LaneItem.packet) :
    begunPackets (tookRequest flag sent flow s) = begunPackets s := by
  unfold begunPackets
  change sent.reverse.filterMap LaneItem.packet ++ s.out.inProgress.toList = _
  rw [same]

/-- A reply behind an effect, seen without the flow symbols of the taking. -/
theorem FlowApart.answered {u v : State} (h : FlowApart u v) (locked : u.out.locked = true)
    (room : u.out.queue.length < Config.outQueueCapacity) (r : Request) (st : Status) (p : List Byte) :
    Ends { u with out.queue := u.out.queue ++ [r.reply st p] } (endEvent (answer r st p v)) := by
  have queue : v.out.queue = u.out.queue := congrArg (·.out.queue) h.rest
  have lock : v.out.locked = u.out.locked := congrArg (·.out.locked) h.rest
  rw [answer_queued (lock.trans locked) (by rw [queue]; exact room), queue]
  have joined : FlowApart { u with out.queue := u.out.queue ++ [r.reply st p] } { v with out.queue := u.out.queue ++ [r.reply st p] } :=
    ⟨congrArg (fun w : State => { w with out.queue := u.out.queue ++ [r.reply st p] }) h.rest, h.begun⟩
  exact joined.ends.endEvent

theorem unfixed_iff (t : TakeState) : t.unfixed = true ↔ t ∈ [TakeState.noTake, .aborted, .finished] := by
  cases t <;> decide

theorem takeFixed_iff (n : TableName) : n.takeFixed = true ↔ n ∈ takeFixedTables := by
  cases n <;> decide

/-- The guard of what is take-fixed (R179, R184). -/
theorem fixed_iff (fixed : Bool) (t : TakeState) :
    (fixed && !t.unfixed) = true ↔ fixed = true ∧ t ∉ [TakeState.noTake, .aborted, .finished] := by
  rw [Bool.and_eq_true, Bool.not_eq_true', ← Bool.not_eq_true, unfixed_iff]

/-- A kind of a fixed length, taken with that length. -/
theorem exec_form {c : Instr} {n k : Nat} {own : Request → State → State} (m : Meaning c n (fixedLength k own)) {s : State}
    {r : Request} (can : CanTake s n r) (length : r.payload.length = k) :
    ∃ flag sent flow, sent.reverse.filterMap LaneItem.packet = s.out.sent.reverse.filterMap LaneItem.packet
      ∧ exec c s = .next (endEvent (own r (tookRequest flag sent flow s))) := by
  obtain ⟨flag, sent, flow, same, runs⟩ := takeRequest_form can (fixedLength k own)
  refine ⟨flag, sent, flow, same, ?_⟩
  rw [exec_of_meaning m, runs, fixedLength, if_pos length]

theorem answer_frame (r : Request) (st : Status) (p : List Byte) (s : State) :
    answer r st p s = { s with out.queue := (answer r st p s).out.queue } := joinReply_frame _ s

theorem tables_answered (r : Request) (st : Status) (p : List Byte) (s : State) : (endEvent (answer r st p s)).tables = s.tables := by
  rw [tables_endEvent, answer_frame]

theorem lines_answered (r : Request) (st : Status) (p : List Byte) (s : State) :
    (endEvent (answer r st p s)).lines = s.lines.map (driveLine s) := by
  rw [lines_endEvent, answer_frame]
  rfl

section
variable {s : State} {n : Nat} {r : Request} (can : CanTake s n r) {flag : Bool} {sent : List LaneItem} {flow : Option FlowSymbol}
  (same : sent.reverse.filterMap LaneItem.packet = s.out.sent.reverse.filterMap LaneItem.packet)
include can same

/-- A refusal, in the form of the taken state. -/
theorem refused_ends (st : Status) (p : List Byte) : Ends (replied r st p s) (endEvent (answer r st p (tookRequest flag sent flow s))) := by
  have apart : FlowApart { s with port.requests := s.port.requests.tail } (tookRequest flag sent flow s) := ⟨rfl, begun_took same⟩
  exact apart.answered can.locked can.room r st p

/-- An effect on other blocks and its reply, in the form of the taken state. -/
theorem took_ends (st : Status) (p : List Byte) {u v : State}
    (apart : { v with port.holdReqSent := u.port.holdReqSent, out.sent := u.out.sent, out.flowWaiting := u.out.flowWaiting } = u)
    (out : v.out = (tookRequest flag sent flow s).out) (lane : u.out = s.out) :
    Ends { u with out.queue := u.out.queue ++ [r.reply st p] } (endEvent (answer r st p v)) := by
  have begun : begunPackets v = begunPackets u := by
    unfold begunPackets
    rw [out, lane]
    exact begun_took same
  have apart : FlowApart u v := ⟨apart, begun⟩
  exact apart.answered (by rw [lane]; exact can.locked) (by rw [lane]; exact can.room) r st p

end

/-! #### O15: TABLE_OPEN -/

theorem stateOf_opened (n : TableName) (t : Tables) : (t.opened n).stateOf n = .loading ∧ (t.opened n).lengthOf n = 0 := by
  cases n <;> exact ⟨rfl, rfl⟩

theorem others_opened {n m : TableName} (other : m ≠ n) (t : Tables) :
    (t.opened n).stateOf m = t.stateOf m ∧ (t.opened n).entryBytes m = t.entryBytes m := by
  cases n <;> cases m <;> first | exact absurd rfl other | exact ⟨rfl, rfl⟩

theorem openTable_unknown {r : Request} (name : TableName.ofCode (read1 r.payload 0) = none) (s : State) :
    openTable r s = answer r .badArg [] s := by
  unfold openTable
  rw [name]

theorem openTable_eq {r : Request} {n : TableName} (name : TableName.ofCode (read1 r.payload 0) = some n) (s : State) :
    openTable r s = if n ∈ takeFixedTables ∧ s.seq.takeState ∉ [.noTake, .aborted, .finished] then answer r .badState [] s
      else answer r .ok (tableAnswer n (s.tables.opened n))
        { s with tables := s.tables.opened n, lines := if n = .lines then s.lines.map (fun _ x => releaseLine x) else s.lines } := by
  have guard := fixed_iff n.takeFixed s.seq.takeState
  rw [takeFixed_iff] at guard
  unfold openTable
  rw [name]
  refine (if_congr guard rfl ?_)
  dsimp only
  congr 1
  split <;> rfl

/-- With LINES open no line is listed, and none moves (R26). -/
theorem lineSetup_opened {s : State} (opened : s.tables.lines = Table.opened) (l : LineNo) : lineSetup s l = LineSetup.unlisted := by
  unfold lineSetup
  rw [opened]
  rfl

theorem driveLine_unlisted {s : State} {l : LineNo} (setup : lineSetup s l = LineSetup.unlisted) (x : LineState) :
    driveLine s l x = x := by
  unfold driveLine
  rw [setup]
  rfl

/-- Settles O15: the table is emptied in every case that is not refused; with LINES empty every line is an unlisted INPUT. -/
theorem tableOpenEmptiesTable : Obligations.TableOpenEmptiesTable := by
  intro s r can length
  obtain ⟨flag, sent, flow, same, runs⟩ := exec_form .tableOpen can length
  cases name : TableName.ofCode (read1 r.payload 0) with
  | none => exact ⟨_, runs, by rw [openTable_unknown name]; exact refused_ends can same _ _⟩
  | some n =>
    rw [openTable_eq name] at runs
    by_cases fixed : n ∈ takeFixedTables ∧ s.seq.takeState ∉ [.noTake, .aborted, .finished]
    · rw [if_pos (by exact fixed)] at runs
      refine ⟨_, runs, ?_⟩
      dsimp only
      rw [if_pos fixed]
      exact refused_ends can same _ _
    · rw [if_neg (by exact fixed)] at runs
      obtain ⟨loading, empty⟩ := stateOf_opened n s.tables
      have payload : tableAnswer n (s.tables.opened n) = [1#8, 0#8, 0#8] := by
        unfold tableAnswer
        rw [loading, empty]
        decide
      refine ⟨_, runs, ?_⟩
      dsimp only
      rw [if_neg fixed, tables_answered]
      refine ⟨?_, loading, empty, fun m other => others_opened other _, fun own l => ⟨?_, ?_⟩⟩
      · rw [← payload]
        refine Ends.trans (ends_of_lines rfl ?_) (took_ends (flag := flag) can same _ _ (u := { s with
          port.requests := s.port.requests.tail, tables := s.tables.opened n,
          lines := if n = .lines then s.lines.map (fun _ x => releaseLine x) else s.lines }) rfl rfl rfl)
        dsimp only
        split <;> rfl
      · subst own
        exact lineSetup_opened (by rw [tables_answered]; rfl) l
      · subst own
        rw [lines_answered, LineBank.get_map, driveLine_unlisted (lineSetup_opened rfl l), if_pos rfl, LineBank.get_map]
        rfl

end Sys2Proof.Machine
end

section
/-! PROOFS. The fields of payloads, table entries in their bytes, and the tables: O16 to O20 -/

namespace Sys2Proof.Machine

/-! ### The fields of a payload (R191): what is written and what is read -/

theorem read1_lt (p : List Byte) (i : Nat) : read1 p i < 256 := (p.getD i 0#8).isLt

theorem read2_lt (p : List Byte) (i : Nat) : read2 p i < 65536 := by
  have high := read1_lt p i
  have low := read1_lt p (i + 1)
  unfold read2
  omega

theorem byteOf_toNat {n : Nat} (small : n < 256) : (byteOf n).toNat = n := by
  simp only [byteOf, BitVec.toNat_ofNat]
  exact Nat.mod_eq_of_lt small

theorem byteOf_of_toNat (b : Byte) : byteOf b.toNat = b := BitVec.eq_of_toNat_eq (byteOf_toNat b.isLt)

theorem number_single (a : Byte) : number [a] = a.toNat := by simp [number]

theorem number_pair (a b : Byte) : number [a, b] = 256 * a.toNat + b.toNat := by simp [number]

theorem number_quad (a b c d : Byte) :
    number [a, b, c, d] = 16777216 * a.toNat + 65536 * b.toNat + 256 * c.toNat + d.toNat := by
  simp only [number, List.foldl_cons, List.foldl_nil]
  omega

theorem byteOf_mod (n : Nat) : (byteOf n).toNat = n % 256 := by simp [byteOf, BitVec.toNat_ofNat]

theorem byteOf_congr {m n : Nat} (same : m % 256 = n % 256) : byteOf m = byteOf n :=
  BitVec.eq_of_toNat_eq (by rw [byteOf_mod, byteOf_mod, same])

theorem number_bytes2 {n : Nat} (small : n < 65536) : number (bytes2 n) = n := by
  rw [bytes2, number_pair, byteOf_mod, byteOf_mod]
  omega

theorem number_bytes4 {n : Nat} (small : n < 4294967296) : number (bytes4 n) = n := by
  rw [bytes4, number_quad, byteOf_mod, byteOf_mod, byteOf_mod, byteOf_mod]
  omega

/-- Two bytes taken apart are the two bytes. -/
theorem bytes2_pair (a b : Byte) : bytes2 (a.toNat * 256 + b.toNat) = [a, b] := by
  have high : byteOf ((a.toNat * 256 + b.toNat) / 256) = a := by
    refine BitVec.eq_of_toNat_eq ?_
    rw [byteOf_mod]
    omega
  have low : byteOf (a.toNat * 256 + b.toNat) = b := by
    refine BitVec.eq_of_toNat_eq ?_
    rw [byteOf_mod]
    omega
  rw [bytes2, high, low]

theorem bytes4_quad (a b c d : Byte) :
    bytes4 ((a.toNat * 256 + b.toNat) * 65536 + (c.toNat * 256 + d.toNat)) = [a, b, c, d] := by
  have split : ∀ n, bytes4 n = bytes2 (n / 65536) ++ bytes2 (n % 65536) := by
    intro n
    rw [bytes4, byteOf_congr (show n / 16777216 % 256 = n / 65536 / 256 % 256 by omega),
      byteOf_congr (show n / 256 % 256 = n % 65536 / 256 % 256 by omega), byteOf_congr (show n % 256 = n % 65536 % 256 by omega)]
    rfl
  have below : c.toNat * 256 + d.toNat < 65536 := by omega
  have top : ((a.toNat * 256 + b.toNat) * 65536 + (c.toNat * 256 + d.toNat)) / 65536 = a.toNat * 256 + b.toNat := by omega
  have rest : ((a.toNat * 256 + b.toNat) * 65536 + (c.toNat * 256 + d.toNat)) % 65536 = c.toNat * 256 + d.toNat := by omega
  rw [split, top, rest, bytes2_pair, bytes2_pair]
  rfl

/-! #### A field read at its place -/

theorem field_eq_getD (p : List Byte) : ∀ (size i : Nat), i + size ≤ p.length →
    field p i size = (List.range size).map fun k => p.getD (i + k) 0#8 := by
  intro size i fits
  refine List.ext_getElem ?_ fun k first second => ?_
  · simp only [field, List.length_take, List.length_drop, List.length_map, List.length_range]
    omega
  · have inside : i + k < p.length := by
      simp only [List.length_map, List.length_range] at second
      omega
    simp only [field, List.getElem_take, List.getElem_drop, List.getElem_map, List.getElem_range]
    exact (List.getD_eq_getElem p _ inside).symm

theorem valueAt_one {p : List Byte} {i : Nat} (fits : i + 1 ≤ p.length) : valueAt p i 1 = read1 p i := by
  rw [valueAt, field_eq_getD p 1 i fits]
  exact number_single _

theorem valueAt_two {p : List Byte} {i : Nat} (fits : i + 2 ≤ p.length) : valueAt p i 2 = read2 p i := by
  rw [valueAt, field_eq_getD p 2 i fits, read2, Nat.mul_comm]
  exact number_pair _ _

theorem valueAt_four {p : List Byte} {i : Nat} (fits : i + 4 ≤ p.length) : valueAt p i 4 = read4 p i := by
  rw [valueAt, field_eq_getD p 4 i fits, read4, read2, read2]
  refine (number_quad _ _ _ _).trans ?_
  simp only [read1, Nat.add_zero, Nat.add_assoc, Nat.reduceAdd]
  omega

/-- Two's complement of a word, by its bytes. -/
theorem signedNumber_of_number {w n : Nat} (bytes : List Byte) (length : 8 * bytes.length = w) (value : number bytes = n)
    (small : n < 2 ^ w) : signedNumber bytes = (BitVec.ofNat w n).toInt := by
  have power : (256 : Nat) ^ bytes.length = 2 ^ w := by
    rw [← length, pow_mul]
    rfl
  have castPower : (256 : Int) ^ bytes.length = ((2 ^ w : Nat) : Int) := by exact_mod_cast power
  rw [signedNumber, BitVec.toInt_eq_toNat_cond, BitVec.toNat_ofNat, Nat.mod_eq_of_lt small, value, power, castPower]

theorem signedAt_two {p : List Byte} {i : Nat} (fits : i + 2 ≤ p.length) : signedAt p i 2 = readSigned2 p i := by
  rw [readSigned2, ← valueAt_two fits]
  refine signedNumber_of_number _ ?_ rfl ?_
  · rw [field_eq_getD p 2 i fits]; rfl
  · have := read2_lt p i
    rw [← valueAt_two fits] at this
    simpa using this

theorem read4_lt (p : List Byte) (i : Nat) : read4 p i < 4294967296 := by
  have high := read2_lt p i
  have low := read2_lt p (i + 2)
  unfold read4
  omega

theorem signedAt_four {p : List Byte} {i : Nat} (fits : i + 4 ≤ p.length) : signedAt p i 4 = readSigned4 p i := by
  rw [readSigned4, ← valueAt_four fits]
  refine signedNumber_of_number _ ?_ rfl ?_
  · rw [field_eq_getD p 4 i fits]; rfl
  · have := read4_lt p i
    rw [← valueAt_four fits] at this
    simpa using this

theorem signedNumber_signed2 {v : Int} (low : -32768 ≤ v) (high : v ≤ 32767) : signedNumber (signed2 v) = v := by
  have small : (BitVec.ofInt 16 v).toNat < 65536 := (BitVec.ofInt 16 v).isLt
  rw [signedNumber_of_number (w := 16) (signed2 v) rfl (number_bytes2 small) small, BitVec.ofNat_toNat, BitVec.setWidth_eq,
    BitVec.toInt_ofInt]
  exact Int.bmod_eq_of_le (by norm_num; omega) (by norm_num; omega)

theorem signedNumber_signed4 {v : Int} (low : -2147483648 ≤ v) (high : v ≤ 2147483647) : signedNumber (signed4 v) = v := by
  have small : (BitVec.ofInt 32 v).toNat < 4294967296 := (BitVec.ofInt 32 v).isLt
  rw [signedNumber_of_number (w := 32) (signed4 v) rfl (number_bytes4 small) small, BitVec.ofNat_toNat, BitVec.setWidth_eq,
    BitVec.toInt_ofInt]
  exact Int.bmod_eq_of_le (by norm_num; omega) (by norm_num; omega)

/-- A signed pair of bytes, read and written again. -/
theorem signed2_pair (a b : Byte) : signed2 (BitVec.ofNat 16 (a.toNat * 256 + b.toNat)).toInt = [a, b] := by
  have small : a.toNat * 256 + b.toNat < 2 ^ 16 := by omega
  rw [signed2, BitVec.ofInt_toInt, BitVec.toNat_ofNat, Nat.mod_eq_of_lt small, bytes2_pair]

/-! ### Named values and their codes (R191) -/

theorem kindOfCode_eq (k : Nat) : kindOfCode k = [Kind.dark, .light][k]? := match k with | 0 | 1 | _ + 2 => rfl

theorem cadenceOfCode_eq (k : Nat) : cadenceOfCode k = [Cadence.internal, .external][k]? := match k with | 0 | 1 | _ + 2 => rfl

theorem methodOfCode_eq (k : Nat) : methodOfCode k = [DefectMethod.substitute, .exclude][k]? := match k with | 0 | 1 | _ + 2 => rfl

theorem regionOfCode_eq (k : Nat) : regionOfCode k = [Region.sky, .ground][k]? := match k with | 0 | 1 | _ + 2 => rfl

theorem modeOfCode_eq (k : Nat) : modeOfCode k = [Mode.meanReject, .peak, .peakFade, .exclude][k]? :=
  match k with | 0 | 1 | 2 | 3 | _ + 4 => rfl

theorem sourceOfCode_eq (k : Nat) :
    sourceOfCode k = [LineSource.user, .expose, .ready, .shutter, .stepLevel, .heater, .readout][k]? :=
  match k with | 0 | 1 | 2 | 3 | 4 | 5 | 6 | _ + 7 => rfl

theorem functionOfCode_eq (k : Nat) :
    functionOfCode k = [LineFunction.none, .expFeedback, .triggerIn, .pauseIn, .stopIn][k]? :=
  match k with | 0 | 1 | 2 | 3 | 4 | _ + 5 => rfl

theorem readFlag_eq (p : List Byte) (i : Nat) : readFlag p i = [false, true][read1 p i]? := by
  unfold readFlag
  match read1 p i with
  | 0 | 1 | _ + 2 => rfl

theorem kindOfCode_iff {k : Nat} {e : Kind} : kindOfCode k = some e ↔ k = e.code :=
  match k with | 0 | 1 | _ + 2 => by cases e <;> simp [kindOfCode, Kind.code]

theorem cadenceOfCode_iff {k : Nat} {e : Cadence} : cadenceOfCode k = some e ↔ k = e.code :=
  match k with | 0 | 1 | _ + 2 => by cases e <;> simp [cadenceOfCode, Cadence.code]

theorem methodOfCode_iff {k : Nat} {e : DefectMethod} : methodOfCode k = some e ↔ k = e.code :=
  match k with | 0 | 1 | _ + 2 => by cases e <;> simp [methodOfCode, DefectMethod.code]

theorem regionOfCode_iff {k : Nat} {e : Region} : regionOfCode k = some e ↔ k = e.code :=
  match k with | 0 | 1 | _ + 2 => by cases e <;> simp [regionOfCode, Region.code]

theorem modeOfCode_iff {k : Nat} {e : Mode} : modeOfCode k = some e ↔ k = e.code :=
  match k with | 0 | 1 | 2 | 3 | _ + 4 => by cases e <;> simp [modeOfCode, Mode.code]

theorem sourceOfCode_iff {k : Nat} {e : LineSource} : sourceOfCode k = some e ↔ k = e.code :=
  match k with | 0 | 1 | 2 | 3 | 4 | 5 | 6 | _ + 7 => by cases e <;> simp [sourceOfCode, LineSource.code]

theorem functionOfCode_iff {k : Nat} {e : LineFunction} : functionOfCode k = some e ↔ k = e.code :=
  match k with | 0 | 1 | 2 | 3 | 4 | _ + 5 => by cases e <;> simp [functionOfCode, LineFunction.code]

theorem wideOfCode_iff {k : Nat} {e : Bool} : wideOfCode k = some e ↔ k = if e then 16 else 8 := by
  unfold wideOfCode
  split <;> cases e <;> simp_all

theorem readFlag_iff {p : List Byte} {i : Nat} {b : Bool} : readFlag p i = some b ↔ read1 p i = boolCode b := by
  unfold readFlag
  match read1 p i with
  | 0 | 1 | _ + 2 => cases b <;> simp [boolCode]

/-! ### Table entries in their bytes (11.4): what is read is the layout, and what is written is what was read -/

theorem named_iff {α : Type} {names : List α} {f : Nat → Option α} (coded : ∀ k, f k = names[k]?) {b : List Byte} {i : Nat} {e : α}
    (fits : i + 1 ≤ b.length) : Named names b i e ↔ f (read1 b i) = some e := by
  rw [Named, valueAt_one fits, coded]

theorem flag_iff {b : List Byte} {i : Nat} {e : Bool} (fits : i + 1 ≤ b.length) :
    Named [false, true] b i e ↔ readFlag b i = some e := by
  rw [Named, valueAt_one fits, readFlag_eq]

theorem readPlanStep_iff {b : List Byte} (size : b.length = 16) (e : PlanStep) : readPlanStep b = some e ↔ PlanLayout b e := by
  simp only [readPlanStep, Option.bind_eq_bind, Option.bind_eq_some_iff, Option.pure_def, Option.some.injEq]
  constructor
  · rintro ⟨kind, isKind, cadence, isCadence, forward, isForward, level, isLevel, rfl⟩
    exact ⟨size, (named_iff kindOfCode_eq (by omega)).mpr isKind, valueAt_two (by omega), valueAt_four (by omega),
      valueAt_four (by omega), (named_iff cadenceOfCode_eq (by omega)).mpr isCadence, (flag_iff (by omega)).mpr isForward,
      (flag_iff (by omega)).mpr isLevel, valueAt_one (by omega), valueAt_one (by omega)⟩
  · rintro ⟨-, kind, count, exposure, gap, cadence, forward, level, first, scripts⟩
    refine ⟨_, (named_iff kindOfCode_eq (by omega)).mp kind, _, (named_iff cadenceOfCode_eq (by omega)).mp cadence, _,
      (flag_iff (by omega)).mp forward, _, (flag_iff (by omega)).mp level, ?_⟩
    rw [← valueAt_two (by omega), ← valueAt_four (by omega), ← valueAt_four (by omega), ← valueAt_one (by omega),
      ← valueAt_one (by omega), count, exposure, gap, first, scripts]

theorem readDefect_iff {b : List Byte} (size : b.length = 5) (e : Defect) : readDefect b = some e ↔ DefectLayout b e := by
  simp only [readDefect, Option.bind_eq_bind, Option.bind_eq_some_iff, Option.pure_def, Option.some.injEq]
  constructor
  · rintro ⟨method, isMethod, rfl⟩
    exact ⟨size, valueAt_two (by omega), valueAt_two (by omega), (named_iff methodOfCode_eq (by omega)).mpr isMethod⟩
  · rintro ⟨-, row, column, method⟩
    refine ⟨_, (named_iff methodOfCode_eq (by omega)).mp method, ?_⟩
    rw [← valueAt_two (by omega), ← valueAt_two (by omega), row, column]

theorem readVertex_iff {b : List Byte} (size : b.length = 4) (e : Vertex) : readVertex b = some e ↔ VertexLayout b e := by
  rw [readVertex, Option.some.injEq, ← valueAt_two (by omega), ← valueAt_two (by omega)]
  constructor
  · rintro rfl
    exact ⟨size, rfl, rfl⟩
  · rintro ⟨-, column, row⟩
    rw [column, row]

theorem readRegionEntry_iff {b : List Byte} (size : b.length = 8) (e : RegionEntry) :
    readRegionEntry b = some e ↔ RegionLayout b e := by
  simp only [readRegionEntry, Option.bind_eq_bind, Option.bind_eq_some_iff, Option.pure_def, Option.some.injEq]
  constructor
  · rintro ⟨region, isRegion, mode, isMode, trail, isTrail, veto, isVeto, rfl⟩
    exact ⟨size, (named_iff regionOfCode_eq (by omega)).mpr isRegion, (named_iff modeOfCode_eq (by omega)).mpr isMode,
      valueAt_one (by omega), valueAt_one (by omega), valueAt_one (by omega), valueAt_one (by omega), (flag_iff (by omega)).mpr isTrail,
      (flag_iff (by omega)).mpr isVeto⟩
  · rintro ⟨-, region, mode, kappa, warmup, floor, fade, trail, veto⟩
    refine ⟨_, (named_iff regionOfCode_eq (by omega)).mp region, _, (named_iff modeOfCode_eq (by omega)).mp mode, _,
      (flag_iff (by omega)).mp trail, _, (flag_iff (by omega)).mp veto, ?_⟩
    rw [← valueAt_one (i := 2) (by omega), ← valueAt_one (i := 3) (by omega), ← valueAt_one (i := 4) (by omega),
      ← valueAt_one (i := 5) (by omega), kappa, warmup, floor, fade]

theorem readTqPoint_iff {b : List Byte} (size : b.length = 4) (e : CurvePoint) : readTqPoint b = some e ↔ TqLayout b e := by
  rw [readTqPoint, Option.some.injEq, ← valueAt_two (by omega), ← signedAt_two (by omega)]
  constructor
  · rintro rfl
    exact ⟨size, rfl, rfl⟩
  · rintro ⟨-, temperature, value⟩
    rw [temperature, value]

theorem readCodePoint_iff {b : List Byte} (size : b.length = 4) (e : CurvePoint) : readCodePoint b = some e ↔ CodeLayout b e := by
  rw [readCodePoint, Option.some.injEq, ← valueAt_two (by omega), ← signedAt_two (by omega)]
  constructor
  · rintro rfl
    exact ⟨size, rfl, rfl⟩
  · rintro ⟨-, code, temperature⟩
    rw [code, temperature]

/-- What a LINES entry is used for, by its direction byte. -/
theorem readLineEntry_iff_use {b : List Byte} {e : LineEntry} : readLineEntry b = some e ↔
    read1 b 0 = e.line ∧ b.getD 2 0#8 = e.flags ∧ match e.use with
      | .input function debounce => read1 b 1 = 0 ∧ read2 b 4 = debounce ∧ functionOfCode (read1 b 3) = some function
      | .output source minPulse => read1 b 1 = 1 ∧ read2 b 4 = minPulse ∧ sourceOfCode (read1 b 3) = some source := by
  obtain ⟨line, flags, use⟩ := e
  unfold readLineEntry
  split
  · rename_i input
    cases use <;> simp [input, Option.bind_eq_some_iff, and_comm, and_left_comm, and_assoc]
  · rename_i output
    cases use <;> simp [output, Option.bind_eq_some_iff, and_comm, and_left_comm, and_assoc]
  · rename_i notInput notOutput
    cases use <;> simp [show read1 b 1 ≠ 0 from notInput, show read1 b 1 ≠ 1 from notOutput]

theorem readLineEntry_iff {b : List Byte} (size : b.length = 6) (e : LineEntry) : readLineEntry b = some e ↔ LineLayout b e := by
  have flags : field b 2 1 = [e.flags] ↔ b.getD 2 0#8 = e.flags := by
    rw [field_eq_getD b 1 2 (by omega)]
    simp
  have use : readLineEntry b = some e ↔ read1 b 0 = e.line ∧ b.getD 2 0#8 = e.flags ∧ match e.use with
      | .input function debounce => valueAt b 1 1 = 0 ∧ valueAt b 4 2 = debounce
        ∧ Named [.none, .expFeedback, .triggerIn, .pauseIn, .stopIn] b 3 function
      | .output source minPulse => valueAt b 1 1 = 1 ∧ valueAt b 4 2 = minPulse
        ∧ Named [.user, .expose, .ready, .shutter, .stepLevel, .heater, .readout] b 3 source := by
    rw [readLineEntry_iff_use]
    cases e.use with
    | input function debounce =>
      simp only [named_iff functionOfCode_eq (show 3 + 1 ≤ b.length by omega), valueAt_one (show 1 + 1 ≤ b.length by omega),
        valueAt_two (show 4 + 2 ≤ b.length by omega)]
    | output source minPulse =>
      simp only [named_iff sourceOfCode_eq (show 3 + 1 ≤ b.length by omega), valueAt_one (show 1 + 1 ≤ b.length by omega),
        valueAt_two (show 4 + 2 ≤ b.length by omega)]
  rw [use, ← flags]
  constructor
  · rintro ⟨line, isFlags, isUse⟩
    exact ⟨size, (valueAt_one (by omega)).trans line, isFlags, isUse⟩
  · rintro ⟨-, line, isFlags, isUse⟩
    exact ⟨(valueAt_one (by omega)).symm.trans line, isFlags, isUse⟩

theorem readAllow_iff {b : List Byte} (size : b.length = 1) (e : Nat) : readAllow b = some e ↔ AllowLayout b e := by
  rw [readAllow, Option.some.injEq, ← valueAt_one (by omega)]
  exact ⟨fun device => ⟨size, device⟩, fun layout => layout.device⟩

theorem readScriptEntry_iff {b : List Byte} (size : b.length = 5 + valueAt b 4 1) (e : ScriptEntry) :
    readScriptEntry b = some e ↔ ScriptLayout b e := by
  obtain ⟨device, ⟨wide, addr⟩, data⟩ := e
  simp only [readScriptEntry, Option.bind_eq_bind, Option.bind_eq_some_iff, Option.pure_def, Option.some.injEq, ScriptEntry.mk.injEq,
    RegAddr.mk.injEq, wideOfCode_iff]
  have whole : (b.drop 5).length = valueAt b 4 1 := by rw [List.length_drop, size]; omega
  constructor
  · rintro ⟨w, width, isDevice, ⟨rfl, isAddr⟩, rfl⟩
    exact ⟨by rw [whole]; exact size, (valueAt_one (by omega)).trans isDevice, (valueAt_one (by omega)).trans width,
      (valueAt_two (by omega)).trans isAddr, whole.symm, List.take_length⟩
  · rintro ⟨-, isDevice, width, isAddr, count, isData⟩
    refine ⟨wide, (valueAt_one (by omega)).symm.trans width, (valueAt_one (by omega)).symm.trans isDevice,
      ⟨rfl, (valueAt_two (by omega)).symm.trans isAddr⟩, ?_⟩
    have taken : (b.drop 5).take data.length = data := isData
    rwa [show data.length = (b.drop 5).length by rw [whole]; exact count.symm, List.take_length] at taken

/-! #### Written again, an entry is the bytes it was read from -/

theorem byteOf_eq_of_toNat {n : Nat} {b : Byte} (same : b.toNat = n) : byteOf n = b := by rw [← same, byteOf_of_toNat]

theorem bytes_of_readPlanStep {b : List Byte} {e : PlanStep} (size : b.length = 16) (read : readPlanStep b = some e) : e.bytes = b := by
  match b, size with
  | [b0, b1, b2, b3, b4, b5, b6, b7, b8, b9, b10, b11, b12, b13, b14, b15], _ =>
    simp only [readPlanStep, Option.bind_eq_bind, Option.bind_eq_some_iff, Option.pure_def, Option.some.injEq, kindOfCode_iff,
      cadenceOfCode_iff, readFlag_iff] at read
    obtain ⟨kind, isKind, cadence, isCadence, forward, isForward, level, isLevel, rfl⟩ := read
    simp only [PlanStep.bytes, byteOf_eq_of_toNat isKind, byteOf_eq_of_toNat isCadence, byteOf_eq_of_toNat isForward,
      byteOf_eq_of_toNat isLevel]
    simp [read1, read2, read4, bytes2_pair, bytes4_quad, byteOf_of_toNat]

theorem bytes_of_readDefect {b : List Byte} {e : Defect} (size : b.length = 5) (read : readDefect b = some e) : e.bytes = b := by
  match b, size with
  | [b0, b1, b2, b3, b4], _ =>
    simp only [readDefect, Option.bind_eq_bind, Option.bind_eq_some_iff, Option.pure_def, Option.some.injEq, methodOfCode_iff] at read
    obtain ⟨method, isMethod, rfl⟩ := read
    simp only [Defect.bytes, byteOf_eq_of_toNat isMethod]
    simp [read1, read2, bytes2_pair]

theorem bytes_of_readVertex {b : List Byte} {e : Vertex} (size : b.length = 4) (read : readVertex b = some e) : e.bytes = b := by
  rw [readVertex, Option.some.injEq] at read
  subst read
  match b, size with
  | [b0, b1, b2, b3], _ =>
    simp [Vertex.bytes, read1, read2, bytes2_pair]

theorem bytes_of_readRegionEntry {b : List Byte} {e : RegionEntry} (size : b.length = 8) (read : readRegionEntry b = some e) :
    e.bytes = b := by
  match b, size with
  | [b0, b1, b2, b3, b4, b5, b6, b7], _ =>
    simp only [readRegionEntry, Option.bind_eq_bind, Option.bind_eq_some_iff, Option.pure_def, Option.some.injEq, regionOfCode_iff,
      modeOfCode_iff, readFlag_iff] at read
    obtain ⟨region, isRegion, mode, isMode, trail, isTrail, veto, isVeto, rfl⟩ := read
    simp only [RegionEntry.bytes, byteOf_eq_of_toNat isRegion, byteOf_eq_of_toNat isMode, byteOf_eq_of_toNat isTrail,
      byteOf_eq_of_toNat isVeto]
    simp [read1, byteOf_of_toNat]

theorem signed2_natCast {n : Nat} (small : n < 65536) : signed2 (n : Int) = bytes2 n := by
  rw [signed2, BitVec.ofInt_natCast, BitVec.toNat_ofNat, Nat.mod_eq_of_lt small]

theorem pair_lt (a b : Byte) : a.toNat * 256 + b.toNat < 65536 := by omega

/-- A pair of bytes as an unsigned number, written as a signed one. -/
theorem signed2_unsigned (a b : Byte) : signed2 ((a.toNat : Int) * 256 + b.toNat) = [a, b] := by
  rw [← bytes2_pair, ← signed2_natCast (pair_lt a b)]
  push_cast
  rfl

theorem bytes_of_readTqPoint {b : List Byte} {e : CurvePoint} (size : b.length = 4) (read : readTqPoint b = some e) : e.bytes = b := by
  rw [readTqPoint, Option.some.injEq] at read
  subst read
  match b, size with
  | [b0, b1, b2, b3], _ =>
    simp [CurvePoint.bytes, readSigned2, read1, read2, signed2_pair, signed2_unsigned]

theorem bytes_of_readCodePoint {b : List Byte} {e : CurvePoint} (size : b.length = 4) (read : readCodePoint b = some e) :
    e.bytes = b := by
  rw [readCodePoint, Option.some.injEq] at read
  subst read
  match b, size with
  | [b0, b1, b2, b3], _ =>
    simp [CurvePoint.bytes, readSigned2, read1, read2, signed2_pair, signed2_unsigned]

theorem bytes_of_readLineEntry {b : List Byte} {e : LineEntry} (size : b.length = 6) (read : readLineEntry b = some e) : e.bytes = b := by
  match b, size with
  | [b0, b1, b2, b3, b4, b5], _ =>
    obtain ⟨line, flags, use⟩ := e
    obtain ⟨isLine, isFlags, isUse⟩ := readLineEntry_iff_use.mp read
    cases use with
    | input function debounce =>
      obtain ⟨direction, isDebounce, isFunction⟩ := isUse
      subst isLine isFlags isDebounce
      simp only [LineEntry.bytes, byteOf_eq_of_toNat (functionOfCode_iff.mp isFunction), byteOf_eq_of_toNat direction]
      simp [read1, read2, bytes2_pair, byteOf_of_toNat]
    | output source minPulse =>
      obtain ⟨direction, isPulse, isSource⟩ := isUse
      subst isLine isFlags isPulse
      simp only [LineEntry.bytes, byteOf_eq_of_toNat (sourceOfCode_iff.mp isSource), byteOf_eq_of_toNat direction]
      simp [read1, read2, bytes2_pair, byteOf_of_toNat]

theorem bytes_of_readAllow {b : List Byte} {e : Nat} (size : b.length = 1) (read : readAllow b = some e) : [byteOf e] = b := by
  match b, size with
  | [b0], _ =>
    obtain rfl := Option.some.inj read
    simp [read1, byteOf_of_toNat]

theorem bytes_of_readScriptEntry {b : List Byte} {e : ScriptEntry} (size : b.length = 5 + valueAt b 4 1)
    (read : readScriptEntry b = some e) : e.bytes = b := by
  match b, size with
  | b0 :: b1 :: b2 :: b3 :: b4 :: data, size =>
    simp only [readScriptEntry, Option.bind_eq_bind, Option.bind_eq_some_iff, Option.pure_def, Option.some.injEq, wideOfCode_iff] at read
    obtain ⟨wide, width, rfl⟩ := read
    have count : b4.toNat = data.length := by
      rw [valueAt_one (by simp)] at size
      simp only [List.length_cons, read1, List.getD_cons_succ, List.getD_cons_zero] at size
      omega
    have widthByte : byteOf (if wide then 16 else 8) = b1 := byteOf_eq_of_toNat width
    simp [ScriptEntry.bytes, RegAddr.widthCode, widthByte, byteOf_eq_of_toNat count, read1, read2, bytes2_pair, byteOf_of_toNat]
  | [], size => simp at size; omega
  | [_], size => simp at size; omega
  | [_, _], size => simp at size; omega
  | [_, _, _], size => simp at size; omega
  | [_, _, _, _], size => simp at size; omega

/-! #### Written and read, an entry in its ranges is the entry -/

theorem two_bytes {n : Nat} (small : n < 65536) : (byteOf (n / 256)).toNat * 256 + (byteOf n).toNat = n := by
  rw [byteOf_mod, byteOf_mod]
  omega

theorem four_bytes {n : Nat} (small : n < 4294967296) :
    ((byteOf (n / 16777216)).toNat * 256 + (byteOf (n / 65536)).toNat) * 65536
      + ((byteOf (n / 256)).toNat * 256 + (byteOf n).toNat) = n := by
  rw [byteOf_mod, byteOf_mod, byteOf_mod, byteOf_mod]
  omega

theorem boolCode_byte (b : Bool) : (byteOf (boolCode b)).toNat = boolCode b := by cases b <;> rfl

theorem planLayout_bytes {e : PlanStep} (fits : e.inRange = true) : PlanLayout e.bytes e := by
  simp only [PlanStep.inRange, decide_eq_true_eq] at fits
  obtain ⟨-, count, -, exposure, gap, first, scripts, -⟩ := fits
  have kind : (byteOf e.kind.code).toNat = e.kind.code := by cases e.kind <;> rfl
  have cadence : (byteOf e.cadence.code).toNat = e.cadence.code := by cases e.cadence <;> rfl
  refine (readPlanStep_iff (by simp [PlanStep.bytes, bytes2, bytes4]) e).mp ?_
  simp only [readPlanStep, Option.bind_eq_bind, Option.bind_eq_some_iff, Option.pure_def, Option.some.injEq, kindOfCode_iff,
    cadenceOfCode_iff, readFlag_iff]
  refine ⟨e.kind, kind, e.cadence, cadence, e.forward, boolCode_byte _, e.stepLevel, boolCode_byte _, ?_⟩
  simp [PlanStep.bytes, bytes2, bytes4, read1, read2, read4, two_bytes (show e.count < 65536 by omega),
    four_bytes (show e.exposure < 4294967296 by omega), four_bytes (show e.gap < 4294967296 by omega),
    byteOf_toNat (show e.scriptFirst < 256 by omega), byteOf_toNat (show e.scriptCount < 256 by omega)]

theorem defectLayout_bytes {e : Defect} (fits : e.inRange = true) : DefectLayout e.bytes e := by
  simp only [Defect.inRange, decide_eq_true_eq] at fits
  have method : (byteOf e.method.code).toNat = e.method.code := by cases e.method <;> rfl
  refine (readDefect_iff (by simp [Defect.bytes, bytes2]) e).mp ?_
  simp only [readDefect, Option.bind_eq_bind, Option.bind_eq_some_iff, Option.pure_def, Option.some.injEq, methodOfCode_iff]
  refine ⟨e.method, method, ?_⟩
  simp [Defect.bytes, bytes2, read1, read2, two_bytes (show e.row < 65536 by omega), two_bytes (show e.column < 65536 by omega)]

theorem vertexLayout_bytes {e : Vertex} (fits : e.inRange = true) : VertexLayout e.bytes e := by
  simp only [Vertex.inRange, decide_eq_true_eq] at fits
  refine (readVertex_iff (by simp [Vertex.bytes, bytes2]) e).mp ?_
  simp [readVertex, Vertex.bytes, bytes2, read1, read2, two_bytes (show e.row < 65536 by omega),
    two_bytes (show e.column < 65536 by omega)]

theorem regionLayout_bytes {e : RegionEntry} (fits : e.inRange = true) : RegionLayout e.bytes e := by
  simp only [RegionEntry.inRange, decide_eq_true_eq] at fits
  obtain ⟨-, kappa, -, warmup, floor, -, fade⟩ := fits
  have region : (byteOf e.region.code).toNat = e.region.code := by cases e.region <;> rfl
  have mode : (byteOf e.policy.mode.code).toNat = e.policy.mode.code := by cases e.policy.mode <;> rfl
  refine (readRegionEntry_iff (by simp [RegionEntry.bytes]) e).mp ?_
  simp only [readRegionEntry, Option.bind_eq_bind, Option.bind_eq_some_iff, Option.pure_def, Option.some.injEq, regionOfCode_iff,
    modeOfCode_iff, readFlag_iff]
  refine ⟨e.region, region, e.policy.mode, mode, e.policy.trailDetect, boolCode_byte _, e.policy.veto, boolCode_byte _, ?_⟩
  simp [RegionEntry.bytes, read1, byteOf_toNat (show e.policy.kappa < 256 by omega), byteOf_toNat (show e.policy.warmup < 256 by omega),
    byteOf_toNat (show e.policy.sigmaFloor < 256 by omega), byteOf_toNat (show e.policy.fade < 256 by omega)]

theorem bytes2_length (n : Nat) : (bytes2 n).length = 2 := rfl

/-- Two fields of two bytes, one behind the other. -/
theorem field_pair (a b : List Byte) (first : a.length = 2) (second : b.length = 2) :
    field (a ++ b) 0 2 = a ∧ field (a ++ b) 2 2 = b := by
  match a, b, first, second with
  | [_, _], [_, _], _, _ => exact ⟨rfl, rfl⟩

theorem tqLayout_bytes {e : CurvePoint} (x : -32768 ≤ e.x ∧ e.x ≤ 32767) (y : 0 ≤ e.y ∧ e.y ≤ 65535) : TqLayout e.bytes e := by
  obtain ⟨first, second⟩ := field_pair (signed2 e.x) (signed2 e.y) rfl rfl
  refine ⟨rfl, ?_, ?_⟩
  · rw [signedAt, CurvePoint.bytes, first, signedNumber_signed2 x.1 x.2]
  · have whole : e.y = (e.y.toNat : Int) := (Int.toNat_of_nonneg y.1).symm
    have small : e.y.toNat < 65536 := by omega
    rw [valueAt, CurvePoint.bytes, second]
    conv_lhs => rw [whole, signed2_natCast small, number_bytes2 small]
    exact whole.symm

theorem codeLayout_bytes {e : CurvePoint} (fits : adcPointInRange e = true) : CodeLayout e.bytes e := by
  simp only [adcPointInRange, tqInRange, Bool.and_eq_true, decide_eq_true_eq] at fits
  obtain ⟨first, second⟩ := field_pair (signed2 e.x) (signed2 e.y) rfl rfl
  refine ⟨rfl, ?_, ?_⟩
  · have whole : e.x = (e.x.toNat : Int) := (Int.toNat_of_nonneg fits.1.1).symm
    have small : e.x.toNat < 65536 := by omega
    rw [valueAt, CurvePoint.bytes, first]
    conv_lhs => rw [whole, signed2_natCast small, number_bytes2 small]
    exact whole.symm
  · rw [signedAt, CurvePoint.bytes, second, signedNumber_signed2 (by omega) (by omega)]

theorem lineLayout_bytes {e : LineEntry} (fits : e.inRange = true) : LineLayout e.bytes e := by
  obtain ⟨line, flags, use⟩ := e
  cases use with
  | input function debounce =>
    simp only [LineEntry.inRange, Bool.and_eq_true, decide_eq_true_eq] at fits
    have code : (byteOf function.code).toNat = function.code := by cases function <;> rfl
    refine (readLineEntry_iff (by simp [LineEntry.bytes, bytes2]) _).mp (readLineEntry_iff_use.mpr ⟨?_, rfl, rfl, ?_, ?_⟩)
    · exact byteOf_toNat (show line < 256 by omega)
    · exact two_bytes (by omega)
    · exact functionOfCode_iff.mpr code
  | output source minPulse =>
    simp only [LineEntry.inRange, Bool.and_eq_true, decide_eq_true_eq] at fits
    have code : (byteOf source.code).toNat = source.code := by cases source <;> rfl
    refine (readLineEntry_iff (by simp [LineEntry.bytes, bytes2]) _).mp (readLineEntry_iff_use.mpr ⟨?_, rfl, rfl, ?_, ?_⟩)
    · exact byteOf_toNat (show line < 256 by omega)
    · exact two_bytes (by omega)
    · exact sourceOfCode_iff.mpr code

theorem allowLayout_bytes {e : Nat} (fits : e ≤ 127) : AllowLayout [byteOf e] e := by
  refine (readAllow_iff rfl e).mp ?_
  simp [readAllow, read1, byteOf_toNat (show e < 256 by omega)]

theorem scriptLayout_bytes {e : ScriptEntry} (fits : e.inRange = true) : ScriptLayout e.bytes e := by
  obtain ⟨device, ⟨wide, addr⟩, data⟩ := e
  simp only [ScriptEntry.inRange, RegAddr.fits, Bool.and_eq_true, decide_eq_true_eq] at fits
  obtain ⟨⟨isDevice, isAddr⟩, -, isData⟩ := fits
  have addrSmall : addr < 65536 := by cases wide <;> simp at isAddr <;> omega
  have length : (ScriptEntry.bytes ⟨device, ⟨wide, addr⟩, data⟩).length = 5 + data.length := by
    simp [ScriptEntry.bytes, bytes2]
    omega
  refine (readScriptEntry_iff ?_ _).mp ?_
  · rw [valueAt_one (by omega), length]
    simp [ScriptEntry.bytes, bytes2, read1, byteOf_toNat (show data.length < 256 by omega)]
  · simp only [readScriptEntry, Option.bind_eq_bind, Option.bind_eq_some_iff, Option.pure_def, Option.some.injEq, wideOfCode_iff]
    refine ⟨wide, ?_, ?_⟩
    · cases wide <;> rfl
    · simp [ScriptEntry.bytes, bytes2, read1, read2, two_bytes addrSmall, byteOf_toNat (show device < 256 by omega)]

/-! #### O20: the entry rules -/

/-- The entry rules of a table, from its codec and its two checks. -/
theorem entryRules_of {α : Type} {n : TableName} {read : List Byte → Option α} {layout : List Byte → α → Prop}
    {table : Tables → Table α} {put : Tables → Table α → Tables} {fits : α → Prop} {against : List α → α → Prop} {status : Status}
    (inRange : α → Bool) (check : List α → α → Option Status)
    (codec : ∀ b, Sized n b → ∀ e, read b = some e ↔ layout b e)
    (runs : ∀ b t, appendEntry n b t = (appendTo n.capacity (table t) (read b) inRange check).map (put t))
    (range : ∀ b e, read b = some e → (inRange e = true ↔ fits e))
    (stands : ∀ held e, (against held e → check held e = some status) ∧ (¬ against held e → check held e = none)) :
    EntryRules n read layout table put fits against status := by
  refine ⟨codec, fun b t room => ⟨fun no => ?_, fun e yes => ⟨fun out => ?_, fun inside stopped => ?_, fun inside free => ?_⟩⟩⟩
  all_goals
    rw [runs]
    unfold appendTo
    rw [if_neg (Nat.not_le.mpr room)]
  · rw [no]; rfl
  · have refused : inRange e = false := Bool.eq_false_iff.mpr fun has => out ((range b e yes).mp has)
    rw [yes]
    simp [refused, Except.map]
  · have taken : inRange e = true := (range b e yes).mpr inside
    rw [yes]
    simp [taken, (stands _ e).1 stopped, Except.map]
  · have taken : inRange e = true := (range b e yes).mpr inside
    rw [yes]
    simp [taken, (stands _ e).2 free, Except.map]

theorem ordered_stands {α : Type} (less : α → α → Bool) (held : List α) (e : α) :
    ((∃ p ∈ held.getLast?, ¬ less p e = true) → ordered less held e = some .tableOrder)
      ∧ (¬ (∃ p ∈ held.getLast?, ¬ less p e = true) → ordered less held e = none) := by
  unfold ordered
  cases held.getLast? with
  | none => simp
  | some p => cases h : less p e <;> simp [h]

theorem distinct_stands {α : Type} (clash : α → α → Bool) (held : List α) (e : α) :
    ((∃ p ∈ held, clash p e = true) → distinct clash held e = some .tableConflict)
      ∧ (¬ (∃ p ∈ held, clash p e = true) → distinct clash held e = none) := by
  rw [← List.any_eq_true]
  unfold distinct
  exact ⟨fun met => if_pos met, fun free => if_neg free⟩

/-- Curves rise by their first field. -/
theorem rising_stands (held : List CurvePoint) (e : CurvePoint) :
    (NotRising held e → ordered CurvePoint.less held e = some .tableOrder)
      ∧ (¬ NotRising held e → ordered CurvePoint.less held e = none) := by
  have stands := ordered_stands CurvePoint.less held e
  simpa [NotRising, CurvePoint.less] using stands

theorem vertex_stands (held : List Vertex) (e : Vertex) :
    ((held = [] ∧ e.column ≠ 0 ∨ ∃ p ∈ held.getLast?, e.column ≤ p.column) → vertexOrder held e = some .tableOrder)
      ∧ (¬ (held = [] ∧ e.column ≠ 0 ∨ ∃ p ∈ held.getLast?, e.column ≤ p.column) → vertexOrder held e = none) := by
  unfold vertexOrder
  cases newest : held.getLast? with
  | none => simp [List.getLast?_eq_none_iff.mp newest]
  | some p =>
    have some : held ≠ [] := by rintro rfl; cases newest
    simp [some]

/-- R25: two entries for one line, or two lines of one of the two single functions. -/
theorem clash_iff (p e : LineEntry) : p.clash e = true ↔
    p.line = e.line ∨ ∃ f ∈ [LineFunction.expFeedback, .triggerIn], (∃ d, p.use = .input f d) ∧ ∃ d, e.use = .input f d := by
  unfold LineEntry.clash
  rw [Bool.or_eq_true, decide_eq_true_eq]
  refine or_congr Iff.rfl ?_
  split
  · rename_i a b first second
    simp [first, second]
  · rename_i a b first second
    simp [first, second]
  · rename_i notFeedback notTrigger
    simp only [List.mem_cons, List.not_mem_nil, or_false, exists_eq_or_imp, exists_eq_left, Bool.false_eq_true, false_iff, not_or, not_and,
      not_exists]
    exact ⟨fun ⟨_, first⟩ _ second => notFeedback _ _ first second, fun ⟨_, first⟩ _ second => notTrigger _ _ first second⟩

theorem clash_stands (held : List LineEntry) (e : LineEntry) :
    ((∃ p ∈ held, p.line = e.line
        ∨ ∃ f ∈ [LineFunction.expFeedback, .triggerIn], (∃ d, p.use = .input f d) ∧ ∃ d, e.use = .input f d) →
      distinct LineEntry.clash held e = some .tableConflict)
      ∧ (¬ (∃ p ∈ held, p.line = e.line
          ∨ ∃ f ∈ [LineFunction.expFeedback, .triggerIn], (∃ d, p.use = .input f d) ∧ ∃ d, e.use = .input f d) →
        distinct LineEntry.clash held e = none) := by
  simp only [← clash_iff]
  exact distinct_stands LineEntry.clash held e

/-- A LINES entry read from bytes has its debounce or min_pulse within two bytes. -/
theorem lineRange_iff {b : List Byte} {e : LineEntry} (read : readLineEntry b = some e) :
    e.inRange = true ↔ e.line ≤ 5 ∧ ∀ minPulse, e.use = .output .heater minPulse → minPulse = 0 := by
  obtain ⟨line, flags, use⟩ := e
  obtain ⟨-, -, isUse⟩ := readLineEntry_iff_use.mp read
  have small := read2_lt b 4
  cases use with
  | input function debounce =>
    obtain ⟨-, isDebounce, -⟩ := isUse
    simp [LineEntry.inRange]
    omega
  | output source minPulse =>
    obtain ⟨-, isPulse, -⟩ := isUse
    have within : minPulse ≤ 65535 := by omega
    cases source <;> simp [LineEntry.inRange, within]

theorem nothing_stands {α : Type} (held : List α) (e : α) :
    (False → noCheck held e = some .tableOrder) ∧ (¬ False → noCheck held e = none) := ⟨False.elim, fun _ => rfl⟩

theorem appendEntry_full (n : TableName) (b : List Byte) (t : Tables) (full : n.capacity ≤ t.lengthOf n) :
    appendEntry n b t = .error .tableFull := by
  cases n <;> unfold appendEntry appendTo <;> dsimp only <;> rw [if_pos (by exact full)] <;> rfl

/-- Settles O20: each table's codec, ranges and standing check are those of its rule. -/
theorem entryChecksInOrder : Obligations.EntryChecksInOrder := by
  refine ⟨appendEntry_full,
    entryRules_of PlanStep.inRange noCheck (fun _ => readPlanStep_iff) (fun _ _ => rfl) (fun _ _ _ => decide_eq_true_iff) nothing_stands,
    entryRules_of Defect.inRange (ordered Defect.less) (fun _ => readDefect_iff) (fun _ _ => rfl) (fun _ _ _ => decide_eq_true_iff) ?_,
    entryRules_of Vertex.inRange vertexOrder (fun _ => readVertex_iff) (fun _ _ => rfl) (fun _ _ _ => decide_eq_true_iff) vertex_stands,
    entryRules_of RegionEntry.inRange (distinct fun p e => decide (p.region = e.region)) (fun _ => readRegionEntry_iff) (fun _ _ => rfl)
      (fun _ _ _ => decide_eq_true_iff) ?_,
    entryRules_of darkPointInRange (ordered CurvePoint.less) (fun _ => readTqPoint_iff) (fun _ _ => rfl) ?_ rising_stands,
    entryRules_of LineEntry.inRange (distinct LineEntry.clash) (fun _ => readLineEntry_iff) (fun _ _ => rfl) (fun _ _ => lineRange_iff)
      clash_stands,
    entryRules_of heaterPointInRange (ordered CurvePoint.less) (fun _ => readTqPoint_iff) (fun _ _ => rfl) ?_ rising_stands,
    entryRules_of adcPointInRange (ordered CurvePoint.less) (fun _ => readCodePoint_iff) (fun _ _ => rfl) ?_ rising_stands,
    entryRules_of adcPointInRange (ordered CurvePoint.less) (fun _ => readCodePoint_iff) (fun _ _ => rfl) ?_ rising_stands,
    entryRules_of (fun a => decide (a ≤ 127)) (distinct fun p e => decide (p = e)) (fun _ => readAllow_iff) (fun _ _ => rfl)
      (fun _ _ _ => decide_eq_true_iff) ?_,
    entryRules_of ScriptEntry.inRange noCheck (fun _ => readScriptEntry_iff) (fun _ _ => rfl) ?_ nothing_stands⟩
  · intro held e
    simpa [Defect.less] using ordered_stands Defect.less held e
  · intro held e
    simpa using distinct_stands (fun p e : RegionEntry => decide (p.region = e.region)) held e
  · intro _ e _
    simp [darkPointInRange, tqInRange]
  · intro _ e _
    simp [heaterPointInRange, tqInRange]
  · intro _ e _
    simp [adcPointInRange, tqInRange]
  · intro _ e _
    simp [adcPointInRange, tqInRange]
  · intro held e
    simpa using distinct_stands (fun p e : Nat => decide (p = e)) held e
  · intro _ e _
    simp [ScriptEntry.inRange, RegAddr.fits, and_assoc]

/-! #### O16 and O17: TABLE_APPEND -/

/-- What an entry's check answers when it fails (R180). -/
def entryRefusals : List Status := [.tableFull, .tableRange, .tableOrder, .tableConflict]

/-- These entries have joined the table, as they were sent; the other tables stand. -/
structure Appended (n : TableName) (bs : List (List Byte)) (t t' : Tables) : Prop where
  bytes : t'.entryBytes n = t.entryBytes n ++ bs
  state : t'.stateOf n = t.stateOf n
  length : t'.lengthOf n = t.lengthOf n + bs.length
  others : ∀ m, m ≠ n → t'.stateOf m = t.stateOf m ∧ t'.entryBytes m = t.entryBytes m

theorem Appended.refl (n : TableName) (t : Tables) : Appended n [] t t :=
  ⟨(List.append_nil _).symm, rfl, rfl, fun _ _ => ⟨rfl, rfl⟩⟩

theorem Appended.cons {n : TableName} {b : List Byte} {bs : List (List Byte)} {t t' t'' : Tables} (first : Appended n [b] t t')
    (rest : Appended n bs t' t'') : Appended n (b :: bs) t t'' := by
  refine ⟨?_, rest.state.trans first.state, ?_, fun m other => ?_⟩
  · rw [rest.bytes, first.bytes, List.append_assoc, List.singleton_append]
  · rw [rest.length, first.length]
    simp only [List.length_cons, List.length_nil]
    omega
  · obtain ⟨state, bytes⟩ := first.others m other
    obtain ⟨state', bytes'⟩ := rest.others m other
    exact ⟨state'.trans state, bytes'.trans bytes⟩

theorem length_entryBytes (t : Tables) (n : TableName) : (t.entryBytes n).length = t.lengthOf n := by
  cases n <;> exact List.length_map _

theorem Appended.of_bytes {n : TableName} {bs : List (List Byte)} {t t' : Tables} (bytes : t'.entryBytes n = t.entryBytes n ++ bs)
    (state : t'.stateOf n = t.stateOf n) (others : ∀ m, m ≠ n → t'.stateOf m = t.stateOf m ∧ t'.entryBytes m = t.entryBytes m) :
    Appended n bs t t' :=
  ⟨bytes, state, by rw [← length_entryBytes, bytes, List.length_append, length_entryBytes], others⟩

/-- One entry's check refuses it, or it joins the table behind the newest. -/
theorem appendTo_result {α : Type} (capacity : Nat) (t : Table α) (entry : Option α) (inRange : α → Bool)
    {check : List α → α → Option Status} (checks : ∀ held e st, check held e = some st → st ∈ entryRefusals) :
    (∃ e, entry = some e ∧ appendTo capacity t entry inRange check = .ok { t with entries := t.entries ++ [e] })
      ∨ ∃ st ∈ entryRefusals, appendTo capacity t entry inRange check = .error st := by
  rcases appendTo_cases capacity t entry inRange check with
    ⟨-, runs⟩ | ⟨-, ⟨-, runs⟩ | ⟨e, read, ⟨-, runs⟩ | ⟨-, ⟨st, stopped, runs⟩ | ⟨-, runs⟩⟩⟩⟩
  · exact .inr ⟨_, by decide, runs⟩
  · exact .inr ⟨_, by decide, runs⟩
  · exact .inr ⟨_, by decide, runs⟩
  · exact .inr ⟨st, checks _ _ _ stopped, runs⟩
  · exact .inl ⟨e, read, runs⟩

theorem noCheck_refusal {α : Type} (held : List α) (e : α) (st : Status) (h : noCheck held e = some st) : st ∈ entryRefusals := by
  cases h

theorem ordered_refusal {α : Type} {less : α → α → Bool} (held : List α) (e : α) (st : Status) (h : ordered less held e = some st) :
    st ∈ entryRefusals := by
  unfold ordered at h
  split at h
  · split at h <;> cases h
    decide
  · cases h

theorem distinct_refusal {α : Type} {clash : α → α → Bool} (held : List α) (e : α) (st : Status)
    (h : distinct clash held e = some st) : st ∈ entryRefusals := by
  unfold distinct at h
  split at h <;> cases h
  decide

theorem vertexOrder_refusal (held : List Vertex) (e : Vertex) (st : Status) (h : vertexOrder held e = some st) :
    st ∈ entryRefusals := by
  unfold vertexOrder at h
  split at h <;> split at h <;> cases h <;> decide

/-- An entry of the table's size is refused, or joins its table byte for byte (R180). -/
theorem appendEntry_result {n : TableName} {b : List Byte} (size : Sized n b) (t : Tables) :
    (∃ t', appendEntry n b t = .ok t' ∧ Appended n [b] t t') ∨ ∃ st ∈ entryRefusals, appendEntry n b t = .error st := by
  have joined : ∀ {α : Type} {m : TableName} {table : Table α} {entry : Option α} {x : Except Status (Table α)} {put : Table α → Tables},
      ((∃ e, entry = some e ∧ x = .ok { table with entries := table.entries ++ [e] }) ∨ ∃ st ∈ entryRefusals, x = .error st) →
      (∀ e, entry = some e → Appended m [b] t (put { table with entries := table.entries ++ [e] })) →
      (∃ t', x.map put = .ok t' ∧ Appended m [b] t t') ∨ ∃ st ∈ entryRefusals, x.map put = .error st := by
    intro α m table entry x put result joins
    rcases result with ⟨e, read, runs⟩ | ⟨st, refusal, runs⟩
    · exact .inl ⟨_, by rw [runs]; rfl, joins e read⟩
    · exact .inr ⟨st, refusal, by rw [runs]; rfl⟩
  cases n
  case' plan => refine joined (appendTo_result _ _ _ _ noCheck_refusal) fun e read => ?_; have round := bytes_of_readPlanStep size read
  case' defects => refine joined (appendTo_result _ _ _ _ ordered_refusal) fun e read => ?_; have round := bytes_of_readDefect size read
  case' horizon =>
    refine joined (appendTo_result _ _ _ _ vertexOrder_refusal) fun e read => ?_; have round := bytes_of_readVertex size read
  case' regions =>
    refine joined (appendTo_result _ _ _ _ distinct_refusal) fun e read => ?_; have round := bytes_of_readRegionEntry size read
  case' lines =>
    refine joined (appendTo_result _ _ _ _ distinct_refusal) fun e read => ?_; have round := bytes_of_readLineEntry size read
  case' bridgeAllow =>
    refine joined (appendTo_result _ _ _ _ distinct_refusal) fun e read => ?_; have round := bytes_of_readAllow size read
  case' bridgeScript =>
    refine joined (appendTo_result _ _ _ _ noCheck_refusal) fun e read => ?_; have round := bytes_of_readScriptEntry size read
  case' darkModel | heaterCurve =>
    refine joined (appendTo_result _ _ _ _ ordered_refusal) fun e read => ?_; have round := bytes_of_readTqPoint size read
  case' adcCurve0 | adcCurve1 =>
    refine joined (appendTo_result _ _ _ _ ordered_refusal) fun e read => ?_; have round := bytes_of_readCodePoint size read
  all_goals
    refine Appended.of_bytes (by simp [Tables.entryBytes, round]) rfl fun m other => ?_
    cases m <;> first | exact absurd rfl other | exact ⟨rfl, rfl⟩

/-- The append of a whole packet: the first k entries join, and the next one, if any, is the first that fails (R180). -/
structure AppendedTo (n : TableName) (entries : List (List Byte)) (done k : Nat) (t : Tables) (a : AppendResult) : Prop where
  within : k ≤ entries.length
  whole : k = entries.length ↔ a.status = .ok
  status : a.status ∈ Status.ok :: entryRefusals
  failing : ∀ b, entries[k]? = some b → appendEntry n b a.tables = .error a.status
  position : a.position = if k = entries.length then 0 else done + k + 1
  count : a.appended = done + k
  joined : Appended n (entries.take k) t a.tables

theorem appendEntries_result {n : TableName} (entries : List (List Byte)) : (∀ b ∈ entries, Sized n b) → ∀ (done : Nat) (t : Tables),
    ∃ k, AppendedTo n entries done k t (appendEntries n entries done t) := by
  induction entries with
  | nil => exact fun _ done t => ⟨0, Nat.le_refl _, ⟨fun _ => rfl, fun _ => rfl⟩, List.mem_cons_self, nofun, rfl, rfl, Appended.refl n t⟩
  | cons b rest ih =>
    intro sizes done t
    obtain ⟨size, restSizes⟩ := List.forall_mem_cons.mp sizes
    unfold appendEntries
    rcases appendEntry_result size t with ⟨t', runs, first⟩ | ⟨st, refusal, runs⟩ <;> rw [runs]
    · obtain ⟨k, h⟩ := ih restSizes (done + 1) t'
      refine ⟨k + 1, Nat.succ_le_succ h.within, ?_, h.status, h.failing, ?_, ?_, first.cons h.joined⟩
      · rw [List.length_cons, Nat.add_right_cancel_iff]
        exact h.whole
      · refine h.position.trans ?_
        simp only [List.length_cons, Nat.add_right_cancel_iff]
        split <;> omega
      · exact h.count.trans (by omega)
    · have bad : st ≠ .ok := by rintro rfl; exact absurd refusal (by decide)
      refine ⟨0, Nat.zero_le _, ⟨nofun, fun ok => absurd ok bad⟩, List.mem_cons_of_mem _ refusal, fun q first => ?_, rfl, rfl,
        Appended.refl n t⟩
      obtain rfl := Option.some.inj first
      exact runs

/-! ##### The entries of a packet -/

theorem splitFixed_iff {size : Nat} : ∀ (count : Nat) (b : List Byte) (entries : List (List Byte)),
    splitFixed size count b = some entries ↔ entries.length = count ∧ entries.flatten = b ∧ ∀ e ∈ entries, e.length = size := by
  intro count
  induction count with
  | zero =>
    intro b entries
    unfold splitFixed
    cases b <;> cases entries <;> simp
  | succ count ih =>
    intro b entries
    unfold splitFixed
    by_cases short : b.length < size
    · rw [if_pos short]
      refine ⟨nofun, fun ⟨length, whole, sizes⟩ => ?_⟩
      cases entries with
      | nil => cases length
      | cons e rest =>
        have first : e.length = size := sizes e List.mem_cons_self
        rw [← whole, List.flatten_cons, List.length_append] at short
        omega
    · rw [if_neg short, Option.map_eq_some_iff]
      constructor
      · rintro ⟨rest, split, rfl⟩
        obtain ⟨length, whole, sizes⟩ := (ih _ _).mp split
        refine ⟨by rw [List.length_cons, length], by rw [List.flatten_cons, whole, List.take_append_drop], ?_⟩
        exact List.forall_mem_cons.mpr ⟨List.length_take_of_le (Nat.not_lt.mp short), sizes⟩
      · rintro ⟨length, whole, sizes⟩
        cases entries with
        | nil => cases length
        | cons e rest =>
          obtain ⟨rfl, restSizes⟩ := List.forall_mem_cons.mp sizes
          subst whole
          rw [List.flatten_cons, List.drop_left, List.take_left]
          exact ⟨rest, (ih _ _).mpr ⟨Nat.succ.inj length, rfl, restSizes⟩, rfl⟩

/-- A BRIDGE_SCRIPT entry tells its own size. -/
theorem sized_script_iff {e : List Byte} : Sized .bridgeScript e ↔ 5 ≤ e.length ∧ e.length = 5 + read1 e 4 := by
  unfold Sized
  by_cases long : 5 ≤ e.length
  · rw [valueAt_one (by omega)]
    exact ⟨fun size => ⟨long, size⟩, fun size => size.2⟩
  · exact ⟨fun size => absurd (Nat.le.intro size.symm) long, fun size => absurd size.1 long⟩

theorem read1_take {b : List Byte} {size i : Nat} (before : i < size) : read1 (b.take size) i = read1 b i := by
  simp only [read1, List.getD_eq_getElem?_getD, List.getElem?_take_of_lt before]

theorem read1_append {a b : List Byte} {i : Nat} (before : i < a.length) : read1 (a ++ b) i = read1 a i := by
  simp only [read1, List.getD_eq_getElem?_getD, List.getElem?_append_left before]

theorem splitScript_iff : ∀ (count : Nat) (b : List Byte) (entries : List (List Byte)), splitScript count b = some entries ↔
    entries.length = count ∧ entries.flatten = b ∧ ∀ e ∈ entries, Sized .bridgeScript e := by
  intro count
  induction count with
  | zero =>
    intro b entries
    unfold splitScript
    cases b <;> cases entries <;> simp
  | succ count ih =>
    intro b entries
    unfold splitScript
    by_cases short : b.length < 5 ∨ b.length < 5 + read1 b 4
    · rw [if_pos short]
      refine ⟨nofun, fun ⟨length, whole, sizes⟩ => ?_⟩
      cases entries with
      | nil => cases length
      | cons e rest =>
        obtain ⟨long, size⟩ := sized_script_iff.mp (sizes e List.mem_cons_self)
        rw [← whole, List.flatten_cons, List.length_append, read1_append (by omega)] at short
        omega
    · rw [if_neg short, Option.map_eq_some_iff]
      obtain ⟨long, enough⟩ := not_or.mp short
      constructor
      · rintro ⟨rest, split, rfl⟩
        obtain ⟨length, whole, sizes⟩ := (ih _ _).mp split
        refine ⟨by rw [List.length_cons, length], by rw [List.flatten_cons, whole, List.take_append_drop], ?_⟩
        refine List.forall_mem_cons.mpr ⟨sized_script_iff.mpr ?_, sizes⟩
        rw [List.length_take_of_le (Nat.not_lt.mp enough), read1_take (by omega)]
        exact ⟨Nat.le_add_right _ _, rfl⟩
      · rintro ⟨length, whole, sizes⟩
        cases entries with
        | nil => cases length
        | cons e rest =>
          obtain ⟨first, restSizes⟩ := List.forall_mem_cons.mp sizes
          obtain ⟨fiveBytes, size⟩ := sized_script_iff.mp first
          subst whole
          rw [List.flatten_cons, read1_append (by omega), ← size, List.drop_left, List.take_left]
          exact ⟨rest, (ih _ _).mpr ⟨Nat.succ.inj length, rfl, restSizes⟩, rfl⟩

/-- A payload agrees with its count and the sizes when it is that many entries, each of its size (R180). -/
theorem splitEntries_iff (n : TableName) (count : Nat) (b : List Byte) (entries : List (List Byte)) :
    splitEntries n count b = some entries ↔ entries.length = count ∧ entries.flatten = b ∧ ∀ e ∈ entries, Sized n e := by
  cases n
  case bridgeScript => exact splitScript_iff count b entries
  all_goals exact splitFixed_iff count b entries

/-! ##### The request -/

theorem exec_append {s : State} {r : Request} (can : CanTake s 2 r) :
    ∃ flag sent flow, sent.reverse.filterMap LaneItem.packet = s.out.sent.reverse.filterMap LaneItem.packet
      ∧ exec .tableAppend s = .next (endEvent (appendTable r (tookRequest flag sent flow s))) := by
  obtain ⟨flag, sent, flow, same, runs⟩ := takeRequest_form can appendTable
  exact ⟨flag, sent, flow, same, by rw [exec_of_meaning .tableAppend, runs]⟩

section
variable {r : Request} (long : 2 ≤ r.payload.length)
include long

theorem appendTable_unknown (name : TableName.ofCode (read1 r.payload 0) = none) (s : State) :
    appendTable r s = answer r .badArg [] s := by
  unfold appendTable
  rw [if_neg (Nat.not_lt.mpr long), name]

variable {n : TableName} (name : TableName.ofCode (read1 r.payload 0) = some n)
include name

theorem appendTable_count (count : read1 r.payload 1 < 1 ∨ 15 < read1 r.payload 1) (s : State) :
    appendTable r s = answer r .badArg [] s := by
  unfold appendTable
  rw [if_neg (Nat.not_lt.mpr long), name]
  exact if_pos count

variable (low : 1 ≤ read1 r.payload 1) (high : read1 r.payload 1 ≤ 15)
include low high

theorem appendTable_length (apart : splitEntries n (read1 r.payload 1) (r.payload.drop 2) = none) (s : State) :
    appendTable r s = answer r .badLength [] s := by
  unfold appendTable
  rw [if_neg (Nat.not_lt.mpr long), name]
  dsimp only
  rw [if_neg (by omega), apart]

variable {entries : List (List Byte)} (split : splitEntries n (read1 r.payload 1) (r.payload.drop 2) = some entries)
include split

theorem appendTable_closed {s : State} (closed : s.tables.stateOf n ≠ .loading) :
    appendTable r s = answer r .tableNotOpen [] s := by
  unfold appendTable
  rw [if_neg (Nat.not_lt.mpr long), name]
  dsimp only
  rw [if_neg (by omega), split]
  exact if_pos closed

theorem appendTable_loading {s : State} (loading : s.tables.stateOf n = .loading) : appendTable r s =
    answer r (appendEntries n entries 0 s.tables).status
      (byteOf (appendEntries n entries 0 s.tables).position :: byteOf (appendEntries n entries 0 s.tables).appended
        :: bytes2 ((appendEntries n entries 0 s.tables).tables.lengthOf n))
      { s with tables := (appendEntries n entries 0 s.tables).tables } := by
  unfold appendTable
  rw [if_neg (Nat.not_lt.mpr long), name]
  dsimp only
  rw [if_neg (by omega), split]
  exact if_neg (not_not.mpr loading)

end

/-- Settles O16: the entries before the first that fails join the table, and the reply tells where and how many. -/
theorem tableAppendTakesEntries : Obligations.TableAppendTakesEntries := by
  intro s r n entries can long name low high split loading
  obtain ⟨flag, sent, flow, same, runs⟩ := exec_append can
  rw [appendTable_loading long name low high split (by exact loading)] at runs
  obtain ⟨-, -, sizes⟩ := (splitEntries_iff _ _ _ _).mp split
  obtain ⟨k, h⟩ := appendEntries_result entries sizes 0 s.tables
  have joined := h.joined
  have length : (appendEntries n entries 0 s.tables).tables.lengthOf n = s.tables.lengthOf n + k := by
    rw [joined.length, List.length_take_of_le h.within]
  have payload : byteOf (appendEntries n entries 0 s.tables).position :: byteOf (appendEntries n entries 0 s.tables).appended
      :: bytes2 ((appendEntries n entries 0 s.tables).tables.lengthOf n)
      = byteOf (if k = entries.length then 0 else k + 1) :: byteOf k :: bytes2 (s.tables.lengthOf n + k) := by
    rw [h.position, h.count, length, Nat.zero_add]
  refine ⟨_, _, k, runs, h.within, h.whole, h.status, ?_⟩
  rw [tables_answered]
  refine ⟨h.failing, ?_, joined.bytes, joined.state.trans loading, length, joined.others⟩
  rw [← payload]
  exact took_ends (flag := flag) can same _ _ (u := { s with
    port.requests := s.port.requests.tail, tables := (appendEntries n entries 0 s.tables).tables }) rfl rfl rfl

/-- Settles O17: the split is by the entries' sizes, and each refusal of R180 answers alone. -/
theorem tableAppendRefusedWhole : Obligations.TableAppendRefusedWhole := by
  refine ⟨splitEntries_iff, fun s r can long => ?_⟩
  obtain ⟨flag, sent, flow, same, runs⟩ := exec_append can
  refine ⟨_, runs, ?_⟩
  cases name : TableName.ofCode (read1 r.payload 0) with
  | none => rw [appendTable_unknown long name]; exact refused_ends can same _ _
  | some n =>
    refine ⟨fun count => ?_, fun low high => ⟨fun apart => ?_, fun entries split closed => ?_⟩⟩
    · rw [appendTable_count long name count]; exact refused_ends can same _ _
    · rw [appendTable_length long name low high apart]; exact refused_ends can same _ _
    · rw [appendTable_closed long name low high split (by exact closed)]; exact refused_ends can same _ _

/-! #### O18: TABLE_CLOSE -/

theorem stateOf_closed (n : TableName) (t : Tables) :
    (t.closed n).stateOf n = (if t.lengthOf n = 0 then .empty else .ready) ∧ (t.closed n).lengthOf n = t.lengthOf n := by
  have closed : ∀ {α : Type} (x : Table α), x.closed.state = if x.entries.length = 0 then TableState.empty else .ready := by
    intro α x
    unfold Table.closed
    cases x.entries <;> rfl
  cases n <;> exact ⟨closed _, rfl⟩

theorem entryBytes_closed (n m : TableName) (t : Tables) : (t.closed n).entryBytes m = t.entryBytes m := by
  cases n <;> cases m <;> rfl

theorem others_closed {n m : TableName} (other : m ≠ n) (t : Tables) : (t.closed n).stateOf m = t.stateOf m := by
  cases n <;> cases m <;> first | exact absurd rfl other | rfl

/-- A closed table is seen whole (R178, R181). -/
theorem seen_closed {α : Type} (t : Table α) : t.closed.seen = t.entries := by
  unfold Table.seen Table.closed
  cases t.entries <;> rfl

/-- The signals and the sources stand on these blocks alone (R16, R28, R44). -/
theorem sourceLevel_congr {s t : State} (seq : t.seq = s.seq) (heater : t.heater = s.heater) (params : t.params = s.params)
    (tables : t.tables = s.tables) (x : LineState) (source : LineSource) : sourceLevel t x source = sourceLevel s x source := by
  cases source <;>
    simp only [sourceLevel, signalExpose, signalReady, signalHeater, signalReadout, awaitsTrigger, currentStep, seq, heater, params, tables]

theorem sourceLevel_answered (r : Request) (st : Status) (p : List Byte) (s : State) (x : LineState) (source : LineSource) :
    sourceLevel (endEvent (answer r st p s)) x source = sourceLevel s x source := by
  obtain ⟨seq, -, -, -, heater, -, -, -, -, -, -, tables, params, -⟩ := endEvent_fields (answer r st p s)
  refine (sourceLevel_congr seq heater params tables x source).trans ?_
  rw [answer_frame]
  rfl

theorem lineSetup_congr {s t : State} (tables : t.tables = s.tables) (l : LineNo) : lineSetup t l = lineSetup s l := by
  unfold lineSetup
  rw [tables]

/-- An OUTPUT line that stands at its source's level with no timer stays so (R29). -/
theorem driveLine_settled {s : State} {l : LineNo} {x : LineState} {source : LineSource} {minPulse : Nat}
    (use : (lineSetup s l).use = .output source minPulse) (settled : x.driven = sourceLevel s x source) : driveLine s l x = x := by
  unfold driveLine
  rw [use]
  exact if_neg fun ⟨_, moves⟩ => moves settled.symm

section
variable {r : Request} (s : State)

theorem closeTable_unknown (name : TableName.ofCode (read1 r.payload 0) = none) : closeTable r s = answer r .badArg [] s := by
  unfold closeTable
  rw [name]

variable {n : TableName} (name : TableName.ofCode (read1 r.payload 0) = some n)
include name

theorem closeTable_eq : closeTable r s = if s.tables.stateOf n ≠ .loading then answer r .tableNotOpen [] s
    else answer r .ok (tableAnswer n (s.tables.closed n))
      (if n = .lines then setUpLines { s with tables := s.tables.closed n } else { s with tables := s.tables.closed n }) := by
  unfold closeTable
  rw [name]

end

/-- The line of the table as it closes, seen without the levels driven and the timers of the pulses. -/
theorem setUp_rest {s : State} (seen : s.tables.lines.seen = entries) (l : LineNo) (x : LineState) :
    { (if lineListed s l then restartLine s l x else x) with driven := false, minTimer := none }
      = { (match entries.find? fun e => decide (e.line = l.val) with
            | none => x
            | some e => match e.use with
              | .input _ _ => { x with accepted := x.outside, debounceTimer := none }
              | .output _ _ => { x with debounceTimer := none }) with driven := false, minTimer := none } := by
  subst seen
  cases found : s.tables.lines.seen.find? fun e => decide (e.line = l.val) with
  | none =>
    have free : lineListed s l = false := by
      unfold lineListed
      rw [List.any_eq_false]
      exact List.find?_eq_none.mp found
    rw [free]
    rfl
  | some e =>
    have listed : lineListed s l = true := List.any_eq_true.mpr ⟨e, List.mem_of_find?_eq_some found, by
      simpa using List.find?_some found⟩
    have setup : (lineSetup s l).use = e.use := by
      unfold lineSetup
      rw [found]
    rw [listed]
    dsimp only [if_true]
    unfold restartLine
    rw [setup]
    cases e.use <;> rfl

/-- A listed OUTPUT line takes its source's level at once, with no timer (R26). -/
theorem setUp_output {s : State} {l : LineNo} {source : LineSource} {minPulse : Nat}
    (use : (lineSetup s l).use = .output source minPulse) (x : LineState) :
    (if lineListed s l then restartLine s l x else x)
      = { x with driven := sourceLevel s x source, minTimer := none, debounceTimer := none } := by
  have listed : lineListed s l = true := by
    unfold lineSetup at use
    split at use
    · rename_i e found
      exact List.any_eq_true.mpr ⟨e, List.mem_of_find?_eq_some found, by simpa using List.find?_some found⟩
    · cases use
  rw [listed, if_pos rfl, restartLine, use]

theorem map_rest {b : LineBank} {f g : LineNo → LineState → LineState}
    (same : ∀ l x, { f l x with driven := false, minTimer := none } = { g l x with driven := false, minTimer := none }) :
    (b.map f).map (fun _ x => { x with driven := false, minTimer := none })
      = (b.map g).map (fun _ x => { x with driven := false, minTimer := none }) := by
  simp only [LineBank.map, same]

/-- The OUTPUT lines that a closed LINES lists stand at their sources' levels when the event has ended (R26). -/
theorem setUpLines_settled (r : Request) (st : Status) (p : List Byte) (u : State) {l : LineNo} {source : LineSource} {minPulse : Nat}
    (use : (lineSetup (endEvent (answer r st p (setUpLines u))) l).use = .output source minPulse) :
    ((endEvent (answer r st p (setUpLines u))).lines.get l).driven
        = sourceLevel (endEvent (answer r st p (setUpLines u))) ((endEvent (answer r st p (setUpLines u))).lines.get l) source
      ∧ ((endEvent (answer r st p (setUpLines u))).lines.get l).minTimer = none := by
  rw [lineSetup_congr (tables_answered _ _ _ _)] at use
  have line : (endEvent (answer r st p (setUpLines u))).lines.get l
      = { u.lines.get l with driven := sourceLevel u (u.lines.get l) source, minTimer := none, debounceTimer := none } := by
    have own : (setUpLines u).lines.get l
        = { u.lines.get l with driven := sourceLevel u (u.lines.get l) source, minTimer := none, debounceTimer := none } :=
      (LineBank.get_map _ _ _).trans (setUp_output use _)
    rw [lines_answered, LineBank.get_map, own]
    refine driveLine_settled use ?_
    cases source <;> rfl
  rw [sourceLevel_answered, line]
  refine ⟨?_, rfl⟩
  cases source <;> rfl

/-- Settles O18: the table closes with its entries, and the lines of a closed LINES take their setup afresh. -/
theorem tableCloseSetsState : Obligations.TableCloseSetsState := by
  intro s r can length
  obtain ⟨flag, sent, flow, same, runs⟩ := exec_form .tableClose can length
  cases name : TableName.ofCode (read1 r.payload 0) with
  | none => exact ⟨_, runs, by rw [closeTable_unknown _ name]; exact refused_ends can same _ _⟩
  | some n =>
    rw [closeTable_eq _ name] at runs
    by_cases shut : s.tables.stateOf n ≠ .loading
    · rw [if_pos (by exact shut)] at runs
      refine ⟨_, runs, ?_⟩
      dsimp only
      rw [if_pos shut]
      exact refused_ends can same _ _
    · rw [if_neg (by exact shut)] at runs
      obtain ⟨state, kept⟩ := stateOf_closed n s.tables
      have payload : tableAnswer n (s.tables.closed n)
          = byteOf (if s.tables.lengthOf n = 0 then TableState.empty else .ready).code :: bytes2 (s.tables.lengthOf n) := by
        unfold tableAnswer
        rw [state, kept]
      refine ⟨_, runs, ?_⟩
      dsimp only
      rw [if_neg shut, ← payload]
      by_cases own : n = .lines
      · subst own
        rw [if_pos rfl, if_pos rfl, tables_answered]
        refine ⟨?_, state, fun m => entryBytes_closed .lines m _, fun m other => others_closed other _, fun _ l source minPulse use =>
          setUpLines_settled _ _ _ _ use, fun _ l e found => ?_⟩
        · refine Ends.trans (ends_of_lines rfl ?_) (took_ends (flag := flag) can same _ _ (u := setUpLines { s with
            port.requests := s.port.requests.tail, tables := s.tables.closed .lines }) rfl rfl rfl)
          exact map_rest fun l x => setUp_rest (seen_closed _) l x
        · rw [lineSetup_congr (tables_answered _ _ _ _)]
          unfold lineSetup
          change (match s.tables.lines.closed.seen.find? fun e => decide (e.line = l.val) with
            | some e => _
            | none => _) = _
          rw [seen_closed, found]
      · rw [if_neg own, if_neg own, tables_answered]
        refine ⟨?_, state, fun m => entryBytes_closed n m _, fun m other => others_closed other _, fun lines => absurd lines own,
          fun lines => absurd lines own⟩
        exact took_ends (flag := flag) can same _ _ (u := { s with
          port.requests := s.port.requests.tail, tables := s.tables.closed n }) rfl rfl rfl

/-! #### O19: TABLE_READ -/

theorem laidOut_of {α : Type} {layout : List Byte → α → Prop} {bytes : α → List Byte} {entries : List α}
    (each : ∀ e ∈ entries, layout (bytes e) e) : List.Forall₂ layout (entries.map bytes) entries := by
  rw [List.forall₂_map_left_iff]
  exact List.forall₂_same.mpr each

theorem darkPoint_layout {e : CurvePoint} (fits : darkPointInRange e = true) : TqLayout e.bytes e := by
  simp only [darkPointInRange, tqInRange, Bool.and_eq_true, decide_eq_true_eq] at fits
  exact tqLayout_bytes (by omega) (by omega)

theorem heaterPoint_layout {e : CurvePoint} (fits : heaterPointInRange e = true) : TqLayout e.bytes e := by
  simp only [heaterPointInRange, tqInRange, Bool.and_eq_true, decide_eq_true_eq] at fits
  exact tqLayout_bytes (by omega) (by omega)

/-- What the entry checks let in stands in its bytes as 11.4 lays it out. -/
theorem laidOut_of_sound {t : Tables} (sound : Tables.Sound t) : TablesLaidOut t where
  plan := laidOut_of fun e held => planLayout_bytes (sound.plan.2 e held)
  defects := laidOut_of fun e held => defectLayout_bytes (sound.defects.2.1 e held)
  horizon := laidOut_of fun e held => vertexLayout_bytes (sound.horizon.2.1 e held)
  regions := laidOut_of fun e held => regionLayout_bytes (sound.regions.2.1 e held)
  darkModel := laidOut_of fun e held => darkPoint_layout (sound.darkModel.2.1 e held)
  lines := laidOut_of fun e held => lineLayout_bytes (sound.lines.2.1 e held)
  heaterCurve := laidOut_of fun e held => heaterPoint_layout (sound.heaterCurve.2.1 e held)
  adcCurve0 := laidOut_of fun e held => codeLayout_bytes (sound.adcCurve0.2.1 e held)
  adcCurve1 := laidOut_of fun e held => codeLayout_bytes (sound.adcCurve1.2.1 e held)
  bridgeAllow := laidOut_of fun e held => allowLayout_bytes (sound.bridgeAllow.2.1 e held)
  bridgeScript := laidOut_of fun e held => scriptLayout_bytes (sound.bridgeScript.2 e held)

/-- No entry is longer than a plan step. -/
theorem entry_short {t : Tables} (sound : Tables.Sound t) (n : TableName) : ∀ b ∈ t.entryBytes n, b.length ≤ 16 := by
  have short : ∀ {α : Type} {bytes : α → List Byte} {entries : List α}, (∀ e ∈ entries, (bytes e).length ≤ 16) →
      ∀ b ∈ entries.map bytes, b.length ≤ 16 := by
    intro α bytes entries each b held
    obtain ⟨e, member, rfl⟩ := List.mem_map.mp held
    exact each e member
  cases n
  case bridgeScript =>
    refine short fun e held => ?_
    have fits := sound.bridgeScript.2 e held
    have layout := (scriptLayout_bytes fits).size
    simp only [ScriptEntry.inRange, Bool.and_eq_true, decide_eq_true_eq] at fits
    omega
  case lines =>
    refine short fun e held => ?_
    rw [(lineLayout_bytes (sound.lines.2.1 e held)).size]
    decide
  all_goals exact short fun e _ => Nat.le_of_ble_eq_true rfl

theorem flatten_short {l : List (List Byte)} {k : Nat} (count : l.length ≤ k) (each : ∀ b ∈ l, b.length ≤ 16) :
    l.flatten.length ≤ 16 * k := by
  induction l generalizing k with
  | nil => exact Nat.zero_le _
  | cons b rest ih =>
    obtain ⟨first, others⟩ := List.forall_mem_cons.mp each
    cases k with
    | zero => cases count
    | succ k =>
      have behind := ih (Nat.le_of_succ_le_succ count) others
      rw [List.flatten_cons, List.length_append]
      omega

theorem readTable_unknown {r : Request} (name : TableName.ofCode (read1 r.payload 0) = none) (s : State) :
    readTable r s = answer r .badArg [] s := by
  unfold readTable
  rw [name]

theorem readTable_eq {r : Request} {n : TableName} (name : TableName.ofCode (read1 r.payload 0) = some n) (s : State) :
    readTable r s = if read1 r.payload 3 < 1 ∨ 15 < read1 r.payload 3 ∨ s.tables.lengthOf n < read2 r.payload 1
      then answer r .badArg [] s
      else answer r .ok (tableAnswer n s.tables ++ bytes2 (read2 r.payload 1)
        ++ (((s.tables.entryBytes n).drop (read2 r.payload 1)).take (read1 r.payload 3)).flatten) s := by
  unfold readTable
  rw [name]

/-- Settles O19: a sound table's bytes are laid out field by field, and a reading gives them from the first index onward. -/
theorem tableReadReturnsEntries : Obligations.TableReadReturnsEntries := by
  refine ⟨fun t => laidOut_of_sound, fun s r can length => ?_⟩
  obtain ⟨flag, sent, flow, same, runs⟩ := exec_form .tableRead can length
  cases name : TableName.ofCode (read1 r.payload 0) with
  | none => exact ⟨_, runs, by rw [readTable_unknown name]; exact refused_ends can same _ _⟩
  | some n =>
    rw [readTable_eq name] at runs
    dsimp only
    by_cases bad : read1 r.payload 3 < 1 ∨ 15 < read1 r.payload 3 ∨ s.tables.lengthOf n < read2 r.payload 1
    · rw [if_pos (by exact bad)] at runs
      refine ⟨_, runs, ?_⟩
      rw [if_pos bad]
      exact refused_ends can same _ _
    · rw [if_neg (by exact bad)] at runs
      refine ⟨_, runs, ?_⟩
      rw [if_neg bad]
      refine ⟨refused_ends can same _ _, fun beyond => ?_, fun sound => ?_⟩
      · rw [beyond, ← length_entryBytes, List.drop_length, List.take_nil]
        rfl
      · have entries := flatten_short (List.length_take_le (read1 r.payload 3) ((s.tables.entryBytes n).drop (read2 r.payload 1)))
          fun b held => entry_short sound n b (List.mem_of_mem_drop (List.mem_of_mem_take held))
        simp only [List.length_append, List.length_cons, bytes2_length]
        omega

end Sys2Proof.Machine
end

section
/-! PROOFS. Parameters, log, status, lines, heater, curves and the refusals of relays: O21, O22, O23, O33, O38, O54, O57 -/

namespace Sys2Proof.Machine

/-! #### O21: PARAM_SET -/

theorem clampInt_eq {lo hi : Int} (le : lo ≤ hi) (v : Int) : clampInt lo hi v = if v < lo then lo else if hi < v then hi else v := by
  unfold clampInt
  split
  · omega
  · split <;> omega

theorem clampNat_eq {lo hi : Nat} (le : lo ≤ hi) (v : Int) :
    (clampNat lo hi v : Int) = if v < (lo : Int) then (lo : Int) else if (hi : Int) < v then (hi : Int) else v := by
  rw [← clampInt_eq (by exact_mod_cast le), clampNat]
  exact Int.toNat_of_nonneg (by unfold clampInt; omega)

/-- A width or height is lowered to the even number below. -/
theorem clampEven_eq {lo hi : Nat} (le : lo ≤ hi) (v : Int) : (clampEven lo hi v : Int) =
    if (if v < (lo : Int) then (lo : Int) else if (hi : Int) < v then (hi : Int) else v) % 2 = 1
    then (if v < (lo : Int) then (lo : Int) else if (hi : Int) < v then (hi : Int) else v) - 1
    else if v < (lo : Int) then (lo : Int) else if (hi : Int) < v then (hi : Int) else v := by
  rw [← clampNat_eq le, clampEven]
  split <;> omega

theorem flagOf_eq (v : Int) : (flagOf v).map (fun b => (boolCode b : Int)) = if v = 0 ∨ v = 1 then some v else none := by
  unfold flagOf
  split
  · rename_i zero; subst zero; rfl
  · split
    · rename_i one; subst one; rfl
    · rename_i notZero notOne
      exact (if_neg (not_or.mpr ⟨notZero, notOne⟩)).symm

theorem wideOfCode_cases (k : Nat) : wideOfCode k = if k = 8 then some false else if k = 16 then some true else none := by
  unfold wideOfCode
  split
  · rfl
  · rfl
  · rename_i not8 not16
    rw [if_neg not8, if_neg not16]

/-- The poll register a value carries, in PARAM_GET's number (R184, log 25). -/
theorem regAddrOf_eq (v : Int) : (regAddrOf v).map (fun a => (a.value : Int)) =
    if v / 65536 % 256 = 8 then some (8 * 65536 + min 255 (v % 65536))
    else if v / 65536 % 256 = 16 then some (16 * 65536 + v % 65536)
    else none := by
  have word : ((BitVec.ofInt 32 v).toNat : Int) = v % 4294967296 := by
    rw [BitVec.toNat_ofInt]
    exact Int.toNat_of_nonneg (Int.emod_nonneg _ (by decide))
  unfold regAddrOf
  dsimp only
  generalize (BitVec.ofInt 32 v).toNat = w at word
  have top : v / 65536 % 256 = ((w / 65536 % 256 : Nat) : Int) := by omega
  have low : v % 65536 = ((w % 65536 : Nat) : Int) := by omega
  rw [top, low, wideOfCode_cases]
  generalize w / 65536 % 256 = width
  by_cases eight : width = 8
  · subst eight
    simp [RegAddr.value, RegAddr.widthCode]
  · rw [if_neg eight, if_neg (show ¬ (width : Int) = 8 by exact_mod_cast eight)]
    by_cases sixteen : width = 16
    · subst sixteen
      simp [RegAddr.value, RegAddr.widthCode]
    · rw [if_neg sixteen, if_neg (show ¬ (width : Int) = 16 by exact_mod_cast sixteen)]
      rfl

/-- Storing a value gives the value of R184, or nothing where it refuses. -/
theorem store_value (p : Params) (n : Param) (v : Int) : (p.store n v).map (·.value n) = n.stored v := by
  cases n
  case width => exact congrArg some ((clampEven_eq (lo := 256) (hi := 8192) (by decide) v).trans (by simp))
  case height => exact congrArg some ((clampEven_eq (lo := 128) (hi := 6144) (by decide) v).trans (by simp))
  case strayForward | heaterEnable =>
    refine Eq.trans ?_ (flagOf_eq v)
    simp only [Params.store, Option.map_map]
    rfl
  case tempSource =>
    refine Eq.trans ?_ (flagOf_eq v)
    simp only [Params.store, Option.map_map]
    refine congrArg (Option.map · (flagOf v)) (funext fun b => ?_)
    cases b <;> rfl
  case pollRegister =>
    refine Eq.trans ?_ (regAddrOf_eq v)
    simp only [Params.store, Option.map_map]
    rfl
  case pollGain | pollOffset => exact congrArg some (clampInt_eq (by decide) v)
  case bridgeSpeed =>
    simp only [Params.store, Param.stored, Param.range]
    split
    · rename_i speed
      rcases speed with rfl | rfl <;> rfl
    · rfl
  case reportMask =>
    refine congrArg some ?_
    change ((BitVec.ofInt 8 v).toNat : Int) = v % 256
    rw [BitVec.toNat_ofInt]
    exact Int.toNat_of_nonneg (Int.emod_nonneg _ (by decide))
  all_goals exact congrArg some (clampNat_eq (by decide) v)

theorem store_others {p q : Params} {n m : Param} {v : Int} (stored : p.store n v = some q) (other : m ≠ n) :
    q.value m = p.value m := by
  cases n
  case strayForward | tempSource | heaterEnable | pollRegister =>
    obtain ⟨x, -, rfl⟩ := Option.map_eq_some_iff.mp stored
    cases m <;> first | exact absurd rfl other | rfl
  case bridgeSpeed =>
    simp only [Params.store] at stored
    split at stored <;> cases stored
    cases m <;> first | exact absurd rfl other | rfl
  all_goals
    cases stored
    cases m <;> first | exact absurd rfl other | rfl

/-- TRAIL is bit 1 of report_mask (11.3). -/
theorem trailsEnabled_iff (s : State) : reportEnabled s .trail = false ↔ s.params.value .reportMask / 2 % 2 = 0 := by
  change s.params.reportMask.getLsbD 1 = false ↔ (s.params.reportMask.toNat : Int) / 2 % 2 = 0
  rw [BitVec.getLsbD, Nat.testBit_eq_decide_div_mod_eq, decide_eq_false_iff_not]
  omega

/-- What PARAM_SET does beside storing (R15, R128, R158). -/
theorem paramEffects_eq (n : Param) (s : State) : paramEffects n s = { s with
    seq.autoCount := if n = .autoPreview then 0 else s.seq.autoCount,
    bridge.lastGood := if (n = .pollDevice || n = .pollRegister || n = .pollGain || n = .pollOffset : Bool) then none
      else s.bridge.lastGood,
    trails.queue := if n = .reportMask ∧ s.params.value n / 2 % 2 = 0 then [] else s.trails.queue } := by
  cases n
  case reportMask =>
    unfold paramEffects
    cases enabled : reportEnabled s .trail with
    | true =>
      have set : ¬ s.params.value .reportMask / 2 % 2 = 0 := fun clear => by
        rw [(trailsEnabled_iff s).mpr clear] at enabled
        cases enabled
      simp [set]
    | false => simp [(trailsEnabled_iff s).mp enabled]
  all_goals rfl

section
variable {r : Request} (s : State)

theorem setParam_unknown (name : Param.ofCode (read1 r.payload 0) = none) : setParam r s = answer r .badArg [] s := by
  unfold setParam
  dsimp only
  rw [name]

variable {n : Param} (name : Param.ofCode (read1 r.payload 0) = some n)
include name

theorem setParam_eq : setParam r s = if n.takeFixed = true ∧ s.seq.takeState ∉ [.noTake, .aborted, .finished]
    then answer r .badState [] s
    else match s.params.store n (readSigned4 r.payload 1) with
      | none => answer r .badArg [] s
      | some p => answer r (if p.value n = readSigned4 r.payload 1 then .ok else .okClamped)
          (paramAnswer (read1 r.payload 0) (p.value n)) (paramEffects n { s with params := p }) := by
  unfold setParam
  dsimp only
  rw [name]
  exact if_congr (fixed_iff _ _) rfl rfl

end

theorem params_answered (r : Request) (st : Status) (p : List Byte) (s : State) : (endEvent (answer r st p s)).params = s.params := by
  obtain ⟨-, -, -, -, -, -, -, -, -, -, -, -, params, -⟩ := endEvent_fields (answer r st p s)
  rw [params, answer_frame]

/-- Settles O21: by what storing gives (store_value), and its effects beside. -/
theorem paramSetStoresValue : Obligations.ParamSetStoresValue := by
  intro s r can length
  obtain ⟨flag, sent, flow, same, runs⟩ := exec_form .paramSet can length
  cases name : Param.ofCode (read1 r.payload 0) with
  | none => exact ⟨_, runs, by rw [setParam_unknown _ name]; exact refused_ends can same _ _⟩
  | some n =>
    rw [setParam_eq _ name] at runs
    by_cases fixed : n.takeFixed = true ∧ s.seq.takeState ∉ [.noTake, .aborted, .finished]
    · rw [if_pos (by exact fixed)] at runs
      refine ⟨_, runs, ?_⟩
      dsimp only
      rw [if_pos fixed]
      exact refused_ends can same _ _
    · rw [if_neg (by exact fixed)] at runs
      have value := store_value s.params n (readSigned4 r.payload 1)
      change exec .paramSet s = .next (endEvent (match s.params.store n (readSigned4 r.payload 1) with
        | none => _
        | some p => _)) at runs
      cases stored : s.params.store n (readSigned4 r.payload 1) with
      | none =>
        rw [stored] at runs value
        refine ⟨_, runs, ?_⟩
        dsimp only
        rw [if_neg fixed, ← value]
        exact refused_ends can same _ _
      | some p =>
        rw [stored] at runs value
        refine ⟨_, runs, ?_⟩
        dsimp only
        rw [if_neg fixed, ← value]
        have kept : ∀ u : State, (paramEffects n u).params = u.params := fun u => by rw [paramEffects_eq]
        have params : (endEvent (answer r (if p.value n = readSigned4 r.payload 1 then .ok else .okClamped)
            (paramAnswer (read1 r.payload 0) (p.value n))
            (paramEffects n { tookRequest flag sent flow s with params := p }))).params = p :=
          (params_answered _ _ _ _).trans (kept _)
        refine ⟨?_, congrArg (·.value n) params, fun m other => (congrArg (·.value m) params).trans (store_others stored other)⟩
        dsimp only
        rw [params, paramEffects_eq]
        exact took_ends (flag := flag) can same _ _ (u := { s with
          port.requests := s.port.requests.tail, params := p,
          seq.autoCount := if n = .autoPreview then 0 else s.seq.autoCount,
          bridge.lastGood := if (n = .pollDevice || n = .pollRegister || n = .pollGain || n = .pollOffset : Bool) then none
            else s.bridge.lastGood,
          trails.queue := if n = .reportMask ∧ p.value n / 2 % 2 = 0 then [] else s.trails.queue }) rfl rfl rfl

/-! #### O22: PARAM_GET and LOG_READ -/

/-- Fields are whole bytes, high byte first, signed ones in two's complement (R191). -/
theorem fieldsCoded : FieldsCoded where
  byte _ := byteOf_toNat
  two _ small := ⟨rfl, number_bytes2 small⟩
  four _ small := ⟨rfl, number_bytes4 small⟩
  signedFour _ low high := ⟨rfl, signedNumber_signed4 low high⟩
  temperature _ low high := ⟨rfl, signedNumber_signed2 low high⟩
  noTemperature := ⟨rfl, signedNumber_signed2 (by decide) (by decide)⟩
  readByte _ _ fits := (valueAt_one fits).symm
  readTwo _ _ fits := (valueAt_two fits).symm
  readSignedTwo _ _ fits := (signedAt_two fits).symm
  readSignedFour _ _ fits := (signedAt_four fits).symm

/-- The codes of named values are their places in their lists (R191, log 24). -/
theorem namesCoded : NamesCoded where
  takeState x := by cases x <;> rfl
  phase x := by cases x <;> rfl
  tableState x := by cases x <;> rfl
  bridgeState x := by cases x <;> rfl
  renderKind x := by cases x <;> rfl
  source x := by cases x <;> rfl
  function x := by cases x <;> rfl
  status x := by cases x <;> rfl
  reportKind x := by cases x <;> exact ⟨by decide, rfl⟩
  outcome o := by cases o <;> rfl
  table k := by
    match k with
    | 0 | 1 | 2 | 3 | 4 | 5 | 6 | 7 | 8 | 9 | 10 => exact ⟨rfl, fun n is => by cases is; rfl⟩
    | k + 11 => exact ⟨rfl, nofun⟩
  param k := by
    match k with
    | 0 | 1 | 2 | 3 | 4 | 5 | 6 | 7 | 8 | 9 | 10 | 11 | 12 | 13 | 14 | 15 | 16 | 17 | 18 | 19 | 20 | 21 | 22 | 23 | 24 | 25 => rfl
    | k + 26 => rfl

/-! ##### The subframe record -/

theorem pair_of_length {l : List Byte} (length : l.length = 2) : ∃ a b, l = [a, b] := List.length_eq_two.mp length

theorem tempBytes_length (t : Option Int) : (tempBytes t).length = 2 := by cases t <;> rfl

theorem trailsField_length (n : Nat) : (trailsField n).length = 2 := by
  unfold trailsField
  split <;> rfl

theorem boolCode_le (b : Bool) : boolCode b ≤ 1 := by cases b <;> decide

theorem packBits_value (a b c d : Bool) :
    (packBits a b c d).toNat = boolCode a + 2 * boolCode b + 4 * boolCode c + 8 * boolCode d := by
  have ha := boolCode_le a
  have hb := boolCode_le b
  have hc := boolCode_le c
  have hd := boolCode_le d
  exact byteOf_toNat (by omega)

/-- A field whose bytes are those of a number holds it. -/
theorem holds_one {p : List Byte} {i n : Nat} (bytes : field p i 1 = [byteOf n]) : Holds p i 1 n := by
  intro small
  rw [valueAt, bytes, number_single, byteOf_toNat small]

theorem holds_two {p : List Byte} {i n : Nat} (bytes : field p i 2 = bytes2 n) : Holds p i 2 n := by
  intro small
  rw [valueAt, bytes, number_bytes2 small]

theorem holds_four {p : List Byte} {i n : Nat} (bytes : field p i 4 = bytes4 n) : Holds p i 4 n := by
  intro small
  rw [valueAt, bytes, number_bytes4 small]

/-- A byte that is a value's code names it. -/
theorem named_of_code {α : Type} {names : List α} {code : α → Nat} (coded : ∀ x, names[code x]? = some x) (few : ∀ x, code x < 256)
    {p : List Byte} {i : Nat} {x : α} (bytes : field p i 1 = [byteOf (code x)]) : Named names p i x := by
  rw [Named, valueAt, bytes, number_single, byteOf_toNat (few x), coded]

/-- The codes of a record's named fields are bytes, and places in their lists. -/
theorem kindNames : (∀ x : Kind, [Kind.dark, .light][x.code]? = some x) ∧ ∀ x : Kind, x.code < 256 :=
  ⟨fun x => by cases x <;> rfl, fun x => by cases x <;> decide⟩

theorem outcomeNames : (∀ x : SubframeOutcome, [SubframeOutcome.integrated, .partialFrame, .missing, .abandoned][x.code]? = some x)
    ∧ ∀ x : SubframeOutcome, x.code < 256 :=
  ⟨fun x => by cases x <;> rfl, fun x => by cases x <;> decide⟩

theorem sourceNames : (∀ x : ExposureSource, [ExposureSource.feedback, .lineTime][x.code]? = some x)
    ∧ ∀ x : ExposureSource, x.code < 256 :=
  ⟨fun x => by cases x <;> rfl, fun x => by cases x <;> decide⟩

theorem tempStateNames : (∀ x : TempState, [TempState.fresh, .stale, .absent][x.code]? = some x) ∧ ∀ x : TempState, x.code < 256 :=
  ⟨fun x => by cases x <;> rfl, fun x => by cases x <;> decide⟩

theorem recordLayout_bytes (r : SubframeRecord) : RecordLayout r.bytes r := by
  obtain ⟨t0, t1, temp⟩ := pair_of_length (tempBytes_length r.temperature)
  obtain ⟨u0, u1, trails⟩ := pair_of_length (trailsField_length r.trails)
  have bytes : ∃ b, b = r.bytes := ⟨_, rfl⟩
  obtain ⟨b, whole⟩ := bytes
  have laid := whole
  unfold SubframeRecord.bytes at laid
  rw [temp, trails] at laid
  simp only [bytes2, bytes4, List.cons_append, List.nil_append] at laid
  rw [← whole]
  subst laid
  clear whole
  refine
    { size := rfl, index := holds_two rfl, kind := named_of_code kindNames.1 kindNames.2 rfl, step := holds_one rfl,
      outcome := fun o is => named_of_code outcomeNames.1 outcomeNames.2 (by rw [is]; rfl),
      presence := ?_, frameCounter := ?_, commandedUs := holds_four rfl, heldUs := holds_four rfl, exposedUs := holds_four rfl,
      exposureSource := fun o is => named_of_code sourceNames.1 sourceNames.2 (by rw [is]; rfl),
      tempState := fun o is => named_of_code tempStateNames.1 tempStateNames.2 (by rw [is]; rfl),
      temperature := fun v is low high => ?_, noTemperature := fun is => ?_, scale := holds_two rfl,
      admitted := holds_four rfl, rejected := holds_four rfl, saturated := holds_four rfl, excluded := holds_four rfl,
      lost := holds_four rfl, outliers := holds_four rfl, clamped := holds_four rfl, extraLines := holds_four rfl,
      trails := fun small => ?_, unattributed := holds_two rfl, flags := (number_single _).trans (packBits_value _ _ _ _) }
  case refine_1 => exact (number_single _).trans (packBits_value _ _ false false)
  case refine_2 =>
    refine number_bytes2 (n := (r.frameCounter.map BitVec.toNat).getD 0) ?_
    cases r.frameCounter with
    | none => decide
    | some c => exact c.isLt
  case refine_3 =>
    refine Eq.trans (congrArg signedNumber (show field _ 22 2 = tempBytes r.temperature from temp.symm)) ?_
    rw [is]
    exact signedNumber_signed2 low high
  case refine_4 =>
    refine Eq.trans (congrArg signedNumber (show field _ 22 2 = tempBytes r.temperature from temp.symm)) ?_
    rw [is]
    exact signedNumber_signed2 (by decide) (by decide)
  case refine_5 =>
    refine Eq.trans (congrArg number (show field _ 58 2 = trailsField r.trails from trails.symm)) ?_
    rw [trailsField, if_pos (Nat.le_of_lt_succ small), number_bytes2 small]

theorem readLog_eq (r : Request) (s : State) : readLog r s =
    if read1 r.payload 2 < 1 ∨ 4 < read1 r.payload 2 ∨ read2 r.payload 0 = 0 ∨ s.log.closed.length < read2 r.payload 0
    then answer r .badArg [] s
    else answer r .ok (byteOf ((s.log.closed.drop (read2 r.payload 0 - 1)).take (read1 r.payload 2)).length
      :: ((s.log.closed.drop (read2 r.payload 0 - 1)).take (read1 r.payload 2)).flatMap SubframeRecord.bytes) s := by
  unfold readLog
  exact if_congr (by simp only [Nat.lt_one_iff]) rfl rfl

/-- Settles O22: both answer from what is held, and a record's fields stand at their offsets. -/
theorem paramGetAndLogReadAnswer : Obligations.ParamGetAndLogReadAnswer := by
  refine ⟨fieldsCoded, namesCoded, recordLayout_bytes, fun s r can length => ?_, fun s r can length => ?_⟩
  · obtain ⟨flag, sent, flow, same, runs⟩ := exec_form .paramGet can length
    refine ⟨_, runs, ?_⟩
    unfold getParam
    dsimp only
    cases Param.ofCode (read1 r.payload 0) with
    | none => exact refused_ends can same _ _
    | some n => exact refused_ends can same _ _
  · obtain ⟨flag, sent, flow, same, runs⟩ := exec_form .logRead can length
    rw [readLog_eq] at runs
    refine ⟨_, runs, ?_⟩
    dsimp only
    by_cases bad : read1 r.payload 2 < 1 ∨ 4 < read1 r.payload 2 ∨ read2 r.payload 0 = 0
        ∨ s.log.closed.length < read2 r.payload 0
    · rw [if_pos bad, if_pos (by exact bad)]
      exact refused_ends can same _ _
    · rw [if_neg bad, if_neg (by exact bad)]
      refine ⟨(s.log.closed.drop (read2 r.payload 0 - 1)).take (read1 r.payload 2), refused_ends can same _ _, ?_, fun k within => ?_⟩
      · rw [List.length_take, List.length_drop]
      · rw [List.length_take, lt_min_iff] at within
        rw [List.getElem?_take_of_lt within.1, List.getElem?_drop]

/-! #### O23: STATUS_READ -/

theorem pinBits : ∀ (b0 b1 b2 b3 b4 b5 : Bool) (l : Fin 6),
    (byteOf (boolCode b0 + 2 * boolCode b1 + 4 * boolCode b2 + 8 * boolCode b3 + 16 * boolCode b4 + 32 * boolCode b5)).getLsbD l
      = [b0, b1, b2, b3, b4, b5][l] := by decide

theorem pinByte_bit (s : State) (l : LineNo) : (pinByte s).getLsbD l.val = pinLevel s l := by
  refine (pinBits _ _ _ _ _ _ l).trans ?_
  fin_cases l <;> rfl

/-- The status as one list of bytes. -/
theorem statusBytes_eq {s : State} {t0 t1 u0 u1 : Byte} (sensor : tempBytes (sensorTemperature s) = [t0, t1])
    (ambient : tempBytes s.temps.th0 = [u0, u1]) : statusBytes s =
    [byteOf s.seq.takeState.code, byteOf s.seq.phase.code, byteOf s.seq.step, byteOf (subframeIndex s / 256), byteOf (subframeIndex s),
      byteOf s.fifo.entries.length, byteOf s.port.requests.length, byteOf (s.out.queue.length + 1), byteOf s.trails.queue.length,
      byteOf s.bridge.relays.length, byteOf (s.tables.stateOf .plan).code, byteOf (s.tables.stateOf .defects).code,
      byteOf (s.tables.stateOf .horizon).code, byteOf (s.tables.stateOf .regions).code, byteOf (s.tables.stateOf .darkModel).code,
      byteOf (s.tables.stateOf .lines).code, byteOf (s.tables.stateOf .heaterCurve).code, byteOf (s.tables.stateOf .adcCurve0).code,
      byteOf (s.tables.stateOf .adcCurve1).code, byteOf (s.tables.stateOf .bridgeAllow).code, byteOf (s.tables.stateOf .bridgeScript).code,
      byteOf s.bridge.state.code, t0, t1, u0, u1, byteOf (s.heater.duty / 256), byteOf s.heater.duty, pinByte s,
      byteOf (s.link.strayCount / 256), byteOf s.link.strayCount, byteOf (boolCode s.link.locked), byteOf (boolCode s.port.lostReports)] := by
  have names : (List.range 11).filterMap TableName.ofCode = [.plan, .defects, .horizon, .regions, .darkModel, .lines, .heaterCurve,
    .adcCurve0, .adcCurve1, .bridgeAllow, .bridgeScript] := rfl
  unfold statusBytes
  rw [sensor, ambient, names]
  rfl

/-- Settles O23: the reply lists the status, one field behind another. -/
theorem statusReadReportsPart : Obligations.StatusReadReportsPart := by
  intro s r can length
  obtain ⟨flag, sent, flow, same, runs⟩ := exec_form .statusRead can (congrArg List.length length)
  obtain ⟨t0, t1, sensor⟩ := pair_of_length (tempBytes_length (sensorTemperature s))
  obtain ⟨u0, u1, ambient⟩ := pair_of_length (tempBytes_length s.temps.th0)
  have queue : (tookRequest flag sent flow s).port.requests.length = s.port.requests.length - 1 := List.length_tail
  have bytes := statusBytes_eq (s := tookRequest flag sent flow s) sensor ambient
  rw [queue] at bytes
  refine ⟨_, _, runs, refused_ends can same _ _, ?_⟩
  rw [bytes]
  exact ⟨rfl, rfl, rfl, rfl, fun n => by cases n <;> rfl, rfl, sensor.symm, ambient.symm, rfl, pinByte_bit s, rfl, rfl⟩

/-! #### O33: the refusals of BRIDGE_WRITE and BRIDGE_READ -/

/-- The register address of a relay request. -/
def relayRegister (p : List Byte) : RegAddr := { wide := decide (read1 p 1 = 16), addr := read2 p 2 }

theorem relayAddress_eq (p : List Byte) : relayAddress p =
    if read1 p 0 ≤ 127 ∧ (read1 p 1 = 8 ∧ read2 p 2 ≤ 255 ∨ read1 p 1 = 16) then some (read1 p 0, relayRegister p) else none := by
  have small := Nat.le_of_lt_succ (read2_lt p 2)
  unfold relayAddress relayRegister
  rw [wideOfCode_cases]
  by_cases eight : read1 p 1 = 8
  · simp [eight, RegAddr.fits]
  · by_cases sixteen : read1 p 1 = 16
    · simp [sixteen, RegAddr.fits, small]
    · simp [eight, sixteen]

/-- The fields are judged together: the addresses and the count (R154 step 1). -/
theorem relayFields_good {p : List Byte} (good : relayFieldsGood p) :
    relayAddress p = some (read1 p 0, relayRegister p) ∧ relayCount p = true := by
  obtain ⟨device, register, low, high⟩ := good
  exact ⟨by rw [relayAddress_eq, if_pos ⟨device, register⟩], decide_eq_true ⟨low, high⟩⟩

theorem relayFields_bad {p : List Byte} (bad : ¬ relayFieldsGood p) :
    relayAddress p = none ∨ (∃ a, relayAddress p = some a) ∧ relayCount p = false := by
  rw [relayAddress_eq]
  split
  · rename_i address
    exact .inr ⟨⟨_, rfl⟩, decide_eq_false fun count => bad ⟨address.1, address.2, count⟩⟩
  · exact .inl rfl

theorem bridgeWrite_bad {r : Request} (long : 5 ≤ r.payload.length) (bad : ¬ relayFieldsGood r.payload) (s : State) :
    bridgeWrite r s = answer r .badArg [] s := by
  unfold bridgeWrite
  rw [if_neg (Nat.not_lt.mpr long)]
  rcases relayFields_bad bad with e | ⟨⟨a, e⟩, count⟩ <;> rw [e]
  dsimp only
  rw [count]
  rfl

theorem bridgeWrite_good {r : Request} (long : 5 ≤ r.payload.length) (good : relayFieldsGood r.payload) (s : State) :
    bridgeWrite r s = if r.payload.length ≠ 5 + read1 r.payload 4 then answer r .badLength [] s
      else presentRelay r (read1 r.payload 0) (relayRegister r.payload) (.write (r.payload.drop 5)) s := by
  obtain ⟨address, count⟩ := relayFields_good good
  unfold bridgeWrite
  rw [if_neg (Nat.not_lt.mpr long), address]
  dsimp only
  rw [count]
  rfl

theorem bridgeRead_bad {r : Request} (bad : ¬ relayFieldsGood r.payload) (s : State) :
    bridgeRead r s = answer r .badArg [] s := by
  unfold bridgeRead
  rcases relayFields_bad bad with e | ⟨⟨a, e⟩, count⟩ <;> rw [e]
  dsimp only
  rw [count]
  rfl

theorem bridgeRead_good {r : Request} (good : relayFieldsGood r.payload) (s : State) :
    bridgeRead r s = presentRelay r (read1 r.payload 0) (relayRegister r.payload) (.read (read1 r.payload 4)) s := by
  obtain ⟨address, count⟩ := relayFields_good good
  unfold bridgeRead
  rw [address]
  dsimp only
  rw [count]
  rfl

section
variable {r : Request} {device : Nat} {reg : RegAddr} {access : BusAccess} {s : State}

theorem deviceAllowed_iff : deviceAllowed s device = true ↔ device ∈ s.tables.bridgeAllow.seen := List.contains_iff_mem

theorem presentRelay_blocked (unlisted : device ∉ s.tables.bridgeAllow.seen) :
    presentRelay r device reg access s = answer r .blocked [] s := by
  have shut : deviceAllowed s device = false := Bool.eq_false_iff.mpr fun yes => unlisted (deviceAllowed_iff.mp yes)
  unfold presentRelay
  rw [shut]
  rfl

variable (listed : device ∈ s.tables.bridgeAllow.seen)
include listed

theorem presentRelay_stuck (fault : s.bridge.state = .fault) : presentRelay r device reg access s = answer r .busStuck [] s := by
  unfold presentRelay
  rw [deviceAllowed_iff.mpr listed]
  exact if_pos fault

variable (sound : s.bridge.state ≠ .fault)
include sound

theorem presentRelay_busy (full : 4 ≤ s.bridge.relays.length) : presentRelay r device reg access s = answer r .busy [] s := by
  unfold presentRelay
  rw [deviceAllowed_iff.mpr listed]
  exact (if_neg sound).trans (if_pos full)

theorem presentRelay_joins (room : s.bridge.relays.length < 4) : presentRelay r device reg access s =
    tryEndStepStart (arbitrate { s with bridge.relays := s.bridge.relays
      ++ [{ tag := r.tag, device := device, reg := reg, access := access, state := .waiting }] }) := by
  unfold presentRelay
  rw [deviceAllowed_iff.mpr listed]
  exact (if_neg sound).trans (if_neg (Nat.not_le.mpr room))

end

/-- Settles O33: each check of R154 refuses where those before it pass. -/
theorem relayRequestsRefusedInOrder : Obligations.RelayRequestsRefusedInOrder := by
  intro s r
  refine ⟨fun can long => ?_, fun can length => ?_⟩
  · obtain ⟨flag, sent, flow, same, runs⟩ := takeRequest_form can bridgeWrite
    refine ⟨_, (exec_of_meaning .bridgeWrite _).trans runs, fun bad => ?_, fun good apart => ?_, fun good sized unlisted => ?_,
      fun good sized listed fault => ?_, fun good sized listed sound full => ?_⟩
    · rw [bridgeWrite_bad long bad]
      exact refused_ends can same _ _
    all_goals rw [bridgeWrite_good long good]
    · rw [if_pos apart]
      exact refused_ends can same _ _
    · rw [if_neg (not_not.mpr sized), presentRelay_blocked (s := tookRequest flag sent flow s) (by exact unlisted)]
      exact refused_ends can same _ _
    · rw [if_neg (not_not.mpr sized), presentRelay_stuck (s := tookRequest flag sent flow s) (by exact listed) (by exact fault)]
      exact refused_ends can same _ _
    · rw [if_neg (not_not.mpr sized), presentRelay_busy (s := tookRequest flag sent flow s) (by exact listed) (by exact sound) (by exact full)]
      exact refused_ends can same _ _
  · obtain ⟨flag, sent, flow, same, runs⟩ := exec_form .bridgeRead can length
    refine ⟨_, runs, fun bad => ?_, fun _ apart => absurd trivial apart, fun good _ unlisted => ?_, fun good _ listed fault => ?_,
      fun good _ listed sound full => ?_⟩
    · rw [bridgeRead_bad bad]
      exact refused_ends can same _ _
    all_goals rw [bridgeRead_good good]
    · rw [presentRelay_blocked (s := tookRequest flag sent flow s) (by exact unlisted)]
      exact refused_ends can same _ _
    · rw [presentRelay_stuck (s := tookRequest flag sent flow s) (by exact listed) (by exact fault)]
      exact refused_ends can same _ _
    · rw [presentRelay_busy (s := tookRequest flag sent flow s) (by exact listed) (by exact sound) (by exact full)]
      exact refused_ends can same _ _

/-! #### O38: LINE_LEVEL and LINE_READ -/

theorem lineOf_some (l : LineNo) : lineOf l.val = some l := by
  unfold lineOf
  rw [dif_pos l.isLt]

theorem lineOf_val {n : Nat} {l : LineNo} (line : lineOf n = some l) : l.val = n := by
  unfold lineOf at line
  split at line <;> cases line
  rfl

/-- The level byte is 0 or 1. -/
theorem readFlag_level {p : List Byte} {i : Nat} (flag : read1 p i ≤ 1) : readFlag p i = some (decide (read1 p i = 1)) := by
  rw [readFlag_iff]
  have cases : read1 p i = 0 ∨ read1 p i = 1 := by omega
  rcases cases with e | e <;> rw [e] <;> rfl

theorem readFlag_beyond {p : List Byte} {i : Nat} (beyond : 1 < read1 p i) : readFlag p i = none := by
  unfold readFlag
  split
  · omega
  · omega
  · rfl

theorem setLineLevel_user {r : Request} {l : LineNo} (line : l.val = read1 r.payload 0) (flag : read1 r.payload 1 ≤ 1) {s : State}
    (user : isUserLine s l = true) : setLineLevel r s = answer r .ok [] { s with
      lines := s.lines.set l { s.lines.get l with user := decide (read1 r.payload 1 = 1) } } := by
  unfold setLineLevel
  rw [← line, lineOf_some, readFlag_level flag]
  exact if_pos user

theorem setLineLevel_refused {r : Request} {s : State}
    (bad : 1 < read1 r.payload 1 ∨ ∀ l : LineNo, l.val = read1 r.payload 0 → isUserLine s l = false) :
    setLineLevel r s = answer r .badArg [] s := by
  unfold setLineLevel
  rcases bad with beyond | noUser
  · rw [readFlag_beyond beyond]
    split
    · contradiction
    · rfl
  · split
    · rename_i l level line _
      rw [noUser l (lineOf_val line)]
      rfl
    · rfl

/-- An OUTPUT line with no pulse running takes its source's level (R29). -/
theorem driveLine_free {s : State} {l : LineNo} {x : LineState} {source : LineSource} {minPulse : Nat}
    (use : (lineSetup s l).use = .output source minPulse) (free : x.minTimer = none) :
    (driveLine s l x).driven = sourceLevel s x source := by
  unfold driveLine
  rw [use]
  by_cases same : sourceLevel s x source = x.driven
  · exact (congrArg LineState.driven (if_neg fun moves => moves.2 same)).trans same.symm
  · exact congrArg LineState.driven (if_pos ⟨free, same⟩)

theorem driveLine_user {s : State} {l : LineNo} {x : LineState} (user : isUserLine s l = true) (free : x.minTimer = none) :
    (driveLine s l x).driven = x.user := by
  unfold isUserLine at user
  split at user
  · rename_i minPulse use
    exact driveLine_free use free
  · cases user

theorem LineBank.get_set (b : LineBank) (l : LineNo) (x : LineState) : (b.set l x).get l = x := by
  fin_cases l <;> rfl

theorem lineReadBytes_length (s : State) (l : LineNo) : (lineReadBytes s l).length = 3 := by
  unfold lineReadBytes
  dsimp only
  split <;> rfl

/-- Six fields of three bytes, one behind another. -/
theorem field_triples {f : LineNo → List Byte} (triples : ∀ l, (f l).length = 3) (l : LineNo) :
    field (([0, 1, 2, 3, 4, 5] : List LineNo).flatMap f) (3 * l.val) 3 = f l := by
  have each : ∀ l, ∃ a b c, f l = [a, b, c] := fun l => List.length_eq_three.mp (triples l)
  obtain ⟨a0, b0, c0, e0⟩ := each 0
  obtain ⟨a1, b1, c1, e1⟩ := each 1
  obtain ⟨a2, b2, c2, e2⟩ := each 2
  obtain ⟨a3, b3, c3, e3⟩ := each 3
  obtain ⟨a4, b4, c4, e4⟩ := each 4
  obtain ⟨a5, b5, c5, e5⟩ := each 5
  simp only [List.flatMap_cons, List.flatMap_nil, e0, e1, e2, e3, e4, e5]
  fin_cases l <;> simp [field, e0, e1, e2, e3, e4, e5]

theorem lineReadBytes_eq (s : State) (l : LineNo) : lineReadBytes s l = match (lineSetup s l).use with
    | .input function _ => [0#8, byteOf function.code,
        packBits (lineSetup s l).invert (s.lines.get l).outside ((s.lines.get l).accepted ^^ (lineSetup s l).invert)
          (decide ((s.lines.get l).outside ≠ (s.lines.get l).accepted))]
    | .output source _ => [1#8, byteOf source.code,
        packBits (lineSetup s l).invert ((s.lines.get l).driven ^^ (lineSetup s l).invert) (s.lines.get l).driven
          (s.lines.get l).minTimer.isSome] := by
  unfold lineReadBytes pinLevel logicalLevel
  dsimp only
  cases (lineSetup s l).use <;> rfl

/-- Settles O38: the USER level and, at the end of the event, the line that follows it; and three bytes for each line. -/
theorem lineRequestsSetAndRead : Obligations.LineRequestsSetAndRead := by
  refine ⟨fun s r can length => ?_, fun s r can length => ?_⟩
  · obtain ⟨flag, sent, flow, same, runs⟩ := exec_form .lineLevel can length
    refine ⟨_, runs, fun l line level user => ?_, fun bad => ?_⟩
    · rw [setLineLevel_user line level (by exact user)]
      refine ⟨took_ends (flag := flag) can same _ _ (u := { s with
        port.requests := s.port.requests.tail,
        lines := s.lines.set l { s.lines.get l with user := decide (read1 r.payload 1 = 1) } }) rfl rfl rfl, fun free => ?_⟩
      rw [lines_answered, LineBank.get_map, LineBank.get_set]
      exact driveLine_user user free
    · rw [setLineLevel_refused (by exact bad)]
      exact refused_ends can same _ _
  · obtain ⟨flag, sent, flow, same, runs⟩ := exec_form .lineRead can (congrArg List.length length)
    refine ⟨_, _, runs, refused_ends can same _ _, ?_, fun l => ?_⟩
    · simp [List.flatMap_cons, lineReadBytes_length]
    · exact (field_triples (lineReadBytes_length _) l).trans (lineReadBytes_eq s l)

/-! #### O54: temperatures and the heater -/

theorem sourceLevel_endEvent (u : State) (x : LineState) (source : LineSource) : sourceLevel (endEvent u) x source = sourceLevel u x source := by
  obtain ⟨seq, -, -, -, heater, -, -, -, -, -, -, tables, params, -⟩ := endEvent_fields u
  exact sourceLevel_congr seq heater params tables x source

theorem signalHeater_endEvent (u : State) : signalHeater (endEvent u) = signalHeater u :=
  sourceLevel_endEvent u (u.lines.get 0) .heater

/-- A HEATER line without a pulse follows the signal at the end of an event (R29). -/
theorem heaterLine_endEvent {u : State} {l : LineNo} {minPulse : Nat} (use : (lineSetup u l).use = .output .heater minPulse)
    (free : (u.lines.get l).minTimer = none) :
    ((endEvent u).lines.get l).driven = signalHeater u ∧ pinLevel (endEvent u) l = (signalHeater u ^^ (lineSetup u l).invert) := by
  have driven : ((endEvent u).lines.get l).driven = signalHeater u := by
    rw [lines_endEvent, LineBank.get_map]
    exact driveLine_free use free
  refine ⟨driven, ?_⟩
  unfold pinLevel
  rw [lineSetup_congr (tables_endEvent u), use, driven]
  rfl

theorem openDetector_lines (s : State) : (openDetector s).lines = s.lines ∧ (openDetector s).tables = s.tables := by
  unfold openDetector
  split <;> exact ⟨rfl, rfl⟩

theorem grantIngest_lines (s : State) : (grantIngest s).lines = s.lines ∧ (grantIngest s).tables = s.tables := by
  have held : (endHold s).lines = s.lines ∧ (endHold s).tables = s.tables := by
    unfold endHold
    split <;> exact ⟨rfl, rfl⟩
  unfold grantIngest
  obtain ⟨lines, tables⟩ := openDetector_lines (openCursor { releaseExposure s with
    arb := { holder := .ingest, waiting := .none }, seq.lineTime := grantedLineTime (releaseExposure s), seq.phase := .readout,
    seq.readoutTimer := some (s.now + s.params.readoutTimeout * 1000),
    link.readout := some { kind := if openIsLight s then .light else .dark, forward := (currentStep s).any PlanStep.forward, seenFrame := false },
    link.rowMap := [] })
  exact ⟨lines.trans held.1, tables.trans held.2⟩

theorem signalHeater_readout {s : State} (phase : s.seq.phase = .readout) : signalHeater s = false := by
  unfold signalHeater signalReadout
  rw [phase, Bool.and_eq_false_iff]
  exact .inr rfl

theorem heaterDuty_eq (curve : List CurvePoint) (ambient : Option Int) : heaterDuty curve ambient = match ambient with
    | none => 0
    | some a => ((interpolate curve a).getD 0).toNat := by
  cases ambient <;> rfl

/-- Settles O54: conversions and periods are the events' own effects; the line follows the signal they leave. -/
theorem temperaturesAndHeater : Obligations.TemperaturesAndHeater := by
  intro s
  have period : exec .heaterPwmPeriod s = .next (endEvent (beginPeriod s)) := rfl
  have activeEnd : exec .pwmActiveEnd s = execPwmActiveEnd s := rfl
  refine ⟨fun code due => ?_, fun code due => ?_, fun channel code out => ?_, ?_, fun active part => ?_, fun none => ?_, ?_,
    fun l minPulse use free => ⟨⟨_, period, ?_⟩, fun active part => ?_, fun d timer plane => ?_⟩⟩
  · refine (if_pos due).trans ?_
    exact congrArg (fun d => Host.Outcome.next (endEvent { s with
      temps := { s.temps with due := .th1, code0 := some code, th0 := interpolate s.tables.adcCurve0.seen code.toNat },
      heater.duty := d })) (heaterDuty_eq _ _)
  · exact if_pos due
  · exact if_neg out
  · rw [period]
    unfold beginPeriod
    simp only [Nat.pos_iff_ne_zero]
    rfl
  · exact if_pos ⟨active, part⟩
  · refine if_neg fun ⟨active, part⟩ => ?_
    rcases none with off | whole
    · rw [off] at active; cases active
    · exact absurd part (Nat.not_lt.mpr whole)
  · unfold signalHeater signalReadout
    simp [and_assoc]
  · rw [signalHeater_endEvent]
    exact heaterLine_endEvent (u := beginPeriod s) use free
  · refine ⟨_, if_pos ⟨active, part⟩, ?_⟩
    obtain ⟨driven, pin⟩ := heaterLine_endEvent (u := { advanceTo (s.heater.periodStart + s.heater.activeUs) s with
      heater.pwmActive := false }) use free
    exact ⟨driven, pin.trans (Bool.false_xor _)⟩
  · have runs : exec .exposureTimerExpiry s
        = .next (endEvent (grantIngest { advanceTo d s with seq.exposureTimer := none })) := by
      change (match s.seq.exposureTimer with | none => _ | some t => _) = _
      rw [timer]
      exact congrArg (fun u => Host.Outcome.next (endEvent u)) (if_pos plane)
    obtain ⟨lines, tables⟩ := grantIngest_lines { advanceTo d s with seq.exposureTimer := none }
    have quiet : signalHeater (grantIngest { advanceTo d s with seq.exposureTimer := none }) = false :=
      signalHeater_readout (congrArg Stand.phase (stand_grantIngest _))
    refine ⟨_, runs, (signalHeater_endEvent _).trans quiet, ?_⟩
    refine (heaterLine_endEvent (minPulse := minPulse) ?_ ?_).1.trans quiet
    · rw [lineSetup_congr tables]; exact use
    · rw [lines]; exact free

/-! #### O57: curves, rounding and the scale S -/

theorem roundDiv_zero (b : Int) (positive : 0 < b) : roundDiv 0 b = 0 := by
  unfold roundDiv
  rw [if_pos le_rfl]
  exact Int.ediv_eq_zero_of_lt (by omega) (by omega)

/-- Rounding is exact where it divides. -/
theorem roundDiv_mul (a b : Int) (positive : 0 < b) : roundDiv (a * b) b = a := by
  have exactly : ∀ c : Int, (2 * (c * b) + b) / (2 * b) = c := by
    intro c
    rw [show 2 * (c * b) + b = b + 2 * b * c by ring, Int.add_mul_ediv_left _ _ (by omega),
      Int.ediv_eq_zero_of_lt (by omega) (by omega), zero_add]
  unfold roundDiv
  split
  · exact exactly a
  · rw [← neg_mul, exactly, neg_neg]

/-- The rounded quotient is the nearest integer, and of two the one farther from zero. -/
theorem roundDiv_nearest (a b : Int) (positive : 0 < b) :
    2 * |b * roundDiv a b - a| ≤ b ∧ (2 * |b * roundDiv a b - a| = b → |a| < |b * roundDiv a b|) := by
  have upper : ∀ c : Int, 0 ≤ c → 0 ≤ b * ((2 * c + b) / (2 * b)) ∧ 2 * (b * ((2 * c + b) / (2 * b))) ≤ 2 * c + b
      ∧ 2 * c - b < 2 * (b * ((2 * c + b) / (2 * b))) := by
    intro c nonneg
    have split := Int.emod_add_mul_ediv (2 * c + b) (2 * b)
    have low := Int.emod_nonneg (2 * c + b) (show 2 * b ≠ 0 by omega)
    have high := Int.emod_lt_of_pos (2 * c + b) (show 0 < 2 * b by omega)
    have product := mul_nonneg positive.le (Int.ediv_nonneg (show 0 ≤ 2 * c + b by omega) (show 0 ≤ 2 * b by omega))
    rw [mul_assoc] at split
    omega
  unfold roundDiv
  split
  · rename_i nonneg
    obtain ⟨sign, above, below⟩ := upper a nonneg
    generalize b * ((2 * a + b) / (2 * b)) = m at sign above below
    rw [abs_of_nonneg sign, abs_of_nonneg nonneg]
    rcases abs_cases (m - a) with ⟨e, -⟩ | ⟨e, -⟩ <;> rw [e] <;> omega
  · rename_i negative
    obtain ⟨sign, above, below⟩ := upper (-a) (by omega)
    rw [mul_neg]
    generalize b * ((2 * -a + b) / (2 * b)) = m at sign above below
    rw [abs_neg, abs_of_nonneg sign, abs_of_nonpos (show a ≤ 0 by omega)]
    rcases abs_cases (-m - a) with ⟨e, -⟩ | ⟨e, -⟩ <;> rw [e] <;> omega

/-- The points that x has reached are passed. -/
theorem interpolateFrom_pass {x : Int} {p : CurvePoint} (after : List CurvePoint) (reached : p.x ≤ x) :
    ∀ (before : List CurvePoint) (a : CurvePoint), (∀ b ∈ before, b.x ≤ x) →
      interpolateFrom x a (before ++ p :: after) = interpolateFrom x p after := by
  intro before
  induction before with
  | nil => exact fun a _ => if_neg (Int.not_lt.mpr reached)
  | cons b rest ih =>
    intro a passed
    obtain ⟨first, others⟩ := List.forall_mem_cons.mp passed
    exact (if_neg (Int.not_lt.mpr first)).trans (ih b others)

/-- Where x has reached p, the points before it no longer count. -/
theorem interpolate_pass {x : Int} {p : CurvePoint} (before after : List CurvePoint)
    (rises : (before ++ p :: after).Pairwise fun a b => a.x < b.x) (reached : p.x ≤ x) :
    interpolate (before ++ p :: after) x = some (if x ≤ p.x then p.y else interpolateFrom x p after) ∨
      interpolate (before ++ p :: after) x = some (interpolateFrom x p after) := by
  cases before with
  | nil => exact .inl rfl
  | cons a rest =>
    have below : ∀ b ∈ a :: rest, b.x < p.x := fun b member =>
      (List.pairwise_append.mp rises).2.2 b member p List.mem_cons_self
    obtain ⟨first, others⟩ := List.forall_mem_cons.mp below
    refine .inr (congrArg some ((if_neg (by omega)).trans (interpolateFrom_pass after reached rest a fun b member => ?_)))
    have := others b member
    omega

/-- At a point, its own value. -/
theorem interpolateFrom_at {p : CurvePoint} {after : List CurvePoint} (rises : (p :: after).Pairwise fun a b => a.x < b.x) :
    interpolateFrom p.x p after = p.y := by
  cases after with
  | nil => rfl
  | cons q rest =>
    have next : p.x < q.x := List.rel_of_pairwise_cons rises List.mem_cons_self
    refine (if_pos next).trans ?_
    rw [sub_self, mul_zero, roundDiv_zero _ (by omega), add_zero]

theorem interpolate_last (before : List CurvePoint) (p : CurvePoint) (x : Int)
    (rises : (before ++ [p]).Pairwise fun a b => a.x < b.x) (reached : p.x ≤ x) : interpolate (before ++ [p]) x = some p.y := by
  rcases interpolate_pass before [] rises reached with e | e <;> rw [e]
  · exact congrArg some (ite_self _)
  · rfl

theorem interpolate_between (before after : List CurvePoint) (p q : CurvePoint) (x : Int)
    (rises : (before ++ p :: q :: after).Pairwise fun a b => a.x < b.x) (low : p.x ≤ x) (high : x ≤ q.x) :
    interpolate (before ++ p :: q :: after) x = some (p.y + roundDiv ((q.y - p.y) * (x - p.x)) (q.x - p.x)) := by
  obtain ⟨-, upward, -⟩ := List.pairwise_append.mp rises
  have next : p.x < q.x := List.rel_of_pairwise_cons upward List.mem_cons_self
  have inside : interpolateFrom x p (q :: after) = p.y + roundDiv ((q.y - p.y) * (x - p.x)) (q.x - p.x) := by
    rcases Int.lt_or_eq_of_le high with before | same
    · exact if_pos before
    · subst same
      rw [roundDiv_mul _ _ (by omega), add_sub_cancel]
      exact (if_neg (Int.lt_irrefl _)).trans (interpolateFrom_at (List.pairwise_cons.mp upward).2)
  rcases interpolate_pass before (q :: after) rises low with e | e <;> rw [e, inside]
  split
  · have same : x = p.x := by omega
    rw [same, sub_self, mul_zero, roundDiv_zero _ (by omega), add_zero]
  · rfl

/-- S with a contributing dark, by the ratio of the temperatures. -/
theorem scale_with_dark {model : List CurvePoint} {c : Calibration} {exposed : Nat} {temp : Option Int} (dark : 0 < c.darkCount)
    {tq : Int} (ratio : temperatureRatio model c temp = tq) :
    scaleOf model c exposed temp
        = some (min 65535 (roundDiv (roundDiv (4096 * exposed) (roundDiv c.darkExposure c.darkCount) * tq) 4096).toNat)
      ∧ (scaleSaturates model c exposed temp = true
        ↔ 65535 < roundDiv (roundDiv (4096 * exposed) (roundDiv c.darkExposure c.darkCount) * tq) 4096) := by
  subst ratio
  have some : c.darkCount ≠ 0 := Nat.pos_iff_ne_zero.mp dark
  refine ⟨if_neg some, ?_⟩
  simp only [scaleSaturates, some, ne_eq, not_false_eq_true, decide_true, Bool.true_and, decide_eq_true_eq]
  rfl

/-- Settles O57: each claim is one of the lemmas above. -/
theorem curvesInterpolateAndRound : Obligations.CurvesInterpolateAndRound := by
  refine ⟨fun x => rfl, fun p rest x before => congrArg some (if_pos before), interpolate_last, interpolate_between, roundDiv_nearest,
    fun model c exposed temp => ⟨fun none => ?_, fun dark even => ?_, fun dark temps t g h isTemp light darks => ?_⟩⟩
  · unfold scaleOf scaleSaturates
    simp [none]
  · refine scale_with_dark dark ?_
    unfold temperatureRatio meanDarkTemp
    rcases even with empty | absent | noTemps
    · subst empty
      cases temp <;> simp [interpolate]
      split <;> rfl
    · subst absent
      rfl
    · rw [if_pos noTemps]
      cases temp <;> rfl
  · refine scale_with_dark dark ?_
    unfold temperatureRatio meanDarkTemp
    rw [if_neg (Nat.pos_iff_ne_zero.mp temps), isTemp]
    dsimp only
    rw [light, darks]

end Sys2Proof.Machine
end

section
/-! PROOFS. TAKE_START, TAKE_PAUSE and TAKE_STOP: O24 to O27 -/

namespace Sys2Proof.Machine

/-! ### Requests that answer and then act -/

/-- The state u with other flow symbols, as a taking may leave it (R174). -/
def flowed (flag : Bool) (sent : List LaneItem) (flow : Option FlowSymbol) (u : State) : State :=
  { u with port.holdReqSent := flag, out.sent := sent, out.flowWaiting := flow }

theorem apart_flowed {flag : Bool} {sent : List LaneItem} {flow : Option FlowSymbol} {u : State}
    (same : sent.reverse.filterMap LaneItem.packet = u.out.sent.reverse.filterMap LaneItem.packet) :
    FlowApart u (flowed flag sent flow u) := by
  refine ⟨rfl, ?_⟩
  unfold begunPackets
  change sent.reverse.filterMap LaneItem.packet ++ u.out.inProgress.toList = _
  rw [same]

/-- The reply to a request just taken, joined to the queue. -/
theorem answer_flowed {s : State} {n : Nat} {r : Request} (can : CanTake s n r) (st : Status) (p : List Byte) (flag : Bool)
    (sent : List LaneItem) (flow : Option FlowSymbol) :
    answer r st p (tookRequest flag sent flow s) = flowed flag sent flow (replied r st p s) :=
  answer_took can flag sent flow st p

section
variable {flag : Bool} {sent : List LaneItem} {flow : Option FlowSymbol} {u : State}
  (same : sent.reverse.filterMap LaneItem.packet = u.out.sent.reverse.filterMap LaneItem.packet)
include same

theorem flowed_ends : Ends u (endEvent (flowed flag sent flow u)) := (apart_flowed same).ends.endEvent

/-- A change of take state behind a reply: the change, and then its report (R1, R16). -/
theorem enterTake_flowed (t : TakeState) (p : Phase) :
    Ends (queueReport .takeState (byteOf t.code :: byteOf p.code :: byteOf u.seq.step :: bytes2 (subframeIndex u)) { u with
      seq := { u.seq with
        takeState := t, phase := p, shutter := u.seq.shutter && t.keepsLevels, stepLevel := u.seq.stepLevel && t.keepsLevels } })
      (enterTake t p (flowed flag sent flow u)) := by
  have apart := apart_flowed (flag := flag) (flow := flow) same
  have changed : FlowApart { u with seq := { u.seq with
        takeState := t, phase := p, shutter := u.seq.shutter && t.keepsLevels, stepLevel := u.seq.stepLevel && t.keepsLevels } }
      { flowed flag sent flow u with seq := { u.seq with
        takeState := t, phase := p, shutter := u.seq.shutter && t.keepsLevels, stepLevel := u.seq.stepLevel && t.keepsLevels } } :=
    ⟨rfl, apart.begun⟩
  exact (changed.queueReport .takeState _).ends.trans (enterTake_ends t p (flowed flag sent flow u))

end

/-! #### O24 and O25: TAKE_START -/

/-! ##### The checks of R4, each as the model finds it -/

theorem firstIndex_spec {α : Type} (p : α → Bool) (l : List α) : match firstIndex p l with
    | some i => FirstAt (fun a => p a = true) l i
    | none => ∀ a ∈ l, p a = false := by
  induction l with
  | nil => exact fun a held => absurd held List.not_mem_nil
  | cons a rest ih =>
    unfold firstIndex
    cases here : p a with
    | true => exact ⟨⟨a, rfl, here⟩, fun j before => absurd before (Nat.not_lt_zero j)⟩
    | false =>
      have notHere : ¬ p a = true := Bool.eq_false_iff.mp here
      cases found : firstIndex p rest with
      | none =>
        rw [found] at ih
        exact List.forall_mem_cons.mpr ⟨here, ih⟩
      | some i =>
        rw [found] at ih
        obtain ⟨⟨b, at_i, holds⟩, before⟩ := ih
        refine ⟨⟨b, at_i, holds⟩, fun j lt x at_j => ?_⟩
        cases j with
        | zero => obtain rfl := Option.some.inj at_j; exact notHere
        | succ j => exact before j (Nat.lt_of_succ_lt_succ lt) x at_j

theorem firstAt_unique {α : Type} {p : α → Prop} {l : List α} {i j : Nat} (hi : FirstAt p l i) (hj : FirstAt p l j) : i = j := by
  obtain ⟨⟨a, at_i, pa⟩, before_i⟩ := hi
  obtain ⟨⟨b, at_j, pb⟩, before_j⟩ := hj
  rcases Nat.lt_trichotomy i j with lt | rfl | gt
  · exact absurd pa (before_j i lt a at_i)
  · rfl
  · exact absurd pb (before_i j gt b at_j)

theorem firstIndex_some {α : Type} {p : α → Bool} {l : List α} {i : Nat} (first : FirstAt (fun a => p a = true) l i) :
    firstIndex p l = some i := by
  have spec := firstIndex_spec p l
  cases found : firstIndex p l with
  | some k =>
    rw [found] at spec
    rw [firstAt_unique spec first]
  | none =>
    rw [found] at spec
    obtain ⟨⟨a, at_i, holds⟩, -⟩ := first
    have := spec a (List.mem_of_getElem? at_i)
    rw [holds] at this
    cases this

theorem firstIndex_none {α : Type} {p : α → Bool} {l : List α} (no : ∀ a ∈ l, ¬ p a = true) : firstIndex p l = none := by
  have spec := firstIndex_spec p l
  cases found : firstIndex p l with
  | none => rfl
  | some k =>
    rw [found] at spec
    obtain ⟨⟨a, here, holds⟩, -⟩ := spec
    exact absurd holds (no a (List.mem_of_getElem? here))

theorem FirstAt.congr {α : Type} {p q : α → Prop} (same : ∀ a, p a ↔ q a) {l : List α} {i : Nat} (h : FirstAt p l i) :
    FirstAt q l i := by
  obtain ⟨⟨a, here, holds⟩, before⟩ := h
  exact ⟨⟨a, here, (same a).mp holds⟩, fun j lt b there hq => before j lt b there ((same b).mpr hq)⟩

/-- A DARK step with a LIGHT one before it, or with one already seen. -/
def DarkLateAt (seen : Bool) (steps : List PlanStep) (j : Nat) : Prop :=
  (∃ st, steps[j]? = some st ∧ st.kind = .dark) ∧ (seen = true ∨ ∃ i < j, ∃ st, steps[i]? = some st ∧ st.kind = .light)

theorem darkLate_cons {seen : Bool} {st : PlanStep} {rest : List PlanStep} {j : Nat} :
    DarkLateAt seen (st :: rest) (j + 1) ↔ DarkLateAt (seen || decide (st.kind = .light)) rest j := by
  unfold DarkLateAt
  refine and_congr Iff.rfl ?_
  rw [Bool.or_eq_true, decide_eq_true_eq]
  constructor
  · rintro (early | ⟨i, before, x, here, light⟩)
    · exact .inl (.inl early)
    · cases i with
      | zero => obtain rfl := Option.some.inj here; exact .inl (.inr light)
      | succ i => exact .inr ⟨i, Nat.lt_of_succ_lt_succ before, x, here, light⟩
  · rintro ((early | light) | ⟨i, before, x, here, light⟩)
    · exact .inl early
    · exact .inr ⟨0, Nat.succ_pos j, st, rfl, light⟩
    · exact .inr ⟨i + 1, Nat.succ_lt_succ before, x, here, light⟩

theorem darkLate_zero {seen : Bool} {st : PlanStep} {rest : List PlanStep} :
    DarkLateAt seen (st :: rest) 0 ↔ (seen && decide (st.kind = .dark)) = true := by
  rw [Bool.and_eq_true, decide_eq_true_eq]
  constructor
  · rintro ⟨⟨x, here, dark⟩, early | ⟨i, before, -⟩⟩
    · obtain rfl := Option.some.inj here; exact ⟨early, dark⟩
    · exact absurd before (Nat.not_lt_zero i)
  · rintro ⟨early, dark⟩
    exact ⟨⟨st, rfl, dark⟩, .inl early⟩

theorem darkAfterLight_spec (steps : List PlanStep) : ∀ seen, match darkAfterLight seen steps with
    | some i => DarkLateAt seen steps i ∧ ∀ k < i, ¬ DarkLateAt seen steps k
    | none => ∀ j, ¬ DarkLateAt seen steps j := by
  induction steps with
  | nil => exact fun seen j ⟨⟨x, here, _⟩, _⟩ => by cases here
  | cons st rest ih =>
    intro seen
    unfold darkAfterLight
    split
    · rename_i here
      split at here
      · obtain rfl := Option.some.inj here
        exact ⟨darkLate_zero.mpr ‹_›, fun k before => absurd before (Nat.not_lt_zero k)⟩
      · rename_i i notHere
        obtain ⟨k, found, rfl⟩ := Option.map_eq_some_iff.mp here
        have spec := ih (seen || decide (st.kind = .light))
        rw [found] at spec
        refine ⟨darkLate_cons.mpr spec.1, fun j before => ?_⟩
        cases j with
        | zero => exact fun late => notHere (darkLate_zero.mp late)
        | succ j => exact fun late => spec.2 j (Nat.lt_of_succ_lt_succ before) (darkLate_cons.mp late)
    · rename_i here
      split at here
      · cases here
      · rename_i notHere
        have spec := ih (seen || decide (st.kind = .light))
        rw [Option.map_eq_none_iff.mp here] at spec
        intro j
        cases j with
        | zero => exact fun late => notHere (darkLate_zero.mp late)
        | succ j => exact fun late => spec j (darkLate_cons.mp late)

theorem darkLate_false (steps : List PlanStep) (j : Nat) : DarkLateAt false steps j ↔ DarkAfterLightAt steps j := by
  simp [DarkLateAt, DarkAfterLightAt]

theorem darkAfterLight_none {steps : List PlanStep} (order : DarksFirst steps) : darkAfterLight false steps = none := by
  have spec := darkAfterLight_spec steps false
  cases found : darkAfterLight false steps with
  | none => rfl
  | some i =>
    rw [found] at spec
    exact absurd ((darkLate_false _ _).mp spec.1) (order i)

theorem darkAfterLight_some {steps : List PlanStep} {j : Nat} (late : DarkAfterLightAt steps j)
    (first : ∀ k < j, ¬ DarkAfterLightAt steps k) : darkAfterLight false steps = some j := by
  have spec := darkAfterLight_spec steps false
  cases found : darkAfterLight false steps with
  | none =>
    rw [found] at spec
    exact absurd ((darkLate_false _ _).mpr late) (spec j)
  | some i =>
    rw [found] at spec
    obtain ⟨here, before⟩ := spec
    rcases Nat.lt_trichotomy i j with lt | rfl | gt
    · exact absurd ((darkLate_false _ _).mp here) (first i lt)
    · rfl
    · exact absurd ((darkLate_false _ _).mpr late) (before j gt)

theorem hasTrigger_iff (t : Tables) : hasFunction .triggerIn t.lines.seen = true ↔ HasTrigger t := by
  unfold hasFunction HasTrigger
  rw [List.any_eq_true]
  refine exists_congr fun e => and_congr Iff.rfl ?_
  cases e.use <;> simp

/-! ##### The outcome of the checks -/

section
variable {t : Tables} {p : Params}

theorem startTables_none (loaded : NoneLoading t) : startTables.find? (fun n => decide (t.stateOf n = .loading)) = none :=
  List.find?_eq_none.mpr fun n member => by simpa using loaded n member

theorem refusal_loading {n : Nat} {m : TableName} (first : FirstAt (fun m => t.stateOf m = .loading) takeFixedTables n)
    (named : takeFixedTables[n]? = some m) : startRefusal t p = some (planInvalid 0 m.code) := by
  obtain ⟨⟨a, here, loading⟩, before⟩ := first
  obtain rfl : a = m := Option.some.inj (here.symm.trans named)
  have found : startTables.find? (fun n => decide (t.stateOf n = .loading)) = some a := by
    obtain ⟨inside, value⟩ := List.getElem?_eq_some_iff.mp here
    refine List.find?_eq_some_iff_getElem.mpr ⟨decide_eq_true loading, n, inside, value, fun j lt => ?_⟩
    have earlier := before j lt _ (List.getElem?_eq_getElem (Nat.lt_trans lt inside))
    exact congrArg (!·) (decide_eq_false earlier)
  unfold startRefusal
  rw [found]

variable (loaded : NoneLoading t)
include loaded

theorem refusal_empty (none : t.plan.seen = []) : startRefusal t p = some (planInvalid 1 0) := by
  unfold startRefusal
  rw [startTables_none loaded, none]
  rfl

theorem refusal_order {j : Nat} (late : DarkAfterLightAt t.plan.seen j) (first : ∀ k < j, ¬ DarkAfterLightAt t.plan.seen k) :
    startRefusal t p = some (planInvalid 2 j) := by
  have some : t.plan.seen ≠ [] := by
    obtain ⟨⟨st, here, -⟩, -⟩ := late
    intro none
    rw [none] at here
    cases here
  unfold startRefusal
  rw [startTables_none loaded]
  dsimp only
  rw [if_neg (by simpa using some), darkAfterLight_some late first]

variable (some : t.plan.seen ≠ []) (order : DarksFirst t.plan.seen)
include some order

/-- Behind checks 1 to 3. -/
theorem refusal_later : startRefusal t p =
    if t.plan.seen.all (fun st => decide (st.kind = .dark)) then .some (planInvalid 3 0)
    else if 4096 < plannedSubframes t.plan.seen then .some (planInvalid 4 (plannedSubframes t.plan.seen))
    else if 255 < plannedDarks t.plan.seen then .some (planInvalid 5 (plannedDarks t.plan.seen))
    else match firstIndex (fun st : PlanStep => decide (st.cadence = .external)) t.plan.seen with
      | .some i => if hasFunction .triggerIn t.lines.seen then startRefusal.profileRefusal t p else .some (planInvalid 6 i)
      | none => startRefusal.profileRefusal t p := by
  unfold startRefusal
  rw [startTables_none loaded]
  dsimp only
  rw [if_neg (by simpa using some), darkAfterLight_none order]
  rfl

theorem refusal_dark (dark : ∀ st ∈ t.plan.seen, st.kind = .dark) : startRefusal t p = .some (planInvalid 3 0) := by
  rw [refusal_later loaded some order, if_pos (List.all_eq_true.mpr fun st member => decide_eq_true (dark st member))]

omit loaded some order in
theorem not_all_dark (light : ∃ st ∈ t.plan.seen, st.kind = .light) : ¬ t.plan.seen.all (fun st => decide (st.kind = .dark)) = true := by
  intro all
  obtain ⟨st, member, light⟩ := light
  have dark : st.kind = .dark := of_decide_eq_true (List.all_eq_true.mp all st member)
  rw [light] at dark
  cases dark

variable (light : ∃ st ∈ t.plan.seen, st.kind = .light)
include light

theorem refusal_total (exceeds : 4096 < plannedSubframes t.plan.seen) :
    startRefusal t p = .some (planInvalid 4 (plannedSubframes t.plan.seen)) := by
  rw [refusal_later loaded some order, if_neg (not_all_dark light), if_pos exceeds]

theorem refusal_darks (total : plannedSubframes t.plan.seen ≤ 4096) (exceeds : 255 < plannedDarks t.plan.seen) :
    startRefusal t p = .some (planInvalid 5 (plannedDarks t.plan.seen)) := by
  rw [refusal_later loaded some order, if_neg (not_all_dark light), if_neg (Nat.not_lt.mpr total), if_pos exceeds]

end

section
variable {t : Tables} {p : Params} (loaded : NoneLoading t) (plan : PlanSound t.plan.seen)
include loaded plan

/-- Behind checks 1 to 6. -/
theorem refusal_last : startRefusal t p =
    match firstIndex (fun st : PlanStep => decide (st.cadence = .external)) t.plan.seen with
      | some i => if hasFunction .triggerIn t.lines.seen then startRefusal.profileRefusal t p else some (planInvalid 6 i)
      | none => startRefusal.profileRefusal t p := by
  rw [refusal_later loaded plan.some plan.order, if_neg (not_all_dark plan.light),
    if_neg (Nat.not_lt.mpr plan.total), if_neg (Nat.not_lt.mpr plan.darks)]

theorem refusal_trigger (no : ¬ HasTrigger t) {i : Nat} (first : FirstAt (fun st => st.cadence = .external) t.plan.seen i) :
    startRefusal t p = some (planInvalid 6 i) := by
  rw [refusal_last loaded plan, firstIndex_some (first.congr fun st => decide_eq_true_iff.symm)]
  exact if_neg fun has => no ((hasTrigger_iff t).mp has)

variable (trigger : (∃ st ∈ t.plan.seen, st.cadence = .external) → HasTrigger t)
include trigger

theorem refusal_profile : startRefusal t p = startRefusal.profileRefusal t p := by
  rw [refusal_last loaded plan]
  split
  · rename_i i found
    have spec := firstIndex_spec (fun st : PlanStep => decide (st.cadence = .external)) t.plan.seen
    rw [found] at spec
    obtain ⟨⟨st, here, external⟩, -⟩ := spec
    exact if_pos ((hasTrigger_iff t).mpr (trigger ⟨st, List.mem_of_getElem? here, of_decide_eq_true external⟩))
  · rfl

end

theorem vertexOutside_iff (p : Params) (v : Vertex) :
    (decide (p.width ≤ v.column) || decide (p.height < v.row)) = true ↔ VertexOutside p v := by
  rw [Bool.or_eq_true, decide_eq_true_eq, decide_eq_true_eq]
  rfl

theorem startRefusal_none {t : Tables} {p : Params} (h : Startable t p) : startRefusal t p = none := by
  rw [refusal_profile h.loaded h.plan h.trigger]
  unfold startRefusal.profileRefusal
  rw [firstIndex_none fun v member outside => h.profile v member ((vertexOutside_iff p v).mp outside)]
  rfl

theorem startRefusal_vertex {t : Tables} {p : Params} (loaded : NoneLoading t) (plan : PlanSound t.plan.seen)
    (trigger : (∃ st ∈ t.plan.seen, st.cadence = .external) → HasTrigger t) {i : Nat}
    (first : FirstAt (VertexOutside p) t.horizon.seen i) : startRefusal t p = some (.profileGeometry, 0#8 :: bytes2 i) := by
  rw [refusal_profile loaded plan trigger]
  unfold startRefusal.profileRefusal
  rw [firstIndex_some (first.congr fun v => (vertexOutside_iff p v).symm)]
  rfl

/-! ##### The request -/

theorem takeStart_unready {s : State} (ready : s.seq.takeState ∉ [.noTake, .aborted, .finished]) (r : Request) :
    takeStart r s = answer r .badState [] s := by
  unfold takeStart
  rw [← unfixed_iff, Bool.not_eq_true] at ready
  rw [ready]
  rfl

section
variable {s : State} (ready : s.seq.takeState ∈ [.noTake, .aborted, .finished])
include ready

theorem takeStart_busy (working : s.render.state ≠ .idle) (r : Request) : takeStart r s = answer r .busy [] s := by
  unfold takeStart
  rw [(unfixed_iff _).mpr ready]
  exact if_pos working

variable (idle : s.render.state = .idle)
include idle

theorem takeStart_judged (r : Request) : takeStart r s = match startRefusal s.tables s.params with
    | some (status, payload) => answer r status payload s
    | none => startTake (answer r .ok (startPayload s) s) := by
  unfold takeStart
  rw [(unfixed_iff _).mpr ready]
  exact if_neg (not_not.mpr idle)

theorem takeStart_refused {status : Status} {payload : List Byte} (refusal : startRefusal s.tables s.params = some (status, payload))
    (r : Request) : takeStart r s = answer r status payload s := by
  rw [takeStart_judged ready idle, refusal]

theorem takeStart_granted (passed : Startable s.tables s.params) (r : Request) :
    takeStart r s = startTake (answer r .ok (startPayload s) s) := by
  rw [takeStart_judged ready idle, startRefusal_none passed]

end

theorem policyFor_eq (t : Tables) (region : Region) : policyFor t.regions.seen region = regionPolicy t region := by
  unfold policyFor regionPolicy
  cases t.regions.seen.find? fun e => decide (e.region = region) <;> rfl

/-- Settles O24: the reply, the resets of the acceptance, and the entry to CLEARING. -/
theorem takeStartBeginsClearing : Obligations.TakeStartBeginsClearing := by
  intro s r can empty ready idle passed
  obtain ⟨flag, sent, flow, same, runs⟩ := exec_form .takeStart can (congrArg List.length empty)
  rw [takeStart_granted (s := tookRequest flag sent flow s) (by exact ready) (by exact idle) (by exact passed), answer_flowed can] at runs
  refine ⟨_, runs, ?_⟩
  rw [← policyFor_eq, ← policyFor_eq]
  have zeros : [1#8, 0#8, 0#8, 0#8, 0#8] = byteOf TakeState.clearing.code :: byteOf Phase.none.code :: byteOf 0 :: bytes2 0 := by decide
  rw [zeros]
  refine Ends.endEvent ?_
  have entered := enterTake_flowed (flag := flag) (flow := flow) (u := { replied r .ok (startPayload s) s with
    seq := { s.seq with
      planeValid := false, step := 0, count := 0, notStarted := false, pausePending := false, stopPending := false,
      finishPending := false, abortPending := false, closeAbandoned := false, autoCount := 0 },
    log := SubframeLog.empty,
    cal := { s.cal with darkCount := 0, darkExposure := 0, darkTempTotal := 0, darkTempCount := 0, scale := none },
    trails := { s.trails with current := VetoList.absent, previous := VetoList.absent, queue := [] },
    port.lostReports := s.port.lostReports || !s.trails.queue.isEmpty,
    settings := recordSettings s.tables s.params, arb.holder := .clearing }) same .clearing .none
  simp only [TakeState.keepsLevels, Bool.and_false] at entered
  exact entered

/-- Settles O25: the first check that fails gives the status and the payload. -/
theorem takeStartRefusedByFirstCheck : Obligations.TakeStartRefusedByFirstCheck := by
  intro s r can empty
  obtain ⟨flag, sent, flow, same, runs⟩ := exec_form .takeStart can (congrArg List.length empty)
  refine ⟨_, runs, fun unready => ?_, fun ready working => ?_, fun ready idle => ?_⟩
  · rw [takeStart_unready (by exact unready)]
    exact refused_ends can same _ _
  · rw [takeStart_busy (s := tookRequest flag sent flow s) (by exact ready) (by exact working)]
    exact refused_ends can same _ _
  · have refuses : ∀ {status payload}, startRefusal s.tables s.params = some (status, payload) →
        Ends (replied r status payload s) (endEvent (takeStart r (tookRequest flag sent flow s))) := by
      intro status payload refusal
      rw [takeStart_refused (s := tookRequest flag sent flow s) (by exact ready) (by exact idle) (by exact refusal)]
      exact refused_ends can same _ _
    refine ⟨fun n first m named => refuses (refusal_loading first named), fun loaded => ⟨fun none => refuses (refusal_empty loaded none),
      fun j late first => refuses (refusal_order loaded late first), fun some order => ⟨fun dark => refuses (refusal_dark loaded some order dark),
        fun light => ⟨fun exceeds => refuses (refusal_total loaded some order light exceeds),
          fun total exceeds => refuses (refusal_darks loaded some order light total exceeds)⟩⟩,
      fun plan no i first => refuses (refusal_trigger loaded plan no first),
      fun plan trigger i first => refuses (startRefusal_vertex loaded plan trigger first)⟩⟩

/-! #### O26 and O27: TAKE_PAUSE and TAKE_STOP -/

/-- The work of STEP_START or WAIT cancelled, field by field (R17, R157). -/
theorem cancelWork_eq (s : State) : cancelWork s = { s with
    seq := { s.seq with settleTimer := none, gapTimer := none, scriptLeft := [] },
    bridge.waitingScript := none, bridge.inFlight := s.bridge.inFlight.map InFlight.unawaited } := by
  unfold cancelWork
  dsimp only
  congr 3

theorem actsAtOnce_iff (p : Phase) : p.actsAtOnce = true ↔ p ∈ [Phase.stepStart, .wait] := by
  cases p <;> decide

theorem not_actsAtOnce {p : Phase} (busy : p ∈ [Phase.expose, .hold, .readout, .settle]) : p.actsAtOnce = false := by
  revert busy
  cases p <;> decide

section
variable {s : State} (take : s.seq.takeState = .running)
include take

theorem pauseTake_atOnce (phase : s.seq.phase ∈ [Phase.stepStart, .wait]) : pauseTake s =
    enterTake .paused .none { cancelWork s with seq.notStarted := s.seq.notStarted || s.seq.phase = .stepStart } := by
  unfold pauseTake
  rw [take]
  simp only [List.mem_cons, List.not_mem_nil, or_false] at phase
  rcases phase with phase | phase <;> simp [phase, cancelWork_eq]

theorem pauseTake_pending (phase : s.seq.phase ∈ [Phase.expose, .hold, .readout, .settle]) :
    pauseTake s = { s with seq.pausePending := true } := by
  unfold pauseTake
  rw [take]
  simp only [List.mem_cons, List.not_mem_nil, or_false] at phase
  rcases phase with phase | phase | phase | phase <;> simp only [phase]

theorem stopTake_atOnce (phase : s.seq.phase ∈ [Phase.stepStart, .wait]) : stopTake s = enterComplete (cancelWork s) := by
  unfold stopTake
  rw [take]
  exact if_pos ((actsAtOnce_iff _).mpr phase)

theorem stopTake_pending (phase : s.seq.phase ∈ [Phase.expose, .hold, .readout, .settle]) :
    stopTake s = { s with seq.stopPending := true } := by
  unfold stopTake
  rw [take]
  exact if_neg (by rw [not_actsAtOnce phase]; exact Bool.false_ne_true)

theorem pauseStatus_running : pauseStatus s = if s.seq.phase.actsAtOnce then .ok else .accepted := by
  unfold pauseStatus
  rw [take]

theorem stopStatus_running : stopStatus s = if s.seq.phase.actsAtOnce then .ok else .accepted := by
  unfold stopStatus
  rw [take]

end

theorem pauseTake_still {s : State} (take : s.seq.takeState ≠ .running) : pauseTake s = s ∧ pauseStatus s = .badState := by
  unfold pauseTake pauseStatus
  split
  · contradiction
  · exact ⟨rfl, rfl⟩

theorem stopTake_paused {s : State} (take : s.seq.takeState = .paused) : stopTake s = enterComplete s ∧ stopStatus s = .ok := by
  unfold stopTake stopStatus
  rw [take]
  exact ⟨rfl, rfl⟩

theorem stopTake_still {s : State} (take : s.seq.takeState ∉ [TakeState.running, .paused]) :
    stopTake s = s ∧ stopStatus s = .badState := by
  simp only [List.mem_cons, List.not_mem_nil, or_false, not_or] at take
  unfold stopTake stopStatus
  split
  · exact absurd ‹_› take.1
  · exact absurd ‹_› take.2
  · exact ⟨rfl, rfl⟩

/-- A request that answers and then acts, in the form of the taken state. -/
theorem answered_form {s : State} {n : Nat} {r : Request} (can : CanTake s n r) {status : State → Status}
    {flag : Bool} {sent : List LaneItem} {flow : Option FlowSymbol} {st : Status}
    (judged : status (tookRequest flag sent flow s) = st) :
    answer r (status (tookRequest flag sent flow s)) [] (tookRequest flag sent flow s)
      = flowed flag sent flow (replied r st [] s) := by
  rw [judged, answer_flowed can]

section
variable {flag : Bool} {sent : List LaneItem} {flow : Option FlowSymbol} {u : State}
  (same : sent.reverse.filterMap LaneItem.packet = u.out.sent.reverse.filterMap LaneItem.packet)
include same

/-- COMPLETE behind a reply, with the flags clear and the levels inactive (R14, R16, R19). -/
theorem enterComplete_flowed : Ends (queueReport .takeState (4#8 :: 0#8 :: byteOf u.seq.step :: bytes2 (subframeIndex u)) { u with
    seq := { u.seq with
      takeState := .complete, phase := .none, pausePending := false, stopPending := false, finishPending := false,
      shutter := false, stepLevel := false } }) (enterComplete (flowed flag sent flow u)) := by
  have entered := enterTake_flowed (flag := flag) (flow := flow) (u := { u with
    seq.pausePending := false, seq.stopPending := false, seq.finishPending := false }) same .complete .none
  simp only [TakeState.keepsLevels, Bool.and_false] at entered
  exact entered

end

/-- Settles O26: by take state and phase (pauseTake_atOnce, pauseTake_pending, pauseTake_still). -/
theorem takePauseActsByPhase : Obligations.TakePauseActsByPhase := by
  intro s r can empty
  obtain ⟨flag, sent, flow, same, runs⟩ := exec_form .takePause can (congrArg List.length empty)
  refine ⟨_, runs, fun take phase => ?_, fun take phase => ?_, fun take => ?_⟩
  · have status : pauseStatus (tookRequest flag sent flow s) = .ok := by
      rw [pauseStatus_running (by exact take)]
      exact if_pos ((actsAtOnce_iff _).mpr phase)
    unfold takePause
    rw [answered_form can status, pauseTake_atOnce (by exact take) (by exact phase), cancelWork_eq]
    have entered := enterTake_flowed (flag := flag) (flow := flow) (u := { replied r .ok [] s with
      seq := { s.seq with
        notStarted := s.seq.notStarted || s.seq.phase = .stepStart, settleTimer := none, gapTimer := none, scriptLeft := [] },
      bridge.waitingScript := none, bridge.inFlight := s.bridge.inFlight.map InFlight.unawaited }) same .paused .none
    simp only [TakeState.keepsLevels, Bool.and_true] at entered
    exact entered.endEvent
  · have status : pauseStatus (tookRequest flag sent flow s) = .accepted := by
      rw [pauseStatus_running (by exact take)]
      exact if_neg (by rw [show (tookRequest flag sent flow s).seq.phase.actsAtOnce = false from not_actsAtOnce phase]; exact Bool.false_ne_true)
    unfold takePause
    rw [answered_form can status, pauseTake_pending (by exact take) (by exact phase)]
    exact flowed_ends (flag := flag) (flow := flow) (u := { replied r .accepted [] s with seq.pausePending := true }) same
  · obtain ⟨-, status⟩ := pauseTake_still (s := tookRequest flag sent flow s) take
    unfold takePause
    rw [answered_form can status, (pauseTake_still (s := flowed flag sent flow (replied r .badState [] s)) take).1]
    exact flowed_ends (u := replied r .badState [] s) same

/-- Settles O27: by take state and phase, COMPLETE at once or the stop flag. -/
theorem takeStopCompletesTake : Obligations.TakeStopCompletesTake := by
  intro s r can empty
  obtain ⟨flag, sent, flow, same, runs⟩ := exec_form .takeStop can (congrArg List.length empty)
  refine ⟨_, runs, fun take phase => ?_, fun take => ?_, fun take phase => ?_, fun take => ?_⟩
  · have status : stopStatus (tookRequest flag sent flow s) = .ok := by
      rw [stopStatus_running (by exact take)]
      exact if_pos ((actsAtOnce_iff _).mpr phase)
    unfold takeStop
    rw [answered_form can status, stopTake_atOnce (by exact take) (by exact phase), cancelWork_eq]
    exact (enterComplete_flowed (flag := flag) (flow := flow) (u := { replied r .ok [] s with
      seq := { s.seq with settleTimer := none, gapTimer := none, scriptLeft := [] },
      bridge.waitingScript := none, bridge.inFlight := s.bridge.inFlight.map InFlight.unawaited }) same).endEvent
  · obtain ⟨-, status⟩ := stopTake_paused (s := tookRequest flag sent flow s) take
    unfold takeStop
    rw [answered_form can status, (stopTake_paused (s := flowed flag sent flow (replied r .ok [] s)) take).1]
    exact (enterComplete_flowed (u := replied r .ok [] s) same).endEvent
  · have status : stopStatus (tookRequest flag sent flow s) = .accepted := by
      rw [stopStatus_running (by exact take)]
      exact if_neg (by rw [show (tookRequest flag sent flow s).seq.phase.actsAtOnce = false from not_actsAtOnce phase]; exact Bool.false_ne_true)
    unfold takeStop
    rw [answered_form can status, stopTake_pending (by exact take) (by exact phase)]
    exact flowed_ends (flag := flag) (flow := flow) (u := { replied r .accepted [] s with seq.stopPending := true }) same
  · obtain ⟨-, status⟩ := stopTake_still (s := tookRequest flag sent flow s) take
    unfold takeStop
    rw [answered_form can status, (stopTake_still (s := flowed flag sent flow (replied r .badState [] s)) take).1]
    exact flowed_ends (u := replied r .badState [] s) same

end Sys2Proof.Machine
end

section
/-! PROOFS. Settles O34 to O37: what the operations behind a request neither read nor move, the bus served and its transactions' ends, relays, and the pulse train. -/

namespace Sys2Proof.Machine

/-! ### What no operation behind a request looks at -/

/-- The state u with other flow symbols and other line states: what a taking and the driving of the lines move (R28, R174). -/
def aside (flag : Bool) (sent : List LaneItem) (flow : Option FlowSymbol) (lines : LineBank) (u : State) : State :=
  { u with port.holdReqSent := flag, out.sent := sent, out.flowWaiting := flow, lines := lines }

/-- An operation that neither reads nor moves any of these. -/
def Blind (op : State → State) : Prop :=
  ∀ flag sent flow lines u, op (aside flag sent flow lines u) = aside flag sent flow lines (op u)

/-- Two states that differ in flow symbols, in the levels driven and in the minimum-pulse timers alone. -/
structure Beside (u v : State) : Prop where
  form : v = aside v.port.holdReqSent v.out.sent v.out.flowWaiting v.lines u
  sent : v.out.sent.reverse.filterMap LaneItem.packet = u.out.sent.reverse.filterMap LaneItem.packet
  lines : v.lines.map (fun _ x => { x with driven := false, minTimer := none })
    = u.lines.map (fun _ x => { x with driven := false, minTimer := none })

theorem Beside.refl (u : State) : Beside u u := ⟨rfl, rfl, rfl⟩

theorem Beside.ends {u v : State} (h : Beside u v) : Ends u v := by
  obtain ⟨form, sent, lines⟩ := h
  have begun : begunPackets v = begunPackets u := by
    unfold begunPackets
    rw [sent, show v.out.inProgress = u.out.inProgress by rw [form]; rfl]
  refine ⟨?_, ?_, ?_⟩
  · unfold stillPart
    rw [lines, form]
    rfl
  · unfold queuedTraffic
    rw [begun, form]
    rfl
  · unfold renderTraffic
    rw [begun, form]
    rfl

theorem Blind.kept {op : State → State} (blind : Blind op) (u : State) :
    op u = aside u.port.holdReqSent u.out.sent u.out.flowWaiting u.lines (op u) :=
  blind u.port.holdReqSent u.out.sent u.out.flowWaiting u.lines u

/-- Such an operation leaves them beside one another. -/
theorem Blind.beside {op : State → State} (blind : Blind op) {u v : State} (h : Beside u v) : Beside (op u) (op v) := by
  obtain ⟨form, sent, lines⟩ := h
  have moved : op v = aside v.port.holdReqSent v.out.sent v.out.flowWaiting v.lines (op u) := by
    rw [← blind, ← form]
  have stayed := blind.kept u
  refine ⟨?_, ?_, ?_⟩
  · rw [moved]; rfl
  · rw [moved, stayed]; exact sent
  · rw [moved, stayed]; exact lines

theorem Blind.comp {f g : State → State} (hf : Blind f) (hg : Blind g) : Blind fun u => f (g u) := by
  intro flag sent flow lines u
  dsimp only
  rw [hg, hf]

/-- Either of two such operations, by a condition that looks at nothing else. -/
theorem Blind.ite {c : State → Prop} [DecidablePred c] {f g : State → State}
    (same : ∀ flag sent flow lines u, c (aside flag sent flow lines u) = c u) (hf : Blind f) (hg : Blind g) :
    Blind fun u => if c u then f u else g u := by
  intro flag sent flow lines u
  dsimp only
  by_cases h : c u
  · rw [if_pos h, if_pos (by rw [same]; exact h)]
    exact hf ..
  · rw [if_neg h, if_neg (by rw [same]; exact h)]
    exact hg ..

/-- The lines follow their sources. -/
theorem Beside.driveLines {u v : State} (h : Beside u v) : Beside u (driveLines v) := by
  obtain ⟨form, sent, lines⟩ := h
  refine ⟨?_, sent, ?_⟩
  · have same : ∀ L, ({ v with lines := L } : State) = aside v.port.holdReqSent v.out.sent v.out.flowWaiting L u := by
      intro L
      rw [form]
      rfl
    exact same _
  · rw [← lines]
    exact LineBank.map_congr (driveLine_rest v) v.lines

/-- A request just taken and answered (R174, R176). -/
theorem beside_answered {s : State} {n : Nat} {r : Request} (can : CanTake s n r) (st : Status) (p : List Byte) {flag : Bool}
    {sent : List LaneItem} {flow : Option FlowSymbol}
    (same : sent.reverse.filterMap LaneItem.packet = s.out.sent.reverse.filterMap LaneItem.packet) :
    Beside (replied r st p s) (answer r st p (tookRequest flag sent flow s)) := by
  rw [answer_took can]
  exact ⟨rfl, same, rfl⟩

/-- A request just taken and not answered yet. -/
theorem beside_took {s : State} {flag : Bool} {sent : List LaneItem} {flow : Option FlowSymbol}
    (same : sent.reverse.filterMap LaneItem.packet = s.out.sent.reverse.filterMap LaneItem.packet) :
    Beside { s with port.requests := s.port.requests.tail } (tookRequest flag sent flow s) := ⟨rfl, same, rfl⟩

theorem Blind.queueReport {f : State → State} (blind : Blind f) (k : ReportKind) {p : State → List Byte}
    (payload : ∀ flag sent flow lines u, p (aside flag sent flow lines u) = p u) : Blind fun u => queueReport k (p u) (f u) := by
  intro flag sent flow lines u
  dsimp only
  rw [blind, payload]
  generalize p u = q
  generalize f u = v
  have joins : Blind (formReport k q) :=
    Blind.ite (c := fun w => (w.out.locked && outQueueHasRoom w) = true) (fun _ _ _ _ _ => rfl) (fun _ _ _ _ _ => rfl)
      (fun _ _ _ _ _ => rfl)
  exact Blind.ite (c := fun w => reportEnabled w k = true) (g := id) (fun _ _ _ _ _ => rfl) joins (fun _ _ _ _ _ => rfl)
    flag sent flow lines v

theorem blind_queueReport (k : ReportKind) (p : List Byte) : Blind (queueReport k p) :=
  Blind.queueReport (f := id) (fun _ _ _ _ _ => rfl) k (fun _ _ _ _ _ => rfl)

/-! #### The bus and the phases -/

/-- Arbitration is what it does to the bus's view, and leaves the rest. -/
theorem arbitrate_form (s : State) : arbitrate s = { s with
    bridge := (arbitrate (busView s)).bridge, seq.scriptLeft := (arbitrate (busView s)).seq.scriptLeft,
    out.queue := (arbitrate (busView s)).out.queue, port.lostReports := (arbitrate (busView s)).port.lostReports,
    freeSeq := (arbitrate (busView s)).freeSeq } := by
  rw [← busView_arbitrate]
  have rest := busRest_arbitrate s
  generalize arbitrate s = t at rest
  have back : ∀ u v : State, busRest u = busRest v → u = { v with
      bridge := (busView u).bridge, seq.scriptLeft := (busView u).seq.scriptLeft, out.queue := (busView u).out.queue,
      port.lostReports := (busView u).port.lostReports, freeSeq := (busView u).freeSeq } := by
    intro u v h
    have put := congrArg (fun w : State => { w with
      bridge := u.bridge, seq.scriptLeft := u.seq.scriptLeft, out.queue := u.out.queue, port.lostReports := u.port.lostReports,
      freeSeq := u.freeSeq }) h
    exact put
  exact back t s rest

theorem blind_arbitrate : Blind arbitrate := by
  intro flag sent flow lines u
  rw [arbitrate_form (aside flag sent flow lines u), arbitrate_form u]
  rfl

theorem blind_claimPoll : Blind claimPoll := by
  have served : Blind fun u => arbitrate { u with seq.pollAt := none, bridge.waitingPoll := some (pollTransaction u) } :=
    blind_arbitrate.comp fun _ _ _ _ _ => rfl
  exact Blind.ite (c := fun u => (!deviceAllowed u (pollTransaction u).device) = true) (fun _ _ _ _ _ => rfl)
    (f := fun u => { u with seq.pollAt := none, bridge.waitingPoll := none }) (fun _ _ _ _ _ => rfl)
    (Blind.ite (c := fun u => u.bridge.state = .fault) (fun _ _ _ _ _ => rfl)
      (f := fun u => { u with seq.pollAt := none, bridge.waitingPoll := none }) (fun _ _ _ _ _ => rfl) served)

theorem blind_schedulePoll (exposure : Nat) : Blind (schedulePoll exposure) := by
  intro flag sent flow lines u
  unfold schedulePoll
  cases source : u.params.tempSource with
  | adcTh1 => rw [show (aside flag sent flow lines u).params.tempSource = _ from source]; rfl
  | sensorRegister =>
    rw [show (aside flag sent flow lines u).params.tempSource = _ from source]
    dsimp only
    by_cases soon : exposure ≤ u.params.pollLead * 1000
    · rw [if_pos (by exact soon), if_pos soon]
      exact blind_claimPoll flag sent flow lines u
    · rw [if_neg (by exact soon), if_neg soon]
      rfl

theorem blind_enterExpose : Blind enterExpose := by
  intro flag sent flow lines u
  unfold enterExpose
  cases step : currentStep u with
  | none => rw [show currentStep (aside flag sent flow lines u) = _ from step]
  | some st =>
    rw [show currentStep (aside flag sent flow lines u) = _ from step]
    exact blind_schedulePoll st.exposure flag sent flow lines { u with
      seq := { u.seq with
        phase := .expose, gapTimer := none, exposureTimer := some (u.now + st.exposure),
        exposureNumber := u.seq.exposureNumber + 1, exposeStart := u.now, pollDone := false },
      log.openRecord := some (SubframeRecord.opening (u.log.closed.length + 1) u.seq.step st),
      meas := { armed := true, startCapture := none, endCapture := none } }

theorem blind_enterWait : Blind enterWait := by
  intro flag sent flow lines u
  unfold enterWait
  cases step : currentStep u with
  | none => rw [show currentStep (aside flag sent flow lines u) = _ from step]
  | some st =>
    rw [show currentStep (aside flag sent flow lines u) = _ from step]
    dsimp only
    cases st.cadence with
    | external => rfl
    | internal =>
      dsimp only
      by_cases zero : st.gap = 0
      · rw [if_pos zero, if_pos zero]
        exact blind_enterExpose flag sent flow lines { u with seq.phase := .wait, seq.gapTimer := none }
      · rw [if_neg zero, if_neg zero]
        rfl

theorem blind_tryEndStepStart : Blind tryEndStepStart := by
  intro flag sent flow lines u
  unfold tryEndStepStart
  by_cases ends : u.seq.phase = .stepStart ∧ u.seq.settleTimer = none ∧ scriptsEnded u = true
  · rw [if_pos (by exact ends), if_pos ends]
    exact blind_enterWait flag sent flow lines u
  · rw [if_neg (by exact ends), if_neg ends]

theorem blind_handScripts (indices : List Nat) : Blind (handScripts indices) := by
  induction indices with
  | nil => intro flag sent flow lines u; rfl
  | cons index rest ih =>
    intro flag sent flow lines u
    have told : ∀ code, handScripts rest (reportScript u.seq.step index code 0 (aside flag sent flow lines u))
        = aside flag sent flow lines (handScripts rest (reportScript u.seq.step index code 0 u)) := by
      intro code
      unfold reportScript
      rw [blind_queueReport, ih]
    unfold handScripts
    cases entry : u.tables.bridgeScript.seen[index]? with
    | none =>
      rw [show (aside flag sent flow lines u).tables.bridgeScript.seen[index]? = _ from entry]
      exact told _
    | some e =>
      rw [show (aside flag sent flow lines u).tables.bridgeScript.seen[index]? = _ from entry]
      dsimp only
      by_cases blocked : (!deviceAllowed u e.device) = true
      · rw [if_pos (by exact blocked), if_pos blocked]
        exact told _
      · rw [if_neg (by exact blocked), if_neg blocked]
        by_cases fault : u.bridge.state = .fault
        · rw [if_pos (by exact fault), if_pos fault]
          exact told _
        · rw [if_neg (by exact fault), if_neg fault]
          rfl

theorem blind_enterStepStart (settles : Bool) : Blind (enterStepStart settles) := by
  intro flag sent flow lines u
  unfold enterStepStart
  cases step : currentStep u with
  | none => rw [show currentStep (aside flag sent flow lines u) = _ from step]
  | some st =>
    rw [show currentStep (aside flag sent flow lines u) = _ from step]
    dsimp only
    refine Eq.trans ?_ (blind_tryEndStepStart flag sent flow lines _)
    refine Eq.trans ?_ (congrArg tryEndStepStart (blind_arbitrate flag sent flow lines _))
    refine congrArg (fun w => tryEndStepStart (arbitrate w)) ?_
    exact blind_handScripts _ flag sent flow lines { u with
      seq.phase := .stepStart, seq.notStarted := false, seq.shutter := decide (st.kind = .dark), seq.stepLevel := st.stepLevel,
      seq.settleTimer := if settles then timerFor u (u.params.shutterSettle * 1000) else none }

/-- A change of take state: its report queued, the lines still as they were. -/
def tookState (t : TakeState) (p : Phase) (s : State) : State :=
  queueReport .takeState (byteOf t.code :: byteOf p.code :: byteOf s.seq.step :: bytes2 (subframeIndex s)) { s with
    seq := { s.seq with
      takeState := t, phase := p, shutter := s.seq.shutter && t.keepsLevels, stepLevel := s.seq.stepLevel && t.keepsLevels } }

theorem blind_tookState (t : TakeState) (p : Phase) : Blind (tookState t p) :=
  Blind.queueReport (f := fun s : State => { s with
    seq := { s.seq with
      takeState := t, phase := p, shutter := s.seq.shutter && t.keepsLevels, stepLevel := s.seq.stepLevel && t.keepsLevels } })
    (fun _ _ _ _ _ => rfl) .takeState
    (p := fun s => byteOf t.code :: byteOf p.code :: byteOf s.seq.step :: bytes2 (subframeIndex s)) (fun _ _ _ _ _ => rfl)

theorem enterTake_eq (t : TakeState) (p : Phase) (s : State) : enterTake t p s = driveLines (tookState t p s) := rfl

theorem Beside.enterTake {u v : State} (h : Beside u v) (t : TakeState) (p : Phase) :
    Beside (tookState t p u) (enterTake t p v) := ((blind_tookState t p).beside h).driveLines

/-- The state in which a step or a wait has been called off (R17, R157). -/
theorem blind_cancelWork : Blind cancelWork := fun _ _ _ _ _ => rfl

/-- COMPLETE, its report queued, the lines still as they were (R14, R16, R19). -/
def tookComplete (s : State) : State :=
  tookState .complete .none { s with seq.pausePending := false, seq.stopPending := false, seq.finishPending := false }

theorem blind_tookComplete : Blind tookComplete :=
  (blind_tookState .complete .none).comp
    (g := fun s : State => { s with seq.pausePending := false, seq.stopPending := false, seq.finishPending := false })
    fun _ _ _ _ _ => rfl

theorem Beside.enterComplete {u v : State} (h : Beside u v) : Beside (tookComplete u) (enterComplete v) :=
  (blind_tookComplete.beside h).driveLines

/-! ### The bus: transactions that end and claims that are served (8.1 to 8.4) -/

/-! #### What the bus does where few claims wait -/

theorem arbitrate_unclaimed {s : State} (poll : s.bridge.waitingPoll = none)
    (others : s.seq.phase = .readout ∨ s.bridge.waitingScript = none ∧ ∀ q ∈ s.bridge.relays, q.state ≠ .waiting) :
    arbitrate s = s := by
  by_cases free : s.bridge.state = .idle
  · exact (busServed_iff.mp (.unclaimed free poll others)).symm
  · exact (busServed_iff.mp (.kept free)).symm

theorem arbitrate_taken {s : State} (taken : s.bridge.state ≠ .idle) : arbitrate s = s := (busServed_iff.mp (.kept taken)).symm

/-- The entry to FAULT where no script entry waits and none is to come (R151). -/
theorem faultEntered_unscripted {t : Transaction} {s : State} (script : s.bridge.waitingScript = none) (indices : s.seq.scriptLeft = []) :
    faultEntered t s = queueReport .bridgeFault [byteOf t.claimant.code, byteOf t.device] (claimEnded t 4#8 { recovered s with
      freeSeq := s.freeSeq + 1,
      bridge := { (recovered s).bridge with state := .fault, inFlight := none, waitingPoll := none, relays := failedRelays s } }) := by
  have failed : ∀ w : State, w.bridge.waitingScript = none → w.seq.scriptLeft = [] → failWaiting w = { w with
      bridge := { w.bridge with waitingPoll := none, waitingScript := none, relays := failedRelays w } } := by
    intro w none left
    have same : ({ w with seq.scriptLeft := [] } : State) = w := by rw [← left]
    rw [failWaiting_eq, none, left]
    exact congrArg (fun x : State => { x with
      bridge := { w.bridge with waitingPoll := .none, waitingScript := .none, relays := failedRelays w } }) same
  rw [← enterFault_eq]
  unfold enterFault
  rw [reportClaimEnd_busStuck]
  generalize entered : ({ { recovered s with freeSeq := s.freeSeq + 1 } with bridge.state := .fault, bridge.inFlight := none } : State) = u
  have form : queueReport .bridgeFault [byteOf t.claimant.code, byteOf t.device] (claimEnded t 4#8 u) = { u with
      out.queue := (queueReport .bridgeFault [byteOf t.claimant.code, byteOf t.device] (claimEnded t 4#8 u)).out.queue,
      port.lostReports := (queueReport .bridgeFault [byteOf t.claimant.code, byteOf t.device] (claimEnded t 4#8 u)).port.lostReports } := by
    rw [queueReport_frame, claimEnded_frame]
  have relays : failedRelays (queueReport .bridgeFault [byteOf t.claimant.code, byteOf t.device] (claimEnded t 4#8 u)) = failedRelays s := by
    rw [form, ← entered]
    rfl
  have bridge : (queueReport .bridgeFault [byteOf t.claimant.code, byteOf t.device] (claimEnded t 4#8 u)).bridge = u.bridge := by
    rw [form]
  rw [failed _ (by rw [bridge, ← entered]; exact script) (by rw [form, ← entered]; exact indices), relays, bridge,
    ← queueReport_bridge, ← claimEnded_bridge, ← entered]
  exact congrArg (fun claim => queueReport .bridgeFault [byteOf t.claimant.code, byteOf t.device] (claimEnded t 4#8 { recovered s with
      freeSeq := s.freeSeq + 1,
      bridge := { (recovered s).bridge with
        state := .fault, inFlight := none, waitingPoll := none, waitingScript := claim, relays := failedRelays s } })) script.symm

/-- No relay waits, so none fails. -/
theorem failedRelays_answered {s : State} (answered : ∀ q ∈ s.bridge.relays, q.state ≠ .waiting) :
    failedRelays s = s.bridge.relays := by
  unfold failedRelays
  split
  · refine (List.map_congr_left fun q hq => ?_).trans (List.map_id _)
    exact if_neg (answered q hq)
  · exact List.filter_eq_self.mpr fun q hq => decide_eq_true (answered q hq)

theorem not_waiting_of_answered {q : Relay} (h : q.isAnswered = true) : q.state ≠ .waiting := by
  intro waits
  rw [Relay.isAnswered, waits] at h
  exact Bool.false_ne_true h

/-! #### The end of a transaction -/

/-- Whatever the bus and the poll do not touch. -/
def claimRest (s : State) : State := { busRest s with seq.pollDone := false }

theorem claimRest_of_busRest {s t : State} (h : busRest t = busRest s) : claimRest t = claimRest s :=
  congrArg (fun u : State => { u with seq.pollDone := false }) h

theorem claimRest_endClaimant (o : BusOutcome) (data : List Byte) (c : Claimant) (s : State) :
    claimRest (endClaimant o data c s) = claimRest s := by
  unfold endClaimant
  cases c with
  | poll k gain offset =>
    dsimp only [endPoll]
    split <;> rfl
  | script step index live =>
    dsimp only
    refine claimRest_of_busRest ?_
    split
    · rw [busRest_handScripts, busRest_reportScriptEnd]
    · rw [busRest_reportScriptEnd]
  | relay => exact claimRest_of_busRest (busRest_endBusRelay o data s)

theorem claimRest_freed {s freed : State} {f : InFlight} {c : Instr} {o : BusOutcome} {data : List Byte}
    (ends : EndsTransaction s f c o data freed) : claimRest freed = claimRest s := by
  rcases ends with ⟨e, -, -, -, -, rfl⟩ | ⟨-, -, -, rfl⟩ <;> rfl

/-- The phase, its settle timer, the plan and the position stand through a transaction's end. -/
theorem stepStart_of_claimRest {s t : State} (h : claimRest t = claimRest s) :
    t.seq.phase = s.seq.phase ∧ t.seq.settleTimer = s.seq.settleTimer ∧ t.seq.step = s.seq.step ∧ t.tables = s.tables
      ∧ t.params = s.params ∧ t.now = s.now ∧ t.log = s.log ∧ t.out.locked = s.out.locked :=
  ⟨congrArg (·.seq.phase) h, congrArg (·.seq.settleTimer) h, congrArg (·.seq.step) h, congrArg (·.tables) h,
    congrArg (·.params) h, congrArg (·.now) h, congrArg (·.log) h, congrArg (·.out.locked) h⟩

theorem tryEndStepStart_stays {s : State} (h : s.seq.phase ≠ .stepStart ∨ s.seq.settleTimer ≠ none ∨ scriptsEnded s = false) :
    tryEndStepStart s = s := by
  unfold tryEndStepStart
  refine if_neg ?_
  rintro ⟨phase, timer, ended⟩
  rcases h with h | h | h
  · exact h phase
  · exact h timer
  · rw [ended] at h; exact absurd h (by decide)

theorem tryEndStepStart_ends {s : State} (phase : s.seq.phase = .stepStart) (timer : s.seq.settleTimer = none)
    (ended : scriptsEnded s = true) : tryEndStepStart s = enterWait s := if_pos ⟨phase, timer, ended⟩

/-- Settles O37: the claimant is told, the bus is served, and STEP_START ends where nothing holds it any more. -/
theorem busServesPollThenScriptThenRelay : Obligations.BusServesPollThenScriptThenRelay := by
  intro s f c o data freed flight ends
  refine ⟨_, _, _, exec_endsTransaction flight ends, claimantTold_endClaimant f o data freed, busServed_iff.mpr rfl, ?_, ?_⟩
  all_goals
    have rest : claimRest (arbitrate (endClaimant o data f.transaction.claimant freed)) = claimRest s :=
      ((claimRest_of_busRest (busRest_arbitrate _)).trans (claimRest_endClaimant ..)).trans (claimRest_freed ends)
    obtain ⟨phase, timer, step, tables, -⟩ := stepStart_of_claimRest rest
  · intro stays
    rw [← phase, ← timer] at stays
    rw [tryEndStepStart_stays stays]
    exact ends_endEvent _
  · intro start idle ended st here
    rw [tryEndStepStart_ends (phase.trans start) (timer.trans idle) ended]
    exact ⟨_, waitEntered_enterWait (by rw [tables, step]; exact here), ends_endEvent _⟩

/-! #### O36: the poll's claim, and the ends of a transaction alone on the bus -/

theorem faultEntered_quiet {t : Transaction} {s : State} (quiet : QuietBus s) :
    faultEntered t s = queueReport .bridgeFault [byteOf t.claimant.code, byteOf t.device] (claimEnded t 4#8 { recovered s with
      freeSeq := s.freeSeq + 1, bridge.state := .fault }) := by
  obtain ⟨flight, poll, script, indices, relays⟩ := quiet
  rw [faultEntered_unscripted script indices, failedRelays_answered fun q hq => not_waiting_of_answered (relays q hq)]
  have same : ∀ (i : Option InFlight) (p : Option Transaction), i = none → p = none → ({ recovered s with
      freeSeq := s.freeSeq + 1, bridge := { (recovered s).bridge with
        state := .fault, inFlight := none, waitingPoll := none, relays := s.bridge.relays } } : State) = { recovered s with
      freeSeq := s.freeSeq + 1, bridge := { (recovered s).bridge with
        state := .fault, inFlight := i, waitingPoll := p, relays := s.bridge.relays } } := by
    rintro _ _ rfl rfl
    rfl
  exact congrArg (fun w => queueReport .bridgeFault [byteOf t.claimant.code, byteOf t.device] (claimEnded t 4#8 w))
    (same s.bridge.inFlight s.bridge.waitingPoll flight poll)

section
variable {s : State}

theorem claimPoll_refused (refused : s.params.pollDevice ∉ s.tables.bridgeAllow.seen ∨ s.bridge.state = .fault) :
    claimPoll s = { s with seq.pollAt := none, bridge.waitingPoll := none } := by
  have claimed := pollClaimed_claimPoll s
  unfold PollClaimed at claimed
  rw [if_pos refused] at claimed
  exact claimed

theorem claimPoll_waits (listed : s.params.pollDevice ∈ s.tables.bridgeAllow.seen) (sound : s.bridge.state ≠ .fault) :
    claimPoll s = arbitrate { s with seq.pollAt := none, bridge.waitingPoll := some (pollTransaction s) } := by
  have claimed := pollClaimed_claimPoll s
  unfold PollClaimed at claimed
  rw [if_neg (not_or.mpr ⟨not_not.mpr listed, sound⟩)] at claimed
  exact busServed_iff.mp claimed

/-- An index that passes its hand-over is the SCRIPT claim (R157). -/
theorem scriptsPresented_passes {next : Nat} {rest : List Nat} (passes : handOverRefused s next = none) :
    scriptsPresented (next :: rest) s = { s with
      seq.scriptLeft := rest,
      bridge.waitingScript := (s.tables.bridgeScript.seen[next]?).map fun e =>
        { claimant := .script s.seq.step next true, device := e.device, reg := e.reg, access := .write e.data } } := by
  unfold scriptsPresented
  simp only [List.takeWhile_cons, List.dropWhile_cons, passes, Option.isSome_none, Bool.false_eq_true, if_false, List.foldl_nil]

/-- The last index, refused at its hand-over (R157). -/
theorem scriptsPresented_refused {last code : Nat} (refused : handOverRefused s last = .some code) :
    scriptsPresented [last] s
      = { queueReport .scriptResult [byteOf s.seq.step, byteOf last, byteOf code, 0#8] s with seq.scriptLeft := [] } := by
  unfold scriptsPresented
  simp only [List.takeWhile_cons, List.dropWhile_cons, refused, Option.isSome_some, if_true, List.takeWhile_nil, List.dropWhile_nil,
    List.foldl_cons, List.foldl_nil, Option.getD_some]

/-- A report and the indices to come do not meet. -/
theorem queueReport_indices (k : ReportKind) (p : List Byte) (s : State) (l : List Nat) :
    queueReport k p { s with seq.scriptLeft := l } = { queueReport k p s with seq.scriptLeft := l } := by
  unfold queueReport formReport
  by_cases enabled : reportEnabled s k = true
  · rw [if_pos enabled]
    refine (if_pos (by exact enabled)).trans ?_
    by_cases room : (s.out.locked && outQueueHasRoom s) = true
    · rw [if_pos room]; exact if_pos room
    · rw [if_neg room]; exact if_neg room
  · rw [if_neg enabled]
    exact if_neg (by exact enabled)

/-- In FAULT every index handed over ends there (R150, R157). -/
theorem scriptsPresented_fault (fault : s.bridge.state = .fault) (indices : List Nat) :
    (scriptsPresented indices s).seq.scriptLeft = [] ∧ (scriptsPresented indices s).bridge = s.bridge := by
  have ends : ∀ index, (handOverRefused s index).isSome = true := by
    intro index
    unfold handOverRefused
    rw [fault]
    split
    · rfl
    · split <;> rfl
  have none : indices.dropWhile (fun index => (handOverRefused s index).isSome) = [] :=
    List.dropWhile_eq_nil_iff.mpr fun index _ => ends index
  unfold scriptsPresented
  dsimp only
  rw [none]
  dsimp only
  rw [foldl_queueReport_frame]
  exact ⟨rfl, rfl⟩

/-- A bridge in FAULT with no claim waiting and none to come stays so through the phases (R150). -/
theorem faulted_tryEndStepStart (fault : s.bridge.state = .fault) (poll : s.bridge.waitingPoll = none) :
    (tryEndStepStart s).bridge = s.bridge ∧ (tryEndStepStart s).seq.scriptLeft = s.seq.scriptLeft := by
  have claimed : ∀ u : State, u.bridge = s.bridge → u.seq.scriptLeft = s.seq.scriptLeft →
      (claimPoll u).bridge = s.bridge ∧ (claimPoll u).seq.scriptLeft = s.seq.scriptLeft := by
    intro u bridge left
    rw [claimPoll_refused (.inr (by rw [bridge]; exact fault))]
    refine ⟨?_, left⟩
    rw [← bridge]
    rw [← bridge] at poll
    show { u.bridge with waitingPoll := none } = u.bridge
    rw [← poll]
  have exposed : ∀ u : State, u.bridge = s.bridge → u.seq.scriptLeft = s.seq.scriptLeft →
      (enterExpose u).bridge = s.bridge ∧ (enterExpose u).seq.scriptLeft = s.seq.scriptLeft := by
    intro u bridge left
    unfold enterExpose
    split
    · exact ⟨bridge, left⟩
    · unfold schedulePoll
      split
      · exact ⟨bridge, left⟩
      · split
        · exact claimed _ bridge left
        · exact ⟨bridge, left⟩
  unfold tryEndStepStart
  split
  · unfold enterWait
    split
    · exact ⟨rfl, rfl⟩
    · split
      · exact ⟨rfl, rfl⟩
      · split
        · exact exposed _ rfl rfl
        · exact ⟨rfl, rfl⟩
  · exact ⟨rfl, rfl⟩

/-- The entry to FAULT leaves nothing in flight, nothing waiting and nothing to come; the recovery stands on the bus (R151). -/
theorem faultEntered_bridge (t : Transaction) :
    (faultEntered t s).bridge.state = .fault ∧ (faultEntered t s).bridge.inFlight = none
      ∧ (faultEntered t s).bridge.waitingPoll = none ∧ (faultEntered t s).seq.scriptLeft = []
      ∧ (faultEntered t s).bridge.bus = ninePulses s.params.bridgeSpeed :: s.bridge.bus := by
  have way : faultEntered t s = failWaiting (queueReport .bridgeFault [byteOf t.claimant.code, byteOf t.device] (claimEnded t 4#8
      { { recovered s with freeSeq := s.freeSeq + 1 } with bridge.state := .fault, bridge.inFlight := none })) :=
    (enterFault_eq t s).symm
  rw [way]
  generalize entered : ({ { recovered s with freeSeq := s.freeSeq + 1 } with bridge.state := .fault, bridge.inFlight := none } : State) = u
  have bridge : (queueReport .bridgeFault [byteOf t.claimant.code, byteOf t.device] (claimEnded t 4#8 u)).bridge = u.bridge := by
    rw [queueReport_frame, claimEnded_frame]
  generalize queueReport .bridgeFault [byteOf t.claimant.code, byteOf t.device] (claimEnded t 4#8 u) = w at bridge ⊢
  have final : ∀ (l : List Nat) (x : State),
      x.bridge = { w.bridge with waitingPoll := none, waitingScript := none, relays := failedRelays w } →
      (scriptsPresented l x).bridge.state = .fault ∧ (scriptsPresented l x).bridge.inFlight = none
        ∧ (scriptsPresented l x).bridge.waitingPoll = none ∧ (scriptsPresented l x).seq.scriptLeft = []
        ∧ (scriptsPresented l x).bridge.bus = ninePulses s.params.bridgeSpeed :: s.bridge.bus := by
    intro l x failed
    obtain ⟨left, kept⟩ := scriptsPresented_fault (s := x) (by rw [failed, bridge, ← entered]) l
    rw [kept, left, failed, bridge, ← entered]
    exact ⟨rfl, rfl, rfl, rfl, rfl⟩
  rw [failWaiting_eq]
  cases w.bridge.waitingScript <;> exact final _ _ rfl

end

section
variable {s freed : State} {f : InFlight} {c : Instr} {o : BusOutcome} {data : List Byte}

/-- A transaction that ends frees the bus and touches nothing else the claims wait by (R148). -/
theorem freed_form (ends : EndsTransaction s f c o data freed) :
    freed.bridge = { s.bridge with state := .idle, inFlight := none, bus := freed.bridge.bus } ∧ freed.seq = s.seq
      ∧ freed.tables = s.tables ∧ freed.params = s.params ∧ freed.out = s.out ∧ freed.now = s.now := by
  rcases ends with ⟨e, -, -, -, -, rfl⟩ | ⟨-, -, -, rfl⟩ <;> exact ⟨rfl, rfl, rfl, rfl, rfl, rfl⟩

end

/-- The end of an event behind a claimant told, on a bus that no other claim waits for. -/
theorem ends_of_quiet {u : State} (poll : u.bridge.waitingPoll = none) (script : u.bridge.waitingScript = none)
    (relays : ∀ q ∈ u.bridge.relays, q.state ≠ .waiting)
    (stays : u.seq.phase ≠ .stepStart ∨ u.seq.settleTimer ≠ none ∨ scriptsEnded u = false) :
    Ends u (endEvent (tryEndStepStart (arbitrate u))) := by
  rw [arbitrate_unclaimed poll (.inr ⟨script, relays⟩), tryEndStepStart_stays stays]
  exact ends_endEvent u

theorem not_waiting_iff {q : Relay} : q.isWaiting = false ↔ q.state ≠ .waiting := by
  unfold Relay.isWaiting
  exact decide_eq_false_iff_not

/-- A script entry whose step waits for it is outstanding on the bus (R7). -/
theorem scriptsEnded_onBus {t : Transaction} {s : State} {step index : Nat} (claimant : t.claimant = .script step index true) :
    scriptsEnded (onBus t s) = false := by
  have live : scriptOutstanding (onBus t s) = true := by
    unfold scriptOutstanding
    simp only [onBus, carriedOut, claimant, Bool.or_true]
  unfold scriptsEnded
  rw [live]
  exact Bool.and_false _

/-- The transaction selected, by the free value of the data line (R147, R151). -/
theorem busGiven_cases (t : Transaction) (claimed goes : State) :
    Config.dataLine claimed.freeSeq = .stuck ∧ busGiven t claimed goes = faultEntered t claimed
      ∨ Config.dataLine claimed.freeSeq ≠ .stuck ∧ busGiven t claimed goes = onBus t goes := by
  unfold busGiven
  cases Config.dataLine claimed.freeSeq with
  | stuck => exact .inl ⟨rfl, rfl⟩
  | high => exact .inr ⟨nofun, rfl⟩
  | freed => exact .inr ⟨nofun, rfl⟩

/-- O36, the poll's claim (R150, R159). -/
theorem pollClaim_ends {s : State} {d : Nat} (due : s.seq.pollAt = some d) : ∃ t v, exec .pollClaim s = .next t
    ∧ PollClaimed { s with now := max s.now d } v ∧ Ends v t
    ∧ let claimed := { s with now := max s.now d, seq.pollAt := none, bridge.waitingPoll := none }
      let poll : Transaction :=
        { claimant := .poll s.seq.exposureNumber s.params.pollGain s.params.pollOffset, device := s.params.pollDevice,
          reg := s.params.pollRegister, access := .read 2 }
      (s.params.pollDevice ∉ s.tables.bridgeAllow.seen ∨ s.bridge.state = .fault → Ends claimed t)
      ∧ (s.params.pollDevice ∈ s.tables.bridgeAllow.seen → s.bridge.state = .busy →
        Ends { claimed with bridge.waitingPoll := some poll } t)
      ∧ (s.params.pollDevice ∈ s.tables.bridgeAllow.seen → s.bridge.state = .idle → QuietBus claimed →
        match Config.dataLine s.freeSeq with
        | .stuck => Ends (queueReport .bridgeFault [0#8, byteOf s.params.pollDevice]
            { recovered claimed with freeSeq := s.freeSeq + 1, bridge.state := .fault }) t
        | _ => Ends (onBus poll claimed) t) := by
  have runs : exec .pollClaim s = .next (endEvent (claimPoll { s with now := max s.now d })) := by
    change execPollClaim s = _
    unfold execPollClaim
    rw [due]
    rfl
  refine ⟨_, _, runs, pollClaimed_claimPoll _, ends_endEvent _, fun refused => ?_, fun listed busy => ?_, fun listed free quiet => ?_⟩
  · rw [claimPoll_refused (s := { s with now := max s.now d }) refused]
    exact ends_endEvent _
  · rw [claimPoll_waits (s := { s with now := max s.now d }) listed (by rw [show _ = _ from busy]; exact nofun),
      arbitrate_taken (by rw [show _ = _ from busy]; exact nofun)]
    exact ends_endEvent _
  · let claimed : State := { s with now := max s.now d, seq.pollAt := none, bridge.waitingPoll := none }
    have given : claimPoll { s with now := max s.now d } = busGiven (pollTransaction s) claimed claimed :=
      (claimPoll_waits (s := { s with now := max s.now d }) listed (by rw [show _ = _ from free]; exact nofun)).trans
        (busServed_iff.mp (.poll (s := { s with
          now := max s.now d, seq.pollAt := none, bridge.waitingPoll := some (pollTransaction s) }) free rfl listed)).symm
    rcases busGiven_cases (pollTransaction s) claimed claimed with ⟨line, goes⟩ | ⟨line, goes⟩
    · rw [show Config.dataLine s.freeSeq = _ from line, given, goes, faultEntered_quiet quiet]
      exact ends_endEvent _
    · rw [given, goes]
      cases free : Config.dataLine s.freeSeq with
      | stuck => exact absurd free line
      | high => exact ends_endEvent _
      | freed => exact ends_endEvent _

section
variable {s freed : State} {f : InFlight} {c : Instr} {o : BusOutcome} {data : List Byte}

/-- A report leaves the bridge, the Sequencer, the tables and the parameters. -/
theorem told_form (p : List Byte) (u : State) :
    (if o = .done then u else queueReport .scriptResult p u).bridge = u.bridge
      ∧ (if o = .done then u else queueReport .scriptResult p u).seq = u.seq
      ∧ (if o = .done then u else queueReport .scriptResult p u).tables = u.tables
      ∧ (if o = .done then u else queueReport .scriptResult p u).params = u.params
      ∧ (if o = .done then u else queueReport .scriptResult p u).now = u.now
      ∧ (if o = .done then u else queueReport .scriptResult p u).freeSeq = u.freeSeq := by
  split
  · exact ⟨rfl, rfl, rfl, rfl, rfl, rfl⟩
  · rw [queueReport_frame]
    exact ⟨rfl, rfl, rfl, rfl, rfl, rfl⟩

theorem scriptsPresented_none {u : State} (left : u.seq.scriptLeft = []) : scriptsPresented [] u = u := by
  show ({ u with seq.scriptLeft := [] } : State) = u
  rw [← left]

/-- O36, the ends of a transaction outside STEP_START on a bus that no other claim waits for (R148, R155, R157, R160, R171). -/
theorem transactionEnds_alone (flight : s.bridge.inFlight = some f) (poll : s.bridge.waitingPoll = none)
    (script : s.bridge.waitingScript = none) (indices : s.seq.scriptLeft = []) (relays : ∀ q ∈ s.bridge.relays, q.isWaiting = false)
    (phase : s.seq.phase ≠ .stepStart) (ends : EndsTransaction s f c o data freed) :
    ∃ t, exec c s = .next t
      ∧ (∀ k gain offset, f.transaction.claimant = .poll k gain offset →
          (o = .done → Ends { freed with
            bridge.lastGood := some (clampInt (-160) 340 (roundDiv (readSigned2 data 0 * gain) 256 + offset)),
            seq.pollDone := s.seq.pollDone || decide (s.seq.exposureNumber = k) } t)
          ∧ (o ≠ .done → Ends freed t))
        ∧ (∀ step index live, f.transaction.claimant = .script step index live →
          (o = .done → Ends freed t)
          ∧ (o ≠ .done → Ends (queueReport .scriptResult
            [byteOf step, byteOf index, byteOf o.code, byteOf o.byteIndex] freed) t))
        ∧ (f.transaction.claimant = .relay → ∀ before q after, s.bridge.relays = before ++ q :: after → q.state = .onBus →
          (∀ b ∈ before, b.state ≠ .onBus) →
          (s.out.locked = true →
            Ends { freed with bridge.relays := before ++ { q with state := .replyWaiting o data } :: after } t)
          ∧ (s.out.locked = false → Ends { freed with bridge.relays := before ++ after } t)) := by
  obtain ⟨bridge, seq, tables, params, out, -⟩ := freed_form ends
  have told := claimantTold_endClaimant f o data freed
  refine ⟨_, exec_endsTransaction flight ends, ?_⟩
  generalize endClaimant o data f.transaction.claimant freed = u at told ⊢
  unfold ClaimantTold at told
  have quiet : ∀ w : State, w.bridge.waitingPoll = freed.bridge.waitingPoll → w.bridge.waitingScript = freed.bridge.waitingScript →
      (∀ q ∈ w.bridge.relays, q.state ≠ .waiting) → w.seq.phase = freed.seq.phase →
      Ends w (endEvent (tryEndStepStart (arbitrate w))) := by
    intro w hp hs hr hq
    rw [bridge] at hp hs
    rw [seq] at hq
    exact ends_of_quiet (hp.trans poll) (hs.trans script) hr (.inl (by rw [hq]; exact phase))
  have waitless : ∀ q ∈ freed.bridge.relays, q.state ≠ .waiting := by
    rw [bridge]
    exact fun q hq => not_waiting_iff.mp (relays q hq)
  refine ⟨fun k gain offset claimant => ?_, fun step index live claimant => ?_, fun claimant before q after split on oldest => ?_⟩
  all_goals
    rw [claimant] at told
    dsimp only at told
  · refine ⟨fun done => ?_, fun failed => ?_⟩
    · rw [if_pos done] at told
      rw [told, seq]
      exact quiet { freed with
        bridge.lastGood := some (clampInt (-160) 340 (roundDiv (readSigned2 data 0 * gain) 256 + offset)),
        seq := { s.seq with pollDone := s.seq.pollDone || decide (s.seq.exposureNumber = k) } } rfl rfl waitless
          (by rw [seq])
    · rw [if_neg failed] at told
      rw [told]
      exact quiet _ rfl rfl waitless rfl
  · have report : (if o = .done then freed
        else queueReport .scriptResult [byteOf step, byteOf index, byteOf o.code, byteOf o.byteIndex] freed) = u := by
      rw [told]
      cases live with
      | false => exact (if_neg Bool.false_ne_true).symm
      | true =>
        refine Eq.symm ((if_pos rfl).trans ?_)
        rw [seq, indices]
        refine scriptsPresented_none ?_
        rw [(told_form _ freed).2.1, seq]
        exact indices
    obtain ⟨hb, hq, -⟩ := told_form (o := o) [byteOf step, byteOf index, byteOf o.code, byteOf o.byteIndex] freed
    rw [report] at hb hq
    have ended := quiet u (by rw [hb]) (by rw [hb]) (by rw [hb]; exact waitless) (by rw [hq])
    refine ⟨fun done => ?_, fun failed => ?_⟩
    · rw [if_pos done] at report
      rw [report]
      exact ended
    · rw [if_neg failed] at report
      rw [report]
      exact ended
  · have mine := told.1 before q after (by rw [bridge]; exact split) on oldest
    have others : ∀ b ∈ before ++ after, b.state ≠ .waiting := by
      intro b hb
      refine not_waiting_iff.mp (relays b ?_)
      rw [split]
      rcases List.mem_append.mp hb with h | h
      · exact List.mem_append_left _ h
      · exact List.mem_append_right _ (List.mem_cons_of_mem _ h)
    refine ⟨fun locked => ?_, fun unlocked => ?_⟩
    · rw [show freed.out.locked = true by rw [out]; exact locked, if_pos rfl] at mine
      rw [mine]
      refine quiet { freed with bridge.relays := before ++ { q with state := .replyWaiting o data } :: after } rfl rfl ?_ rfl
      intro b hb
      rcases List.mem_append.mp hb with h | h
      · exact others b (List.mem_append_left _ h)
      · rcases List.mem_cons.mp h with rfl | h
        · exact nofun
        · exact others b (List.mem_append_right _ h)
    · rw [show freed.out.locked = false by rw [out]; exact unlocked, if_neg Bool.false_ne_true] at mine
      rw [mine]
      exact quiet { freed with bridge.relays := before ++ after } rfl rfl others rfl

end

section
variable {s freed : State} {f : InFlight} {c : Instr} {o : BusOutcome} {data : List Byte} {step index : Nat}

/-- The script entry's report, where its end is not DONE (R157). -/
def scriptTold (o : BusOutcome) (step index : Nat) (freed : State) : State :=
  if o = .done then freed
  else queueReport .scriptResult [byteOf step, byteOf index, byteOf o.code, byteOf o.byteIndex] freed

/-- The end of a script entry's transaction in STEP_START: it is reported, and the indices behind it are handed over (R157). -/
theorem exec_scriptEnd (flight : s.bridge.inFlight = some f) (claimant : f.transaction.claimant = .script step index true)
    (ends : EndsTransaction s f c o data freed) :
    exec c s = .next (endEvent (tryEndStepStart (arbitrate (scriptsPresented s.seq.scriptLeft (scriptTold o step index freed))))) := by
  obtain ⟨-, seq, -⟩ := freed_form ends
  have told := claimantTold_endClaimant f o data freed
  rw [exec_endsTransaction flight ends]
  unfold ClaimantTold at told
  rw [claimant] at told ⊢
  refine congrArg (fun w => (.next (endEvent (tryEndStepStart (arbitrate w))) : Out)) (told.trans ((if_pos rfl).trans ?_))
  rw [seq]
  rfl

/-- A step at its end goes on to WAIT, and what that leaves, by the step's cadence (R8). -/
theorem waitEntered_cases {st : PlanStep} {u : State} (here : u.tables.plan.seen[u.seq.step]? = some st) :
    (st.cadence = .external → enterWait u = { u with seq := { u.seq with phase := .wait, gapTimer := none } })
      ∧ (st.cadence = .internal → 0 < st.gap →
        enterWait u = { u with seq := { u.seq with phase := .wait, gapTimer := some (u.now + st.gap) } })
      ∧ (st.cadence = .internal → st.gap = 0 → ExposeEntered st u (enterWait u)) := by
  have entered := waitEntered_enterWait here
  unfold WaitEntered at entered
  refine ⟨fun external => ?_, fun internal gap => ?_, fun internal gap => ?_⟩
  · rw [external] at entered
    exact entered
  · rw [internal] at entered
    dsimp only at entered
    rw [if_neg (Nat.pos_iff_ne_zero.mp gap)] at entered
    exact entered
  · rw [internal] at entered
    dsimp only at entered
    rw [if_pos gap] at entered
    exact entered

end

section
variable {s freed : State} {f : InFlight} {c : Instr} {o : BusOutcome} {data : List Byte} {step index : Nat}
  (poll : s.bridge.waitingPoll = none) (script : s.bridge.waitingScript = none)
  (relays : ∀ q ∈ s.bridge.relays, q.isWaiting = false) (ends : EndsTransaction s f c o data freed)
include poll script relays ends

/-- The bus of a script entry that has ended, its claimant told. -/
theorem scriptTold_form : (scriptTold o step index freed).bridge.waitingPoll = none
    ∧ (scriptTold o step index freed).bridge.waitingScript = none
    ∧ (∀ q ∈ (scriptTold o step index freed).bridge.relays, q.state ≠ .waiting)
    ∧ (scriptTold o step index freed).bridge.state = .idle ∧ (scriptTold o step index freed).bridge.inFlight = none
    ∧ (scriptTold o step index freed).bridge.bus = freed.bridge.bus
    ∧ (scriptTold o step index freed).seq = s.seq ∧ (scriptTold o step index freed).tables = s.tables
    ∧ (scriptTold o step index freed).params = s.params ∧ (scriptTold o step index freed).now = s.now
    ∧ (scriptTold o step index freed).freeSeq = freed.freeSeq := by
  obtain ⟨bridge, seq, tables, params, -, now⟩ := freed_form ends
  obtain ⟨hb, hq, ht, hp, hn, hf⟩ := told_form (o := o) [byteOf step, byteOf index, byteOf o.code, byteOf o.byteIndex] freed
  unfold scriptTold
  rw [hb, hq, ht, hp, hn, hf, seq, tables, params, now, bridge]
  exact ⟨poll, script, fun q hq => not_waiting_iff.mp (relays q hq), rfl, rfl, rfl, rfl, rfl, rfl, rfl, rfl⟩

/-- O36, the last script entry of a step (R7, R8). -/
theorem lastScript_ends (start : s.seq.phase = .stepStart) (left : s.seq.scriptLeft = []) :
    let told := scriptTold o step index freed
    let t := endEvent (tryEndStepStart (arbitrate (scriptsPresented s.seq.scriptLeft told)))
    (s.seq.settleTimer ≠ none → Ends told t)
      ∧ (s.seq.settleTimer = none → ∀ st, s.tables.plan.seen[s.seq.step]? = some st →
        (∃ w, WaitEntered st told w ∧ Ends w t)
        ∧ (st.cadence = .external → Ends { told with seq := { s.seq with phase := .wait, gapTimer := none } } t)
        ∧ (st.cadence = .internal → 0 < st.gap →
          Ends { told with seq := { s.seq with phase := .wait, gapTimer := some (s.now + st.gap) } } t)
        ∧ (st.cadence = .internal → st.gap = 0 → pollLater st s → Ends (exposing st told) t)) := by
  obtain ⟨hp, hs, hr, -, flight, -, hseq, htab, hpar, hnow, -⟩ := scriptTold_form (step := step) (index := index) poll script relays ends
  intro told t
  have whole : scriptsPresented s.seq.scriptLeft told = told := by
    rw [left]
    exact scriptsPresented_none (by rw [hseq]; exact left)
  have served : arbitrate told = told := arbitrate_unclaimed hp (.inr ⟨hs, hr⟩)
  refine ⟨fun timer => ?_, fun timer st here => ?_⟩
  · show Ends told (endEvent (tryEndStepStart (arbitrate (scriptsPresented s.seq.scriptLeft told))))
    rw [whole, served, tryEndStepStart_stays (.inr (.inl (by rw [hseq]; exact timer)))]
    exact ends_endEvent _
  · have ended : scriptsEnded told = true := by
      unfold scriptsEnded scriptOutstanding
      rw [hseq, left, hs, flight]
      rfl
    have goes : t = endEvent (enterWait told) := by
      show endEvent (tryEndStepStart (arbitrate (scriptsPresented s.seq.scriptLeft told))) = _
      rw [whole, served, tryEndStepStart_ends (by rw [hseq]; exact start) (by rw [hseq]; exact timer) ended]
    have at_ : told.tables.plan.seen[told.seq.step]? = some st := by rw [htab, hseq]; exact here
    obtain ⟨external, gapped, exposes⟩ := waitEntered_cases at_
    rw [goes]
    refine ⟨⟨_, waitEntered_enterWait at_, ends_endEvent _⟩, fun cadence => ?_, fun cadence gap => ?_, fun cadence gap later => ?_⟩
    · rw [external cadence, hseq]
      exact ends_endEvent _
    · rw [gapped cadence gap, hseq, hnow]
      exact ends_endEvent _
    · rw [(exposes cadence gap).1 (by unfold pollLater; rw [hpar]; exact later)]
      exact ends_endEvent _

/-- O36, the next script entry of a step, which goes on the bus or finds it stuck (R151, R157). -/
theorem nextScript_ends {next : Nat} {rest : List Nat} {e : ScriptEntry} (start : s.seq.phase = .stepStart)
    (left : s.seq.scriptLeft = next :: rest) (entry : s.tables.bridgeScript.seen[next]? = some e)
    (listed : e.device ∈ s.tables.bridgeAllow.seen) :
    let told := scriptTold o step index freed
    let t := endEvent (tryEndStepStart (arbitrate (scriptsPresented s.seq.scriptLeft told)))
    match Config.dataLine freed.freeSeq with
    | .stuck => t.bridge.state = .fault ∧ t.bridge.inFlight = none ∧ t.seq.scriptLeft = []
      ∧ t.bridge.bus = ninePulses s.params.bridgeSpeed :: freed.bridge.bus
    | _ => Ends (onBus
        { claimant := .script s.seq.step next true, device := e.device, reg := e.reg, access := .write e.data }
        { told with seq.scriptLeft := rest }) t := by
  obtain ⟨hp, hs, hr, idle, flight, bus, hseq, htab, hpar, hnow, free⟩ := scriptTold_form (step := step) (index := index) poll script relays ends
  intro told t
  let p : Transaction := { claimant := .script s.seq.step next true, device := e.device, reg := e.reg, access := .write e.data }
  have passes : handOverRefused told next = none := by
    unfold handOverRefused
    rw [htab, entry]
    dsimp only
    rw [if_neg (not_not.mpr listed), idle]
    exact if_neg nofun
  have presented : scriptsPresented s.seq.scriptLeft told
      = { told with seq.scriptLeft := rest, bridge.waitingScript := some p } := by
    rw [left, scriptsPresented_passes passes, htab, entry, hseq]
    rfl
  have gate : told.seq.phase ≠ .readout := by rw [hseq, start]; exact nofun
  have given := busServed_iff.mp (.script (s := { told with seq.scriptLeft := rest, bridge.waitingScript := some p }) idle hp
    gate rfl (by rw [htab]; exact listed))
  have shown : t = endEvent (tryEndStepStart (arbitrate { told with seq.scriptLeft := rest, bridge.waitingScript := some p })) := by
    rw [← presented]
  have claimed : ({ told with seq.scriptLeft := rest, bridge.waitingScript := none } : State) = { told with seq.scriptLeft := rest } := by
    rw [← hs]
  rw [shown, ← given, claimed]
  rcases busGiven_cases p { told with seq.scriptLeft := rest } { told with seq.scriptLeft := rest } with ⟨line, goes⟩ | ⟨line, goes⟩
  · rw [← free, show Config.dataLine told.freeSeq = _ from line, goes]
    obtain ⟨fault, none, waits, nothing, sent⟩ := faultEntered_bridge (s := { told with seq.scriptLeft := rest }) p
    obtain ⟨kept, still⟩ := faulted_tryEndStepStart fault waits
    have bridge := congrArg State.bridge (stillPart_endEvent (tryEndStepStart (faultEntered p { told with seq.scriptLeft := rest })))
    have seq := congrArg State.seq (stillPart_endEvent (tryEndStepStart (faultEntered p { told with seq.scriptLeft := rest })))
    have bridge : (endEvent (tryEndStepStart (faultEntered p { told with seq.scriptLeft := rest }))).bridge
        = (faultEntered p { told with seq.scriptLeft := rest }).bridge := bridge.trans kept
    have seq : (endEvent (tryEndStepStart (faultEntered p { told with seq.scriptLeft := rest }))).seq.scriptLeft
        = (faultEntered p { told with seq.scriptLeft := rest }).seq.scriptLeft := (congrArg Sequencer.scriptLeft seq).trans still
    dsimp only
    rw [bridge, seq]
    refine ⟨fault, none, nothing, sent.trans ?_⟩
    show ninePulses told.params.bridgeSpeed :: told.bridge.bus = _
    rw [hpar, bus]
  · rw [goes, tryEndStepStart_stays (.inr (.inr (scriptsEnded_onBus rfl)))]
    rw [← free]
    cases found : Config.dataLine (scriptTold o step index freed).freeSeq with
    | stuck => exact absurd found line
    | high => exact ends_endEvent _
    | freed => exact ends_endEvent _

/-- O36, a last index refused at its hand-over while the settle timer runs (R150, R157). -/
theorem refusedScript_ends {last code : Nat} (left : s.seq.scriptLeft = [last])
    (timer : s.seq.settleTimer ≠ none) (refused : handOverRefused (scriptTold o step index freed) last = some code) :
    Ends (queueReport .scriptResult [byteOf s.seq.step, byteOf last, byteOf code, 0#8]
      { scriptTold o step index freed with seq.scriptLeft := [] })
      (endEvent (tryEndStepStart (arbitrate (scriptsPresented s.seq.scriptLeft (scriptTold o step index freed))))) := by
  obtain ⟨hp, hs, hr, -, -, -, hseq, -⟩ := scriptTold_form (step := step) (index := index) poll script relays ends
  rw [left, scriptsPresented_refused refused, hseq, ← queueReport_indices]
  have rest := queueReport_frame .scriptResult [byteOf s.seq.step, byteOf last, byteOf code, 0#8]
    { scriptTold o step index freed with seq.scriptLeft := [] }
  generalize queueReport .scriptResult [byteOf s.seq.step, byteOf last, byteOf code, 0#8]
    { scriptTold o step index freed with seq.scriptLeft := [] } = w at rest ⊢
  refine ends_of_quiet (by rw [rest]; exact hp) (by rw [rest]; exact hs) (by rw [rest]; exact hr) (.inr (.inl ?_))
  rw [rest]
  show (scriptTold o step index freed).seq.settleTimer ≠ none
  rw [hseq]
  exact timer

end

/-- Settles O36: the poll's claim (pollClaim_ends), the ends outside STEP_START (transactionEnds_alone), and those of a script
entry its step waits for (lastScript_ends, nextScript_ends, refusedScript_ends). -/
theorem busTransactionsEndWithOutcome : Obligations.BusTransactionsEndWithOutcome := by
  refine ⟨fun s d due => pollClaim_ends due, ?_⟩
  intro s f c o data flight poll script indices relays phase freed ends
  obtain ⟨t, runs, polled, scripted, relayed⟩ := transactionEnds_alone flight poll script indices relays phase ends
  refine ⟨t, runs, polled, scripted, relayed, ?_⟩
  clear flight poll script indices relays phase ends runs polled scripted relayed
  intro s f c o step index flight claimant start poll script relays data freed ends
  refine ⟨_, exec_scriptEnd flight claimant ends, fun left => ?_, fun next rest e left entry listed => ?_, fun next left timer => ?_⟩
  · exact lastScript_ends poll script relays ends start left
  · exact nextScript_ends poll script relays ends start left entry listed
  · obtain ⟨-, -, -, idle, -, -, -, htab, -⟩ := scriptTold_form (step := step) (index := index) poll script relays ends
    refine ⟨fun missing => ?_, fun e entry unlisted => ?_⟩
    · refine refusedScript_ends (code := 6) poll script relays ends left timer ?_
      unfold handOverRefused
      rw [htab, missing]
    · refine refusedScript_ends (code := 5) poll script relays ends left timer ?_
      unfold handOverRefused
      rw [htab, entry]
      exact if_pos unlisted

/-! #### O34: a relay that passes its checks -/

/-- A waiting relay has joined the queue, and the bus has been served (R153, R154). -/
def relayJoined (q : Relay) (s : State) : State :=
  tryEndStepStart (arbitrate { s with bridge.relays := s.bridge.relays ++ [q] })

theorem blind_relayJoined (q : Relay) : Blind (relayJoined q) := by
  have joins : Blind fun s : State => { s with bridge.relays := s.bridge.relays ++ [q] } := fun _ _ _ _ _ => rfl
  exact blind_tryEndStepStart.comp (blind_arbitrate.comp joins)

section
variable {s : State} {q : Relay} (stands : StepStartStands s)
include stands

/-- STEP_START stands through what a relay changes on the bus, as long as no script run ends. -/
theorem standing_stays {u : State} (phase : u.seq.phase = s.seq.phase) (timer : u.seq.settleTimer = s.seq.settleTimer)
    (scripts : scriptsEnded s = false → scriptsEnded u = false) : tryEndStepStart u = u := by
  refine tryEndStepStart_stays ?_
  by_cases start : s.seq.phase = .stepStart
  · rcases stands start with settles | runs
    · exact .inr (.inl (by rw [timer]; exact settles))
    · exact .inr (.inr (scripts runs))
  · exact .inl (by rw [phase]; exact start)

theorem relayJoined_waits (h : s.bridge.state = .busy ∨ s.bridge.waitingPoll = none ∧ s.seq.phase = .readout) :
    relayJoined q s = { s with bridge.relays := s.bridge.relays ++ [q] } := by
  unfold relayJoined
  have served : arbitrate { s with bridge.relays := s.bridge.relays ++ [q] } = { s with bridge.relays := s.bridge.relays ++ [q] } := by
    rcases h with busy | ⟨poll, phase⟩
    · exact arbitrate_taken (by rw [show _ = _ from busy]; exact nofun)
    · exact arbitrate_unclaimed poll (.inl phase)
  rw [served]
  exact standing_stays stands rfl rfl id

/-- On a free and quiet bus the relay is selected at once (R151, R153). -/
theorem relayJoined_selected (free : s.bridge.state = .idle) (quiet : QuietBus s) (gate : s.seq.phase ≠ .readout)
    (waits : q.state = .waiting) (listed : q.device ∈ s.tables.bridgeAllow.seen) :
    relayJoined q s = busGiven { claimant := .relay, device := q.device, reg := q.reg, access := q.access }
      { s with bridge.relays := s.bridge.relays ++ [q] }
      { s with bridge.relays := s.bridge.relays ++ [{ q with state := .onBus }] } := by
  obtain ⟨flight, poll, script, indices, relays⟩ := quiet
  have settles : s.seq.phase = .stepStart → s.seq.settleTimer ≠ none := by
    intro start
    refine (stands start).resolve_right ?_
    unfold scriptsEnded scriptOutstanding
    rw [indices, script, flight]
    exact nofun
  have given := busServed_iff.mp (.relay (s := { s with bridge.relays := s.bridge.relays ++ [q] }) free poll gate script rfl waits
    (fun b hb => not_waiting_of_answered (relays b hb)) listed)
  unfold relayJoined
  rw [← given]
  refine tryEndStepStart_stays ?_
  have rest := (busRest_arbitrate { s with bridge.relays := s.bridge.relays ++ [q] })
  rw [← given] at rest
  have phase := congrArg (fun w : State => w.seq.phase) rest
  have timer := congrArg (fun w : State => w.seq.settleTimer) rest
  by_cases start : s.seq.phase = .stepStart
  · exact .inr (.inl fun none => settles start (timer.symm.trans none))
  · exact .inl fun still => start (phase.symm.trans still)

end

/-- The entry to FAULT from a relay's start on a quiet bus (R151, R155). -/
theorem faultEntered_relay {s : State} {q : Relay} {t : Transaction} (claimant : t.claimant = .relay) (quiet : QuietBus s)
    (waits : q.state = .waiting) (locked : s.out.locked = true) :
    faultEntered t { s with bridge.relays := s.bridge.relays ++ [q] }
      = queueReport .bridgeFault [2#8, byteOf t.device] { recovered s with
        freeSeq := s.freeSeq + 1, bridge := { (recovered s).bridge with
          state := .fault, relays := s.bridge.relays ++ [{ q with state := .replyWaiting .busStuck [] }] } } := by
  obtain ⟨flight, poll, script, indices, relays⟩ := quiet
  have failed : failedRelays { s with bridge.relays := s.bridge.relays ++ [q] }
      = s.bridge.relays ++ [{ q with state := .replyWaiting .busStuck [] }] := by
    unfold failedRelays
    rw [if_pos (by exact locked)]
    rw [List.map_append, List.map_cons, List.map_nil, if_pos waits]
    refine congrArg (· ++ _) ((List.map_congr_left fun b hb => ?_).trans (List.map_id _))
    exact if_neg (not_waiting_of_answered (relays b hb))
  have told : ∀ w, claimEnded t 4#8 w = w := by
    intro w
    unfold claimEnded
    rw [claimant]
  rw [faultEntered_unscripted (by exact script) (by exact indices), failed, told, claimant]
  have same : ∀ (i : Option InFlight) (p : Option Transaction), i = none → p = none →
      ({ recovered { s with bridge.relays := s.bridge.relays ++ [q] } with
        freeSeq := s.freeSeq + 1,
        bridge := { (recovered { s with bridge.relays := s.bridge.relays ++ [q] }).bridge with
          state := .fault, inFlight := none, waitingPoll := none,
          relays := s.bridge.relays ++ [{ q with state := .replyWaiting .busStuck [] }] } } : State)
        = { recovered s with
          freeSeq := s.freeSeq + 1, bridge := { (recovered s).bridge with
            state := .fault, inFlight := i, waitingPoll := p,
            relays := s.bridge.relays ++ [{ q with state := .replyWaiting .busStuck [] }] } } := by
    rintro _ _ rfl rfl
    rfl
  exact congrArg _ (same s.bridge.inFlight s.bridge.waitingPoll flight poll)

/-- What a relay that has passed its checks does, judged from the state in which its request has simply left the queue. -/
theorem relayJoined_served {s : State} {r : Request} (listed : read1 r.payload 0 ∈ s.tables.bridgeAllow.seen)
    (stands : StepStartStands s) (locked : s.out.locked = true) {v : State}
    (beside : Beside { s with port.requests := s.port.requests.tail } v) :
    let joined := fun (state : RelayState) (u : State) => { u with bridge.relays := u.bridge.relays ++ [relayOf r state] }
    let taken := { s with port.requests := s.port.requests.tail }
    let t := endEvent (relayJoined (relayOf r .waiting) v)
    (s.bridge.state = .busy → Ends (joined .waiting taken) t)
      ∧ (s.bridge.state = .idle → s.bridge.waitingPoll = none → s.seq.phase = .readout → Ends (joined .waiting taken) t)
      ∧ (s.bridge.state = .idle → QuietBus s → s.seq.phase ≠ .readout →
        match Config.dataLine s.freeSeq with
        | .stuck => Ends (queueReport .bridgeFault [2#8, byteOf (read1 r.payload 0)]
            (joined (.replyWaiting .busStuck []) { recovered taken with freeSeq := s.freeSeq + 1, bridge.state := .fault })) t
        | _ =>
          let q := relayOf r .waiting
          Ends (joined .onBus (onBus { claimant := .relay, device := q.device, reg := q.reg, access := q.access } taken)) t) := by
  intro joined taken t
  have ended : Ends (relayJoined (relayOf r .waiting) taken) t := ((blind_relayJoined _).beside beside).ends.endEvent
  have stands' : StepStartStands taken := stands
  refine ⟨fun busy => ?_, fun free poll phase => ?_, fun free quiet gate => ?_⟩
  · rw [relayJoined_waits stands' (.inl busy)] at ended
    exact ended
  · rw [relayJoined_waits stands' (.inr ⟨poll, phase⟩)] at ended
    exact ended
  · obtain ⟨flight, poll, script, indices, relays⟩ := quiet
    rw [relayJoined_selected stands' free ⟨flight, poll, script, indices, relays⟩ gate rfl listed] at ended
    let p : Transaction := { claimant := .relay, device := (relayOf r .waiting).device, reg := (relayOf r .waiting).reg,
                             access := (relayOf r .waiting).access }
    rcases busGiven_cases p { taken with bridge.relays := taken.bridge.relays ++ [relayOf r .waiting] }
      { taken with bridge.relays := taken.bridge.relays ++ [relayOf r .onBus] } with ⟨line, given⟩ | ⟨line, given⟩
    · rw [show Config.dataLine s.freeSeq = _ from line]
      have fault := faultEntered_relay (s := taken) (q := relayOf r .waiting) (t := p)
        rfl ⟨flight, poll, script, indices, relays⟩ rfl locked
      have same := given.trans fault
      exact same ▸ ended
    · have goes : onBus p { taken with bridge.relays := taken.bridge.relays ++ [relayOf r .onBus] }
          = joined .onBus (onBus p taken) := by
        unfold onBus
        dsimp only [joined]
        split <;> rfl
      have same := given.trans goes
      have ended : Ends (joined .onBus (onBus p taken)) t := same ▸ ended
      cases found : Config.dataLine s.freeSeq with
      | stuck => exact absurd found line
      | high => exact ended
      | freed => exact ended

/-- Settles O34: BRIDGE_WRITE and BRIDGE_READ pass their checks to the same relay, and the bus is served (relayJoined_served). -/
theorem relayWaitsOrStarts : Obligations.RelayWaitsOrStarts := by
  intro s r good listed sound room stands
  refine ⟨fun can length => ?_, fun can length => ?_⟩
  · obtain ⟨flag, sent, flow, same, runs⟩ := takeRequest_form can bridgeWrite
    have long : 5 ≤ r.payload.length := by omega
    have goes : bridgeWrite r (tookRequest flag sent flow s) = relayJoined (relayOf r .waiting) (tookRequest flag sent flow s) := by
      rw [bridgeWrite_good long good, if_neg (not_not.mpr length),
        presentRelay_joins (s := tookRequest flag sent flow s) (by exact listed) (by exact sound) (by exact room)]
      unfold relayOf
      rw [if_pos can.kind]
      rfl
    refine ⟨_, (exec_of_meaning .bridgeWrite _).trans runs, ?_⟩
    rw [goes]
    exact relayJoined_served listed stands can.locked (beside_took same)
  · obtain ⟨flag, sent, flow, same, runs⟩ := exec_form .bridgeRead can length
    have goes : bridgeRead r (tookRequest flag sent flow s) = relayJoined (relayOf r .waiting) (tookRequest flag sent flow s) := by
      rw [bridgeRead_good good,
        presentRelay_joins (s := tookRequest flag sent flow s) (by exact listed) (by exact sound) (by exact room)]
      unfold relayOf
      rw [if_neg (by rw [can.kind]; decide)]
      rfl
    refine ⟨_, runs, ?_⟩
    rw [goes]
    exact relayJoined_served listed stands can.locked (beside_took same)

/-! #### O35: BRIDGE_RECOVER -/

section
variable {s : State} {high : Bool} {tag kind : Byte}

theorem answerTrain_gone (gone : s.port.waiting = none) : answerTrain high s = s := by
  unfold answerTrain
  rw [gone]

variable (held : s.port.waiting = some (.train tag kind))
include held

theorem answerTrain_room (locked : s.out.locked = true) (room : s.out.queue.length < 16) : answerTrain high s = { s with
    port.waiting := none, out.queue := s.out.queue ++ [recoverReply tag kind high] } := by
  have joins : outQueueHasRoom s = true := decide_eq_true room
  unfold answerTrain
  rw [held]
  dsimp only
  rw [joins]
  refine (if_pos rfl).trans ?_
  unfold joinReply
  exact if_pos (by exact Bool.and_eq_true_iff.mpr ⟨locked, joins⟩)

theorem answerTrain_full (full : 16 ≤ s.out.queue.length) :
    answerTrain high s = { s with port.waiting := some (.due (recoverReply tag kind high)) } := by
  have shut : outQueueHasRoom s = false := decide_eq_false (Nat.not_lt.mpr full)
  unfold answerTrain
  rw [held]
  dsimp only
  rw [shut]
  rfl

end

/-- Settles O35: the train asked for, and its end (endTrain_cases). -/
theorem bridgeRecoverRunsPulseTrain : Obligations.BridgeRecoverRunsPulseTrain := by
  refine ⟨fun s r can empty => ?_, fun s high speed train => ?_⟩
  · obtain ⟨flag, sent, flow, same, runs⟩ := exec_form .bridgeRecover can (congrArg List.length empty)
    refine ⟨_, runs, fun sound => ?_, fun fault idle => ?_, fun fault busy => ?_⟩
    all_goals unfold bridgeRecover
    · rw [if_neg (by exact sound)]
      exact refused_ends can same _ _
    all_goals rw [if_pos (by exact fault)]; unfold askTrain
    · rw [show (tookRequest flag sent flow s).bridge.train = _ from idle]
      have asked : Beside { s with
          port.requests := s.port.requests.tail, port.waiting := some (.train r.tag r.kind),
          bridge.train := some s.params.bridgeSpeed } { tookRequest flag sent flow s with
            port.waiting := some (.train r.tag r.kind), bridge.train := some s.params.bridgeSpeed } := ⟨rfl, same, rfl⟩
      exact asked.ends.endEvent
    · obtain ⟨speed, running⟩ := Option.ne_none_iff_exists'.mp busy
      rw [show (tookRequest flag sent flow s).bridge.train = _ from running]
      have asked : Beside { s with
          port.requests := s.port.requests.tail, port.waiting := some (.train r.tag r.kind),
          bridge.trainsWaiting := s.bridge.trainsWaiting + 1 } { tookRequest flag sent flow s with
            port.waiting := some (.train r.tag r.kind), bridge.trainsWaiting := s.bridge.trainsWaiting + 1 } := ⟨rfl, same, rfl⟩
      exact asked.ends.endEvent
  · have runs : exec (.bridgeRecoverDone high) s = .next (endEvent (endTrain speed high s)) := by
      change execBridgeRecoverDone high s = _
      unfold execBridgeRecoverDone
      rw [train]
    refine ⟨_, runs, ?_⟩
    rcases endTrain_cases speed high s with ⟨left, more, next⟩ | ⟨none, ended⟩
    · rw [next]
      refine ⟨fun k waiting => ?_, fun zero => absurd (more.symm.trans zero) nofun, fun zero => absurd (more.symm.trans zero) nofun⟩
      rw [Nat.succ.inj (more.symm.trans waiting)]
      exact ends_endEvent _
    · rw [ended]
      refine ⟨fun k waiting => absurd (none.symm.trans waiting) nofun, fun _ gone => ?_, fun _ locked tag kind held =>
        ⟨fun room => ?_, fun full => ?_⟩⟩
      · rw [answerTrain_gone (by exact gone)]
        exact ends_endEvent _
      · rw [answerTrain_room (by exact held) (by exact locked) (by exact room)]
        exact ends_endEvent _
      · rw [answerTrain_full (by exact held) (by exact full)]
        exact ends_endEvent _

end Sys2Proof.Machine
end

section
/-! PROOFS. Settles O28, O29, O48 and O49: the FINAL render asked for, what an event adds to the outgoing packets, and the run of the phases from STEP_START to EXPOSE. -/

namespace Sys2Proof.Machine

/-! ### The take ends: FINISHING and the FINAL render (R19, R20) -/

/-! #### The render and the plane, seen beside the lines -/

theorem blind_openRender (kind : RenderKind) : Blind (openRender kind) := fun _ _ _ _ _ => rfl

theorem blind_grantRender : Blind grantRender := fun _ _ _ _ _ => rfl

theorem blind_takeRender (kind : RenderKind) : Blind (takeRender kind) :=
  Blind.ite (c := fun u => u.arb.holder = .none) (fun _ _ _ _ _ => rfl) (blind_grantRender.comp (blind_openRender kind))
    (g := fun u => { openRender kind u with render.state := .pending, arb.waiting := .render }) fun _ _ _ _ _ => rfl

theorem blind_reportAbandoned (kind : State → RenderKind) (same : ∀ flag sent flow lines u, kind (aside flag sent flow lines u) = kind u)
    (reason : AbandonReason) {f : State → State} (blind : Blind f) : Blind fun u => reportAbandoned (kind u) reason (f u) :=
  blind.queueReport .renderAbandoned (p := fun u => [byteOf (kind u).code, byteOf reason.code])
    fun flag sent flow lines u => by rw [same]

theorem Beside.locked {u v : State} (h : Beside u v) : v.out.locked = u.out.locked := by rw [h.form]; rfl

/-- The FINAL request handed over, the lines still as they were (R20, R133, R134). -/
def tookFinal (s : State) : State :=
  if s.out.locked = true then takeRender .final s
  else tookState .complete .none (reportAbandoned .final .linkDown (openRender .final s))

theorem Beside.requestFinal {u v : State} (h : Beside u v) : Beside (tookFinal u) (requestFinal v) := by
  unfold tookFinal Machine.requestFinal
  rw [h.locked]
  split
  · exact (blind_takeRender .final).beside h
  · exact ((blind_reportAbandoned (fun _ => .final) (fun _ _ _ _ _ => rfl) .linkDown (blind_openRender .final)).beside h).enterTake _ _

/-- FINISHING, the FINAL render asked for or held, the lines still as they were (R20). -/
def tookFinishing (s : State) : State :=
  let f := tookState .finishing .none s
  if f.render.state = .idle then tookFinal f else { f with seq.finalHeld := true }

theorem Beside.render {u v : State} (h : Beside u v) : v.render = u.render := by rw [h.form]; rfl

theorem Beside.enterFinishing {u v : State} (h : Beside u v) : Beside (tookFinishing u) (enterFinishing v) := by
  have f := h.enterTake .finishing .none
  have holds : Blind fun w : State => { w with seq.finalHeld := true } := fun _ _ _ _ _ => rfl
  unfold tookFinishing Machine.enterFinishing
  dsimp only
  rw [show (Machine.enterTake .finishing .none v).render.state = _ from congrArg RenderUnit.state f.render]
  split
  · exact f.requestFinal
  · exact holds.beside f

/-! #### A pulse that runs -/

/-- A line whose minimum-pulse timer runs stays as it is (R29). -/
theorem driveLine_pulsing {s : State} {l : LineNo} {x : LineState} (pulsing : x.minTimer ≠ none) : driveLine s l x = x := by
  unfold driveLine
  split
  · exact if_neg fun moves => pulsing moves.1
  · rfl

section
variable {s : State} {l : LineNo} (pulsing : (s.lines.get l).minTimer ≠ none)
include pulsing

theorem pulsing_driveLines : (driveLines s).lines.get l = s.lines.get l :=
  (LineBank.get_map _ _ _).trans (driveLine_pulsing pulsing)

theorem pulsing_enterTake (t : TakeState) (p : Phase) : (enterTake t p s).lines.get l = s.lines.get l := by
  have still : (tookState t p s).lines = s.lines := by rw [(blind_tookState t p).kept s]; rfl
  rw [enterTake_eq, pulsing_driveLines (by rw [still]; exact pulsing), still]

theorem pulsing_requestFinal : (requestFinal s).lines.get l = s.lines.get l := by
  unfold requestFinal
  split
  · rw [(blind_takeRender .final).kept s]
    rfl
  · have still : (reportAbandoned .final .linkDown (openRender .final s)).lines = s.lines := by
      rw [(blind_reportAbandoned (fun _ => .final) (fun _ _ _ _ _ => rfl) .linkDown (blind_openRender .final)).kept s]
      rfl
    rw [pulsing_enterTake (by rw [still]; exact pulsing), still]

theorem pulsing_enterFinishing : (enterFinishing s).lines.get l = s.lines.get l := by
  have entered := pulsing_enterTake pulsing .finishing .none
  unfold enterFinishing
  dsimp only
  split
  · rw [pulsing_requestFinal (by rw [entered]; exact pulsing), entered]
  · exact entered

theorem pulsing_endEvent : (endEvent s).lines.get l = s.lines.get l := by
  rw [lines_endEvent, LineBank.get_map, driveLine_pulsing pulsing]

end

/-- COMPLETE makes READY active, and a line of READY with a minimum pulse starts its pulse (R29, R35). -/
theorem enterComplete_ready {s : State} {l : LineNo} {minPulse : Nat} (use : (lineSetup s l).use = .output .ready minPulse)
    (pulse : 0 < minPulse) (low : (s.lines.get l).driven = false) (free : (s.lines.get l).minTimer = none) :
    (enterComplete s).lines.get l = { s.lines.get l with driven := true, minTimer := some (s.now + minPulse) } := by
  have moved : enterComplete s = driveLines (tookComplete s) := rfl
  have kept : (tookComplete s).tables = s.tables ∧ (tookComplete s).lines = s.lines ∧ (tookComplete s).now = s.now
      ∧ (tookComplete s).seq.takeState = .complete := by
    unfold tookComplete tookState
    rw [queueReport_frame]
    exact ⟨rfl, rfl, rfl, rfl⟩
  obtain ⟨tables, lines, now, take⟩ := kept
  have ready : signalReady (tookComplete s) = true := by
    unfold signalReady
    rw [take]
  rw [moved]
  refine (LineBank.get_map _ _ _).trans ?_
  rw [lines]
  unfold driveLine
  rw [lineSetup_congr tables, use]
  have level : sourceLevel (tookComplete s) (s.lines.get l) .ready = true := ready
  dsimp only
  rw [level, if_pos ⟨free, by rw [low]; exact nofun⟩]
  unfold timerFor
  rw [if_neg (Nat.pos_iff_ne_zero.mp pulse), now]

/-! #### O28: TAKE_FINISH -/

section
variable {s : State}

theorem finishTake_atOnce (take : s.seq.takeState = .running) (phase : s.seq.phase ∈ [Phase.stepStart, .wait]) :
    finishTake s = enterFinishing (enterComplete (cancelWork s)) ∧ finishStatus s = .ok := by
  unfold finishTake finishStatus
  rw [take, (actsAtOnce_iff _).mpr phase]
  exact ⟨rfl, rfl⟩

theorem finishTake_pending (take : s.seq.takeState = .running) (phase : s.seq.phase ∈ [Phase.expose, .hold, .readout, .settle]) :
    finishTake s = { s with seq.stopPending := true, seq.finishPending := true } ∧ finishStatus s = .accepted := by
  unfold finishTake finishStatus
  rw [take, not_actsAtOnce phase]
  exact ⟨rfl, rfl⟩

theorem finishTake_paused (take : s.seq.takeState = .paused) :
    finishTake s = enterFinishing (enterComplete s) ∧ finishStatus s = .ok := by
  unfold finishTake finishStatus
  rw [take]
  exact ⟨rfl, rfl⟩

theorem finishTake_complete (take : s.seq.takeState = .complete) : finishTake s = enterFinishing s ∧ finishStatus s = .ok := by
  unfold finishTake finishStatus
  rw [take]
  exact ⟨rfl, rfl⟩

theorem finishTake_still (take : s.seq.takeState ∉ [TakeState.running, .paused, .complete]) :
    finishTake s = s ∧ finishStatus s = .badState := by
  simp only [List.mem_cons, List.not_mem_nil, or_false, not_or] at take
  unfold finishTake finishStatus
  split
  · exact absurd ‹_› take.1
  · exact absurd ‹_› take.2.1
  · exact absurd ‹_› take.2.2
  · exact ⟨rfl, rfl⟩

/-- Nobody holds the plane of an idle render outside CLEARING, READOUT and SETTLE (R104 to R108). -/
theorem Coherent.plane_free (h : Coherent s) (idle : s.render.state = .idle) (take : s.seq.takeState ≠ .clearing)
    (phase : s.seq.phase ∉ [Phase.readout, .settle]) : s.arb.holder = .none := by
  cases holder : s.arb.holder with
  | none => rfl
  | ingest => exact absurd (h.ingest.mp holder) (by simpa using phase)
  | clearing => exact absurd (h.clearing.mp holder) take
  | render => exact absurd ((h.active.mpr holder).symm.trans idle) nofun

end

/-- A take state in which the step signals are inactive, entered (R1, R16). -/
theorem tookState_off {t : TakeState} (off : t.keepsLevels = false) (p : Phase) (u : State) : tookState t p u =
    queueReport .takeState (byteOf t.code :: byteOf p.code :: byteOf u.seq.step :: bytes2 (subframeIndex u)) { u with
      seq := { u.seq with takeState := t, phase := p, shutter := false, stepLevel := false } } := by
  unfold tookState
  rw [off, Bool.and_false, Bool.and_false]

theorem tookComplete_eq (u : State) : tookComplete u =
    queueReport .takeState (4#8 :: 0#8 :: byteOf u.seq.step :: bytes2 (subframeIndex u)) { u with
      seq := { u.seq with
        takeState := .complete, phase := .none, pausePending := false, stopPending := false, finishPending := false,
        shutter := false, stepLevel := false } } := by
  unfold tookComplete
  rw [tookState_off rfl]
  rfl

/-- COMPLETE leaves the render, the plane, the lane's lock and the position. -/
theorem tookComplete_kept (u : State) : (tookComplete u).render = u.render ∧ (tookComplete u).arb = u.arb
    ∧ (tookComplete u).out.locked = u.out.locked ∧ (tookComplete u).seq.step = u.seq.step ∧ (tookComplete u).log = u.log := by
  rw [tookComplete_eq, queueReport_frame]
  exact ⟨rfl, rfl, rfl, rfl, rfl⟩

/-- FINISHING: the render begins on a free plane, or the request is held (R20, R133). -/
theorem tookFinishing_eq {u s : State} (locked : u.out.locked = true) (render : u.render = s.render) (arb : u.arb = s.arb)
    (step : u.seq.step = s.seq.step) (log : u.log = s.log) (free : s.render.state = .idle → s.arb.holder = .none) :
    tookFinishing u =
      let f := queueReport .takeState (5#8 :: 0#8 :: byteOf s.seq.step :: bytes2 (subframeIndex s)) { u with
        seq := { u.seq with takeState := .finishing, phase := .none, shutter := false, stepLevel := false } }
      if s.render.state = .idle then renderBegun .final f else { f with seq.finalHeld := true } := by
  have payload : byteOf u.seq.step :: bytes2 (subframeIndex u) = byteOf s.seq.step :: bytes2 (subframeIndex s) := by
    unfold subframeIndex
    rw [step, log]
  have f : tookState .finishing .none u
      = queueReport .takeState (5#8 :: 0#8 :: byteOf s.seq.step :: bytes2 (subframeIndex s)) { u with
        seq := { u.seq with takeState := .finishing, phase := .none, shutter := false, stepLevel := false } } := by
    rw [tookState_off rfl, ← payload]
    rfl
  have kept : (tookState .finishing .none u).render = u.render ∧ (tookState .finishing .none u).arb = u.arb
      ∧ (tookState .finishing .none u).out.locked = u.out.locked := by
    rw [f, queueReport_frame]
    exact ⟨rfl, rfl, rfl⟩
  obtain ⟨render', arb', lock⟩ := kept
  unfold tookFinishing
  dsimp only
  rw [show (tookState .finishing .none u).render.state = s.render.state by rw [render', render]]
  by_cases idle : s.render.state = .idle
  · rw [if_pos idle, if_pos idle]
    unfold tookFinal
    rw [if_pos (lock.trans locked), takeRender_free (by rw [arb', arb]; exact free idle), f]
  · rw [if_neg idle, if_neg idle, f]

/-- The READY line at the end of a COMPLETE that goes on to FINISHING (R29, R35; log 14). -/
theorem readyPulse_finishing {u : State} {l : LineNo} {minPulse : Nat} (use : (lineSetup u l).use = .output .ready minPulse)
    (pulse : 0 < minPulse) (low : (u.lines.get l).driven = false) (free : (u.lines.get l).minTimer = none) :
    ((endEvent (enterFinishing (enterComplete u))).lines.get l).driven = true
      ∧ ((endEvent (enterFinishing (enterComplete u))).lines.get l).minTimer = some (u.now + minPulse) := by
  have started := enterComplete_ready use pulse low free
  have pulsing : ((enterComplete u).lines.get l).minTimer ≠ none := by rw [started]; exact nofun
  have finished := pulsing_enterFinishing pulsing
  rw [pulsing_endEvent (by rw [finished]; exact pulsing), finished, started]
  exact ⟨rfl, rfl⟩

/-- Settles O28: by take state and phase; the render begins because a coherent take outside CLEARING, READOUT and SETTLE leaves
the plane free (Coherent.plane_free), and the READY line keeps the pulse that COMPLETE starts (readyPulse_finishing). -/
theorem takeFinishAsksFinalRender : Obligations.TakeFinishAsksFinalRender := by
  intro s r coherent can empty
  obtain ⟨flag, sent, flow, same, runs⟩ := exec_form .takeFinish can (congrArg List.length empty)
  have answered := fun st => beside_answered can st [] (flag := flag) (flow := flow) same
  have seen : ∀ st, (answer r st [] (tookRequest flag sent flow s)).seq = s.seq := fun st => by rw [(answered st).form]; rfl
  have free : s.seq.takeState ≠ .clearing → s.seq.phase ∉ [Phase.readout, .settle] → s.render.state = .idle →
      s.arb.holder = .none := fun take phase idle => coherent.plane_free idle take phase
  have outside : s.seq.takeState ≠ .running → s.seq.phase ∉ [Phase.readout, .settle] := by
    intro take
    rw [coherent.phase.mpr take]
    decide
  refine ⟨_, runs, fun take phase => ?_, fun take => ?_, fun take => ?_, fun take phase => ?_, fun take => ?_⟩
  · have work := blind_cancelWork.beside (answered .ok)
    rw [cancelWork_eq (replied r .ok [] s)] at work
    obtain ⟨-, status⟩ := finishTake_atOnce (s := tookRequest flag sent flow s) take phase
    obtain ⟨goes, -⟩ := finishTake_atOnce (s := answer r .ok [] (tookRequest flag sent flow s)) (by rw [seen]; exact take)
      (by rw [seen]; exact phase)
    unfold takeFinish
    rw [status, goes]
    have away : s.seq.phase ∉ [Phase.readout, .settle] := by
      simp only [List.mem_cons, List.not_mem_nil, or_false] at phase
      rcases phase with phase | phase <;> rw [phase] <;> decide
    have finished := work.enterComplete.enterFinishing
    refine ⟨?_, fun l minPulse use pulse low idle => ?_⟩
    · obtain ⟨render, arb, locked, step, log⟩ := tookComplete_kept { replied r .ok [] s with
        seq := { (replied r .ok [] s).seq with settleTimer := none, gapTimer := none, scriptLeft := [] },
        bridge.waitingScript := none, bridge.inFlight := s.bridge.inFlight.map InFlight.unawaited }
      have eq := tookFinishing_eq (s := s) (locked.trans can.locked) render arb step log
        (free (by rw [take]; exact nofun) away)
      rw [tookComplete_eq] at eq
      rw [tookComplete_eq] at finished
      exact (eq ▸ finished.ends).endEvent
    · obtain ⟨lines, tables, now⟩ : (cancelWork (answer r .ok [] (tookRequest flag sent flow s))).lines = s.lines
          ∧ (cancelWork (answer r .ok [] (tookRequest flag sent flow s))).tables = s.tables
          ∧ (cancelWork (answer r .ok [] (tookRequest flag sent flow s))).now = s.now := by
        rw [answer_took can]
        exact ⟨rfl, rfl, rfl⟩
      have ready := readyPulse_finishing (u := cancelWork (answer r .ok [] (tookRequest flag sent flow s))) (l := l)
        (by rw [lineSetup_congr tables]; exact use) pulse (by rw [lines]; exact low) (by rw [lines]; exact idle)
      rw [now] at ready
      exact ready
  · obtain ⟨-, status⟩ := finishTake_paused (s := tookRequest flag sent flow s) take
    obtain ⟨goes, -⟩ := finishTake_paused (s := answer r .ok [] (tookRequest flag sent flow s)) (by rw [seen]; exact take)
    unfold takeFinish
    rw [status, goes]
    have finished := (answered .ok).enterComplete.enterFinishing
    obtain ⟨render, arb, locked, step, log⟩ := tookComplete_kept (replied r .ok [] s)
    have eq := tookFinishing_eq (s := s) (locked.trans can.locked) render arb step log
      (free (by rw [take]; exact nofun) (outside (by rw [take]; exact nofun)))
    rw [tookComplete_eq] at eq
    rw [tookComplete_eq] at finished
    exact (eq ▸ finished.ends).endEvent
  · obtain ⟨-, status⟩ := finishTake_complete (s := tookRequest flag sent flow s) take
    obtain ⟨goes, -⟩ := finishTake_complete (s := answer r .ok [] (tookRequest flag sent flow s)) (by rw [seen]; exact take)
    unfold takeFinish
    rw [status, goes]
    have finished := (answered .ok).enterFinishing
    have eq := tookFinishing_eq (u := replied r .ok [] s) (s := s) can.locked rfl rfl rfl rfl
      (free (by rw [take]; exact nofun) (outside (by rw [take]; exact nofun)))
    exact (eq ▸ finished.ends).endEvent
  · have pends : Blind fun u : State => { u with seq.stopPending := true, seq.finishPending := true } := fun _ _ _ _ _ => rfl
    obtain ⟨-, status⟩ := finishTake_pending (s := tookRequest flag sent flow s) take phase
    obtain ⟨goes, -⟩ := finishTake_pending (s := answer r .accepted [] (tookRequest flag sent flow s)) (by rw [seen]; exact take)
      (by rw [seen]; exact phase)
    unfold takeFinish
    rw [status, goes]
    exact (pends.beside (answered .accepted)).ends.endEvent
  · obtain ⟨-, status⟩ := finishTake_still (s := tookRequest flag sent flow s) take
    obtain ⟨goes, -⟩ := finishTake_still (s := answer r .badState [] (tookRequest flag sent flow s)) (by rw [seen]; exact take)
    unfold takeFinish
    rw [status, goes]
    exact (answered .badState).ends.endEvent

/-! ### What an event adds to the outgoing packets -/

/-- Every reply and report queued before stays queued before, and what is new comes behind (R163). -/
def Tells (s t : State) : Prop := queuedTraffic s <+: queuedTraffic t

theorem Tells.refl (s : State) : Tells s s := List.prefix_rfl

theorem Tells.trans {s t u : State} (h : Tells s t) (h' : Tells t u) : Tells s u := List.IsPrefix.trans h h'

theorem Tells.of_eq {s t : State} (h : queuedTraffic t = queuedTraffic s) : Tells s t := by
  unfold Tells
  rw [h]

/-- The last part first, from which the state between is read. -/
theorem Tells.after {s t u : State} (h : Tells t u) (same : queuedTraffic t = queuedTraffic s) : Tells s u :=
  (Tells.of_eq same).trans h

theorem Ends.tells {s t : State} (h : Ends s t) : Tells s t := .of_eq h.queued

/-- The lane is as it was, and the queue has grown. -/
theorem Tells.of_queue {s t : State} (sent : t.out.sent = s.out.sent) (progress : t.out.inProgress = s.out.inProgress)
    (queue : s.out.queue <+: t.out.queue) : Tells s t := by
  unfold Tells queuedTraffic begunPackets
  rw [sent, progress]
  exact (List.prefix_append_right_inj _).mpr queue

theorem tells_queueReport (k : ReportKind) (p : List Byte) (s : State) : Tells s (queueReport k p s) := by
  have grown : s.out.queue <+: (queueReport k p s).out.queue := by
    unfold queueReport formReport
    split
    · split
      · exact List.prefix_append _ _
      · exact List.prefix_rfl
    · exact List.prefix_rfl
  rw [queueReport_frame] at grown ⊢
  exact .of_queue rfl rfl grown

theorem tells_reportClaimEnd (t : Transaction) (o : BusOutcome) (s : State) : Tells s (reportClaimEnd t o s) := by
  unfold reportClaimEnd reportScriptEnd
  split
  · split
    · exact .refl s
    · exact tells_queueReport _ _ s
  · exact .refl s

theorem tells_handScripts (indices : List Nat) : ∀ s : State, Tells s (handScripts indices s) := by
  induction indices with
  | nil => intro s; exact .refl s
  | cons index rest ih =>
    intro s
    have told : ∀ code, Tells s (handScripts rest (reportScript s.seq.step index code 0 s)) := fun code =>
      (tells_queueReport _ _ s).trans (ih _)
    unfold handScripts
    split
    · exact told _
    · split
      · exact told _
      · split
        · exact told _
        · exact .refl s

theorem tells_failWaiting (s : State) : Tells s (failWaiting s) := by
  have told : ∀ u v : State, Tells s u → u.out = v.out → Tells s (handScripts u.seq.scriptLeft v) := by
    intro u v h same
    refine h.trans (Tells.trans (.of_eq ?_) (tells_handScripts _ v))
    unfold queuedTraffic begunPackets
    rw [same]
  unfold failWaiting
  dsimp only
  split
  · exact told _ _ ((Tells.of_eq rfl).trans (tells_reportClaimEnd _ _ { s with bridge.waitingPoll := none, bridge.waitingScript := none })) rfl
  · exact told _ _ (.of_eq rfl) rfl

theorem tells_startTransaction (t : Transaction) (s : State) : Tells s (startTransaction t s) := by
  unfold startTransaction
  dsimp only
  split
  · exact .of_eq rfl
  · exact .of_eq rfl
  · unfold enterFault
    exact ((Tells.of_eq rfl).trans (tells_reportClaimEnd t .busStuck { sendRun (recoveryRun s.params.bridgeSpeed)
      { s with freeSeq := s.freeSeq + 1 } with bridge.state := .fault, bridge.inFlight := none })).trans
      ((tells_queueReport _ _ _).trans (tells_failWaiting _))

theorem tells_selectClaim (fuel : Nat) : ∀ s : State, Tells s (selectClaim fuel s) := by
  induction fuel with
  | zero => intro s; exact .refl s
  | succ fuel ih =>
    intro s
    unfold selectClaim
    split
    · exact .refl s
    split
    · dsimp only
      split
      · exact (Tells.of_eq rfl).trans (tells_startTransaction _ { s with bridge.waitingPoll := none })
      · exact (Tells.of_eq rfl).trans (ih { s with bridge.waitingPoll := none })
    split
    · exact .refl s
    split
    · dsimp only
      split
      · exact (Tells.of_eq rfl).trans (tells_startTransaction _ { s with bridge.waitingScript := none })
      · exact ((Tells.of_eq rfl).trans (tells_reportClaimEnd _ .blocked { s with bridge.waitingScript := none })).trans
          ((tells_handScripts _ _).trans (ih _))
    · split
      · exact .refl s
      · split
        · exact (tells_startTransaction _ s).trans (.of_eq rfl)
        · exact (Tells.of_eq rfl).trans (ih (endRelay Relay.isWaiting .blocked [] s))

theorem tells_arbitrate (s : State) : Tells s (arbitrate s) := tells_selectClaim _ s

theorem tells_claimPoll (s : State) : Tells s (claimPoll s) := by
  unfold claimPoll
  dsimp only
  split
  · exact .of_eq rfl
  · split
    · exact .of_eq rfl
    · exact (Tells.of_eq rfl).trans (tells_arbitrate { s with seq.pollAt := none, bridge.waitingPoll := some (pollTransaction s) })

theorem tells_enterExpose (s : State) : Tells s (enterExpose s) := by
  unfold enterExpose
  split
  · exact .refl s
  · unfold schedulePoll
    split
    · exact .of_eq rfl
    · split
      · exact (tells_claimPoll _).after rfl
      · exact .of_eq rfl

theorem tells_enterWait (s : State) : Tells s (enterWait s) := by
  unfold enterWait
  split
  · exact .refl s
  · split
    · exact .of_eq rfl
    · split
      · exact (Tells.of_eq rfl).trans (tells_enterExpose { s with seq.phase := .wait, seq.gapTimer := none })
      · exact .of_eq rfl

theorem tells_tryEndStepStart (s : State) : Tells s (tryEndStepStart s) := by
  unfold tryEndStepStart
  split
  · exact tells_enterWait s
  · exact .refl s

theorem tells_enterStepStart (settles : Bool) (s : State) : Tells s (enterStepStart settles s) := by
  unfold enterStepStart
  split
  · exact .refl s
  · exact ((tells_handScripts _ _).trans ((tells_arbitrate _).trans (tells_tryEndStepStart _))).after rfl

theorem tells_enterTake (t : TakeState) (p : Phase) (s : State) : Tells s (enterTake t p s) := by
  have told : Tells s (tookState t p s) := (tells_queueReport _ _ _).after rfl
  rw [enterTake_eq]
  exact told.trans (.of_eq (queuedTraffic_driveLines _))

/-! ### The run of the phases, whatever stands beside it -/

/-- All that the bus and the phases from STEP_START to EXPOSE read and write, the open record and the Measurement Timer aside. -/
def runView (s : State) : State :=
  { busView s with
    seq := { Sequencer.reset with
      step := s.seq.step, phase := s.seq.phase, scriptLeft := s.seq.scriptLeft, gapTimer := s.seq.gapTimer,
      exposureTimer := s.seq.exposureTimer, exposureNumber := s.seq.exposureNumber, exposeStart := s.seq.exposeStart,
      pollAt := s.seq.pollAt, pollDone := s.seq.pollDone },
    out := { OutputScheduler.reset with
      locked := s.out.locked, queue := s.out.queue, sent := s.out.sent, inProgress := s.out.inProgress },
    now := s.now }

/-- Two states in which the run stands the same. -/
def RunAlike (u v : State) : Prop := runView v = runView u

theorem RunAlike.trans {u v w : State} (h : RunAlike u v) (h' : RunAlike v w) : RunAlike u w := Eq.trans h' h

theorem RunAlike.of_eq {u v : State} (h : runView v = runView u) : RunAlike u v := h

section
variable {u v : State} (h : RunAlike u v)
include h

theorem RunAlike.busView : busView v = busView u :=
  congrArg (a₁ := runView v) (a₂ := runView u) Machine.busView h

theorem RunAlike.reads : v.seq.phase = u.seq.phase ∧ v.tables = u.tables ∧ v.params = u.params ∧ v.now = u.now
    ∧ v.seq.step = u.seq.step ∧ v.bridge = u.bridge ∧ v.seq.scriptLeft = u.seq.scriptLeft ∧ v.seq.exposureNumber = u.seq.exposureNumber :=
  have e := fun {α : Type} (f : State → α) => congrArg (a₁ := runView v) (a₂ := runView u) f h
  ⟨e (·.seq.phase), e (·.tables), e (·.params), e (·.now), e (·.seq.step), e (·.bridge), e (·.seq.scriptLeft), e (·.seq.exposureNumber)⟩

/-- An operation of the bus leaves them alike. -/
theorem RunAlike.bus {op : State → State} (form : ∀ s, op s = { s with
    bridge := (op (Machine.busView s)).bridge, seq.scriptLeft := (op (Machine.busView s)).seq.scriptLeft,
    out.queue := (op (Machine.busView s)).out.queue, port.lostReports := (op (Machine.busView s)).port.lostReports,
    freeSeq := (op (Machine.busView s)).freeSeq }) : RunAlike (op u) (op v) := by
  rw [form u, form v, h.busView]
  exact congrArg (a₁ := runView v) (a₂ := runView u) (fun w : State => { w with
    bridge := (op (Machine.busView u)).bridge, seq.scriptLeft := (op (Machine.busView u)).seq.scriptLeft,
    out.queue := (op (Machine.busView u)).out.queue, port.lostReports := (op (Machine.busView u)).port.lostReports,
    freeSeq := (op (Machine.busView u)).freeSeq }) h

theorem RunAlike.arbitrate : RunAlike (arbitrate u) (arbitrate v) := h.bus arbitrate_form

end

/-- An operation that leaves what the bus does not touch, and does the same to the bus's view. -/
theorem form_of_view {op : State → State} (rest : ∀ s, busRest (op s) = busRest s) (view : ∀ s, busView (op s) = op (busView s))
    (s : State) : op s = { s with
      bridge := (op (busView s)).bridge, seq.scriptLeft := (op (busView s)).seq.scriptLeft,
      out.queue := (op (busView s)).out.queue, port.lostReports := (op (busView s)).port.lostReports,
      freeSeq := (op (busView s)).freeSeq } := by
  rw [← view]
  have put := congrArg (fun w : State => { w with
    bridge := (op s).bridge, seq.scriptLeft := (op s).seq.scriptLeft, out.queue := (op s).out.queue,
    port.lostReports := (op s).port.lostReports, freeSeq := (op s).freeSeq }) (rest s)
  exact put

section
variable {u v : State} (h : RunAlike u v)
include h

theorem RunAlike.queueReport (k : ReportKind) (p : List Byte) : RunAlike (queueReport k p u) (queueReport k p v) :=
  h.bus (form_of_view (busRest_queueReport k p) (busView_queueReport k p))

theorem RunAlike.scriptsPresented (indices : List Nat) : RunAlike (scriptsPresented indices u) (scriptsPresented indices v) :=
  h.bus (form_of_view (fun s => by rw [← handScripts_eq]; exact busRest_handScripts indices s) (busView_scriptsPresented indices))

theorem RunAlike.claimPoll : RunAlike (claimPoll u) (claimPoll v) := by
  obtain ⟨-, tables, params, -, -, bridge, -, number⟩ := h.reads
  have poll : pollTransaction v = pollTransaction u := by unfold pollTransaction; rw [params, number]
  have refused : (v.params.pollDevice ∉ v.tables.bridgeAllow.seen ∨ v.bridge.state = .fault)
      ↔ (u.params.pollDevice ∉ u.tables.bridgeAllow.seen ∨ u.bridge.state = .fault) := by rw [tables, params, bridge]
  by_cases r : u.params.pollDevice ∉ u.tables.bridgeAllow.seen ∨ u.bridge.state = .fault
  · rw [claimPoll_refused r, claimPoll_refused (refused.mpr r)]
    exact congrArg (a₁ := runView v) (a₂ := runView u) (fun w : State => { w with seq.pollAt := none, bridge.waitingPoll := none }) h
  · have r' := mt refused.mp r
    obtain ⟨listed, sound⟩ := not_or.mp r
    obtain ⟨listed', sound'⟩ := not_or.mp r'
    rw [claimPoll_waits (not_not.mp listed) sound, claimPoll_waits (not_not.mp listed') sound', poll]
    have claims : RunAlike { u with seq.pollAt := none, bridge.waitingPoll := some (pollTransaction u) }
        { v with seq.pollAt := none, bridge.waitingPoll := some (pollTransaction u) } := by
      exact congrArg (a₁ := runView v) (a₂ := runView u) (fun w : State => { w with
        seq.pollAt := none, bridge.waitingPoll := some (pollTransaction u) }) h
    exact claims.arbitrate

theorem RunAlike.schedulePoll (exposure : Nat) : RunAlike (schedulePoll exposure u) (schedulePoll exposure v) := by
  obtain ⟨-, -, params, now, -⟩ := h.reads
  unfold Machine.schedulePoll
  rw [params, now]
  split
  · exact congrArg (a₁ := runView v) (a₂ := runView u) (fun w : State => { w with
      seq.pollAt := none, now := u.now, params := u.params }) h
  · split
    · exact h.claimPoll
    · exact congrArg (a₁ := runView v) (a₂ := runView u) (fun w : State => { w with
        seq.pollAt := some (u.now + (exposure - u.params.pollLead * 1000)), now := u.now, params := u.params }) h

theorem RunAlike.currentStep : currentStep v = currentStep u := by
  obtain ⟨-, tables, -, -, step, -⟩ := h.reads
  unfold Machine.currentStep
  rw [tables, step]

theorem RunAlike.enterExpose : RunAlike (enterExpose u) (enterExpose v) := by
  obtain ⟨-, tables, params, now, step, bridge, -, number⟩ := h.reads
  unfold Machine.enterExpose
  rw [h.currentStep]
  split
  · exact h
  · rename_i st _
    refine RunAlike.schedulePoll ?_ st.exposure
    rw [now, number]
    exact congrArg (a₁ := runView v) (a₂ := runView u) (fun w : State => { w with
      seq := { w.seq with
        phase := .expose, gapTimer := none, exposureTimer := some (u.now + st.exposure),
        exposureNumber := u.seq.exposureNumber + 1, exposeStart := u.now, pollDone := false },
      now := u.now }) h

theorem RunAlike.enterWait : RunAlike (enterWait u) (enterWait v) := by
  obtain ⟨-, -, -, now, -⟩ := h.reads
  unfold Machine.enterWait
  rw [h.currentStep, now]
  split
  · exact h
  · rename_i st _
    split
    · exact congrArg (a₁ := runView v) (a₂ := runView u) (fun w : State => { w with
        seq := { w.seq with phase := .wait, gapTimer := none }, now := u.now }) h
    · split
      · refine RunAlike.enterExpose ?_
        exact congrArg (a₁ := runView v) (a₂ := runView u) (fun w : State => { w with
        seq := { w.seq with phase := .wait, gapTimer := none }, now := u.now }) h
      · exact congrArg (a₁ := runView v) (a₂ := runView u) (fun w : State => { w with
          seq := { w.seq with phase := .wait, gapTimer := some (u.now + st.gap) }, now := u.now }) h

theorem RunAlike.queuedTraffic : queuedTraffic v = queuedTraffic u :=
  congrArg (a₁ := runView v) (a₂ := runView u) Machine.queuedTraffic h

theorem RunAlike.scriptsEnded : scriptsEnded v = scriptsEnded u :=
  congrArg (a₁ := runView v) (a₂ := runView u) Machine.scriptsEnded h

/-- What stands alike stands the same at the end of the event. -/
theorem RunAlike.sameRun {t : State} (ends : Ends v t) : SameRun u t := by
  obtain ⟨bridge, indices, queued, lost⟩ := ends.sameBus
  obtain ⟨seq, -⟩ := fields_of_stillPart ends.still
  have e := fun {α : Type} (f : State → α) => congrArg (a₁ := runView v) (a₂ := runView u) f h
  exact ⟨⟨bridge.trans (e (·.bridge)), indices.trans (e (·.seq.scriptLeft)), queued.trans h.queuedTraffic,
      lost.trans (e (·.port.lostReports))⟩,
    (congrArg Sequencer.phase seq).trans (e (·.seq.phase)), (congrArg Sequencer.gapTimer seq).trans (e (·.seq.gapTimer)),
    (congrArg Sequencer.exposureTimer seq).trans (e (·.seq.exposureTimer)),
    ⟨(congrArg Sequencer.exposureNumber seq).trans (e (·.seq.exposureNumber)),
      (congrArg Sequencer.exposeStart seq).trans (e (·.seq.exposeStart))⟩,
    ⟨(congrArg Sequencer.pollAt seq).trans (e (·.seq.pollAt)), (congrArg Sequencer.pollDone seq).trans (e (·.seq.pollDone))⟩⟩

end

/-! ### What the phases leave -/

theorem claimPoll_rest (s : State) : busRest (claimPoll s) = busRest { s with seq.pollAt := none } := by
  unfold claimPoll
  dsimp only
  split
  · rfl
  · split
    · rfl
    · rw [busRest_arbitrate]
      rfl

/-- A poll's claim leaves one state. -/
theorem pollClaimed_iff {s v : State} : PollClaimed s v ↔ v = claimPoll s := by
  refine ⟨fun claimed => ?_, fun same => by rw [same]; exact pollClaimed_claimPoll s⟩
  have mine := pollClaimed_claimPoll s
  unfold PollClaimed at claimed mine
  dsimp only at claimed mine
  by_cases refused : s.params.pollDevice ∉ s.tables.bridgeAllow.seen ∨ s.bridge.state = .fault
  · rw [if_pos refused] at claimed mine
    rw [claimed, mine]
  · rw [if_neg refused] at claimed mine
    rw [busServed_iff.mp claimed, busServed_iff.mp mine]

/-- What the bus leaves of the Sequencer and around it. -/
theorem reads_of_busRest {s t : State} (h : busRest t = busRest s) :
    t.seq.phase = s.seq.phase ∧ t.tables = s.tables ∧ t.seq.step = s.seq.step ∧ t.log = s.log ∧ t.meas = s.meas
      ∧ t.seq.gapTimer = s.seq.gapTimer ∧ t.seq.exposureTimer = s.seq.exposureTimer ∧ t.seq.pollAt = s.seq.pollAt
      ∧ t.seq.takeState = s.seq.takeState := by
  have e := fun {α : Type} (f : State → α) => congrArg (a₁ := busRest t) (a₂ := busRest s) f h
  exact ⟨e (·.seq.phase), e (·.tables), e (·.seq.step), e (·.log), e (·.meas), e (·.seq.gapTimer), e (·.seq.exposureTimer),
    e (·.seq.pollAt), e (·.seq.takeState)⟩

/-- An exposure entered: its record, its timer, the Measurement Timer; the poll moves only the bus and its own time (R9, R24, R37). -/
theorem enterExpose_rest {s : State} {st : PlanStep} (here : s.tables.plan.seen[s.seq.step]? = some st) :
    ∃ pollAt, busRest (enterExpose s) = busRest { exposing st s with seq.pollAt := pollAt }
      ∧ (¬ pollLater st s → pollAt = none) := by
  obtain ⟨later, soon⟩ := exposeEntered_enterExpose here
  by_cases h : pollLater st s
  · exact ⟨(exposing st s).seq.pollAt, by rw [later h], fun no => absurd h no⟩
  · refine ⟨none, ?_, fun _ => rfl⟩
    have claimed := soon h
    rw [pollClaimed_iff.mp claimed, claimPoll_rest]

/-- WAIT of an INTERNAL step with a gap of 0 is EXPOSE (R8). -/
theorem enterWait_exposes {s : State} {st : PlanStep} (here : s.tables.plan.seen[s.seq.step]? = some st)
    (cadence : st.cadence = .internal) (gap : st.gap = 0) :
    enterWait s = enterExpose { s with seq.phase := .wait, seq.gapTimer := none } := by
  have step : currentStep s = some st := here
  unfold enterWait
  rw [step]
  dsimp only
  rw [cadence]
  exact if_pos gap

/-- The phase and the gap timer that EXPOSE finds do not matter to it. -/
theorem enterExpose_from {s : State} {st : PlanStep} (here : s.tables.plan.seen[s.seq.step]? = some st) (phase : Phase) (gap : Option Nat) :
    enterExpose { s with seq.phase := phase, seq.gapTimer := gap } = enterExpose s := by
  have step : currentStep s = some st := here
  have step' : currentStep { s with seq.phase := phase, seq.gapTimer := gap } = some st := here
  unfold enterExpose
  rw [step, step']

/-- A step left for WAIT is in WAIT or EXPOSE. -/
theorem phase_enterWait {s : State} {st : PlanStep} (here : s.tables.plan.seen[s.seq.step]? = some st) :
    (enterWait s).seq.phase ≠ .stepStart := by
  obtain ⟨external, gapped, -⟩ := waitEntered_cases here
  cases cadence : st.cadence with
  | external => rw [external cadence]; exact nofun
  | internal =>
    by_cases gap : st.gap = 0
    · rw [enterWait_exposes here cadence gap]
      obtain ⟨pollAt, rest, -⟩ := enterExpose_rest (s := { s with seq.phase := .wait, seq.gapTimer := none }) here
      obtain ⟨phase, -⟩ := reads_of_busRest rest
      rw [phase]
      exact nofun
    · rw [gapped cadence (Nat.pos_of_ne_zero gap)]
      exact nofun

/-! ### STEP_START entered (R7, R157) -/

/-- The step's levels set and its settle timer started, the scripts still to be handed over. -/
def stepBegun (st : PlanStep) (settles : Bool) (s : State) : State :=
  { s with
    seq := { s.seq with
      phase := .stepStart, notStarted := false, shutter := decide (st.kind = .dark), stepLevel := st.stepLevel,
      settleTimer := if settles then timerFor s (s.params.shutterSettle * 1000) else none } }

theorem enterStepStart_eq {s : State} {st : PlanStep} (here : s.tables.plan.seen[s.seq.step]? = some st) (settles : Bool) :
    enterStepStart settles s = tryEndStepStart (arbitrate (scriptsPresented (List.range' st.scriptFirst st.scriptCount)
      (stepBegun st settles s))) := by
  have step : currentStep s = some st := here
  unfold enterStepStart
  rw [step]
  dsimp only
  rw [handScripts_eq]
  rfl

/-- STEP_START entered and the event ended, seen from any state in which the run stands the same. -/
theorem stepScripted_of {s w t : State} {st : PlanStep} {settles : Bool} (here : s.tables.plan.seen[s.seq.step]? = some st)
    (alike : RunAlike { w with seq.phase := .stepStart } (stepBegun st settles s))
    (ends : Ends (enterStepStart settles s) t) :
    StepScripted st w (arbitrate (scriptsPresented (List.range' st.scriptFirst st.scriptCount) { w with seq.phase := .stepStart })) t := by
  have u := (alike.scriptsPresented (List.range' st.scriptFirst st.scriptCount)).arbitrate
  have begun : (arbitrate (scriptsPresented (List.range' st.scriptFirst st.scriptCount) (stepBegun st settles s))).seq.phase = .stepStart
      ∧ (arbitrate (scriptsPresented (List.range' st.scriptFirst st.scriptCount) (stepBegun st settles s))).tables = s.tables
      ∧ (arbitrate (scriptsPresented (List.range' st.scriptFirst st.scriptCount) (stepBegun st settles s))).seq.step = s.seq.step := by
    have rest : busRest (arbitrate (scriptsPresented (List.range' st.scriptFirst st.scriptCount) (stepBegun st settles s)))
        = busRest (stepBegun st settles s) := by
      rw [busRest_arbitrate, ← handScripts_eq, busRest_handScripts]
    obtain ⟨phase, tables, step, -⟩ := reads_of_busRest rest
    exact ⟨phase, tables, step⟩
  rw [enterStepStart_eq here] at ends
  generalize arbitrate (scriptsPresented (List.range' st.scriptFirst st.scriptCount) (stepBegun st settles s)) = actual at u begun ends
  generalize seen : arbitrate (scriptsPresented (List.range' st.scriptFirst st.scriptCount) { w with seq.phase := .stepStart }) = v at u
  obtain ⟨phase, tables, step⟩ := begun
  have at_ : actual.tables.plan.seen[actual.seq.step]? = some st := by rw [tables, step]; exact here
  have at_v : v.tables.plan.seen[v.seq.step]? = some st := by
    obtain ⟨-, tables', -, -, step', -⟩ := u.reads
    rw [← tables', ← step']
    exact at_
  obtain ⟨seq, -⟩ := fields_of_stillPart ends.still
  have phaseT : t.seq.phase = (tryEndStepStart actual).seq.phase := congrArg Sequencer.phase seq
  have stood : t.seq.phase = .stepStart → tryEndStepStart actual = actual := by
    intro stands
    by_cases goes : actual.seq.phase = .stepStart ∧ actual.seq.settleTimer = none ∧ scriptsEnded actual = true
    · have left : tryEndStepStart actual = enterWait actual := if_pos goes
      rw [left] at phaseT
      exact absurd (phaseT.symm.trans stands) (phase_enterWait at_)
    · exact if_neg goes
  refine ⟨busServed_iff.mpr seen.symm, fun runs => ?_, fun stands => ?_, fun gone => ?_, ?_⟩
  · rw [phaseT, tryEndStepStart_stays (.inr (.inr (u.scriptsEnded.trans runs)))]
    exact phase
  · rw [stood stands] at ends
    exact (u.sameRun ends).bus
  · have left : tryEndStepStart actual = enterWait actual := by
      by_cases goes : actual.seq.phase = .stepStart ∧ actual.seq.settleTimer = none ∧ scriptsEnded actual = true
      · exact if_pos goes
      · have stays : tryEndStepStart actual = actual := if_neg goes
        rw [stays] at phaseT
        exact absurd (phaseT.trans phase) gone
    rw [left] at ends
    exact ⟨_, waitEntered_enterWait at_v, u.enterWait.sameRun ends⟩
  · rw [← u.queuedTraffic]
    exact (tells_tryEndStepStart actual).trans ends.tells

/-! #### O49: the settle and gap timers -/

/-- What an entry to WAIT leaves at the end of its event, by the cadence of the step (R8, R9). -/
def Waiting (st : PlanStep) (now number step : Nat) (t : State) : Prop :=
  (st.cadence = .external → t.seq.phase = .wait ∧ t.seq.gapTimer = none ∧ signalReady t = true)
    ∧ (st.cadence = .internal → 0 < st.gap →
      t.seq.phase = .wait ∧ t.seq.gapTimer = some (now + st.gap) ∧ signalReady t = false)
    ∧ (st.cadence = .internal → st.gap = 0 → t.seq.phase = .expose ∧ t.seq.exposureTimer = some (now + st.exposure)
      ∧ t.log.openRecord = some (SubframeRecord.opening number step st))

theorem signalReady_wait {t : State} {st : PlanStep} (take : t.seq.takeState = .running) (phase : t.seq.phase = .wait)
    (here : t.tables.plan.seen[t.seq.step]? = some st) : signalReady t = decide (st.cadence = .external) := by
  have step : currentStep t = some st := here
  unfold signalReady awaitsTrigger
  rw [take]
  dsimp only
  rw [phase, step]

theorem exposed_facts {s : State} {st : PlanStep} (here : s.tables.plan.seen[s.seq.step]? = some st) :
    (enterExpose s).seq.phase = .expose ∧ (enterExpose s).seq.exposureTimer = some (s.now + st.exposure)
      ∧ (enterExpose s).log = (exposing st s).log ∧ (enterExpose s).meas = (exposing st s).meas
      ∧ (enterExpose s).seq.takeState = s.seq.takeState ∧ (¬ pollLater st s → (enterExpose s).seq.pollAt = none) := by
  obtain ⟨pollAt, rest, soon⟩ := enterExpose_rest here
  obtain ⟨phase, -, -, log, meas, -, timer, poll, take⟩ := reads_of_busRest rest
  exact ⟨phase, timer, log, meas, take, fun now => poll.trans (soon now)⟩

theorem waiting_of_enterWait {u t : State} {st : PlanStep} (here : u.tables.plan.seen[u.seq.step]? = some st)
    (take : u.seq.takeState = .running) (ends : Ends (enterWait u) t) :
    Waiting st u.now (u.log.closed.length + 1) u.seq.step t ∧ t.seq.takeState = .running := by
  obtain ⟨seq, log, -, -, -, -, -, -, -, -, -, tables, -⟩ := fields_of_stillPart ends.still
  obtain ⟨external, gapped, -⟩ := waitEntered_cases here
  have ready : t.seq.takeState = .running → t.seq.phase = .wait → t.tables = u.tables → t.seq.step = u.seq.step →
      signalReady t = decide (st.cadence = .external) := fun run phase same step =>
    signalReady_wait run phase (by rw [same, step]; exact here)
  cases cadence : st.cadence with
  | external =>
    rw [external cadence] at seq tables
    have level := ready (by rw [seq]; exact take) (by rw [seq]) tables (by rw [seq])
    rw [cadence] at level
    exact ⟨⟨fun _ => ⟨by rw [seq], by rw [seq], level⟩, fun other => absurd (cadence.symm.trans other) nofun,
      fun other => absurd (cadence.symm.trans other) nofun⟩, by rw [seq]; exact take⟩
  | internal =>
    by_cases gap : st.gap = 0
    · rw [enterWait_exposes here cadence gap] at seq log
      obtain ⟨phase, timer, record, -, still, -⟩ := exposed_facts (s := { u with seq.phase := .wait, seq.gapTimer := none }) here
      refine ⟨⟨fun other => absurd (cadence.symm.trans other) nofun, fun _ some => absurd gap (Nat.pos_iff_ne_zero.mp some),
        fun _ _ => ⟨by rw [seq]; exact phase, by rw [seq]; exact timer, ?_⟩⟩, by rw [seq]; exact still.trans take⟩
      rw [log, record]
      rfl
    · rw [gapped cadence (Nat.pos_of_ne_zero gap)] at seq tables
      have level := ready (by rw [seq]; exact take) (by rw [seq]) tables (by rw [seq])
      rw [cadence] at level
      exact ⟨⟨fun other => absurd (cadence.symm.trans other) nofun, fun _ _ => ⟨by rw [seq], by rw [seq], level⟩,
        fun _ zero => absurd zero gap⟩, by rw [seq]; exact take⟩

/-- Settles O49: the settle timer ends STEP_START where every script entry has ended (tryEndStepStart_ends), and the gap timer
ends WAIT (exposeEntered_enterExpose). -/
theorem settleAndGapTimersLeadToExposure : Obligations.SettleAndGapTimersLeadToExposure := by
  intro s d st here late
  refine ⟨fun due start => ?_, fun due => ?_⟩
  · have runs : exec .shutterSettleExpiry s = .next (endEvent (tryEndStepStart { late with seq.settleTimer := none })) := by
      change execShutterSettleExpiry s = _
      unfold execShutterSettleExpiry
      rw [due]
      rfl
    have here' : ({ late with seq.settleTimer := none } : State).tables.plan.seen[({ late with seq.settleTimer := none } : State).seq.step]?
        = some st := here
    obtain ⟨external, gapped, exposes⟩ := waitEntered_cases here'
    refine ⟨fun waits => ?_, fun ended => ?_⟩
    · rw [runs, tryEndStepStart_stays (s := { late with seq.settleTimer := none }) (.inr (.inr waits))]
    · have left : exec .shutterSettleExpiry s = .next (endEvent (enterWait { late with seq.settleTimer := none })) := by
        rw [runs, tryEndStepStart_ends (s := { late with seq.settleTimer := none }) start rfl ended]
      refine ⟨⟨_, _, left, waitEntered_enterWait here', ends_endEvent _⟩, fun cadence => ⟨_, left, ?_, fun take => ?_⟩,
        fun cadence gap => ?_, fun cadence gap later => ?_⟩
      · rw [external cadence]
        exact ends_endEvent _
      · obtain ⟨⟨ready, -⟩, -⟩ := waiting_of_enterWait here' take (ends_endEvent _)
        exact (ready cadence).2.2
      · rw [left, gapped cadence gap]
      · rw [left, (exposes cadence gap).1 later]
  · have runs : exec .gapTimerExpiry s = .next (endEvent (enterExpose late)) := by
      change execGapTimerExpiry s = _
      unfold execGapTimerExpiry
      rw [due, ← enterExpose_from (s := late) here late.seq.phase none]
      rfl
    have entered := exposeEntered_enterExpose (s := late) here
    refine ⟨⟨_, _, runs, entered, ends_endEvent _⟩, fun later => ?_, fun soon => ⟨_, runs, ?_⟩⟩
    · rw [runs, entered.1 later]
    · obtain ⟨seq, log, meas, -⟩ := endEvent_fields (enterExpose late)
      obtain ⟨phase, timer, record, timed, -, poll⟩ := exposed_facts (s := late) here
      rw [seq, log, meas]
      exact ⟨phase, timer, poll soon, record, timed⟩

/-! #### O29 and O48: the take goes on at WAIT, or at a step's STEP_START -/

/-- The Sequencer aside from what the phases up to EXPOSE move. -/
def stepLevels (s : State) : Sequencer :=
  { s.seq with
    phase := .none, gapTimer := none, exposureTimer := none, exposureNumber := 0, exposeStart := 0, pollAt := none, pollDone := false,
    scriptLeft := [] }

theorem stepLevels_of_busRest {s t : State} (h : busRest t = busRest s) : stepLevels t = stepLevels s :=
  congrArg (a₁ := busRest t) (a₂ := busRest s) stepLevels h

theorem stepLevels_enterExpose (s : State) : stepLevels (enterExpose s) = stepLevels s := by
  cases step : currentStep s with
  | none =>
    unfold enterExpose
    rw [step]
  | some st =>
    obtain ⟨pollAt, rest, -⟩ := enterExpose_rest step
    exact (stepLevels_of_busRest rest).trans rfl

theorem stepLevels_tryEndStepStart (s : State) : stepLevels (tryEndStepStart s) = stepLevels s := by
  have wait : stepLevels (enterWait s) = stepLevels s := by
    unfold enterWait
    split
    · rfl
    · split
      · rfl
      · split
        · exact stepLevels_enterExpose { s with seq.phase := .wait, seq.gapTimer := none }
        · rfl
  unfold tryEndStepStart
  split
  · exact wait
  · rfl

/-- STEP_START entered and its event ended: the step's levels, its settle timer, and what follows where nothing holds it (R7). -/
theorem stepBegun_outcome {s t : State} {st : PlanStep} {settles : Bool} (here : s.tables.plan.seen[s.seq.step]? = some st)
    (take : s.seq.takeState = .running) (ends : Ends (enterStepStart settles s) t) :
    stepLevels t = stepLevels (stepBegun st settles s)
      ∧ ((stepBegun st settles s).seq.settleTimer ≠ none → t.seq.phase = .stepStart)
      ∧ ∀ v, RunAlike v (arbitrate (scriptsPresented (List.range' st.scriptFirst st.scriptCount) (stepBegun st settles s))) →
        (stepBegun st settles s).seq.settleTimer = none → scriptsEnded v = true →
        Waiting st s.now (s.log.closed.length + 1) s.seq.step t := by
  have rest : busRest (arbitrate (scriptsPresented (List.range' st.scriptFirst st.scriptCount) (stepBegun st settles s)))
      = busRest (stepBegun st settles s) := by
    rw [busRest_arbitrate, ← handScripts_eq, busRest_handScripts]
  obtain ⟨seq, -⟩ := fields_of_stillPart ends.still
  rw [enterStepStart_eq here] at ends seq
  have levels : stepLevels t = stepLevels (stepBegun st settles s) := by
    have same : stepLevels t = stepLevels (tryEndStepStart (arbitrate (scriptsPresented (List.range' st.scriptFirst st.scriptCount)
        (stepBegun st settles s)))) := by
      unfold stepLevels
      rw [seq]
    rw [same, stepLevels_tryEndStepStart, stepLevels_of_busRest rest]
  generalize arbitrate (scriptsPresented (List.range' st.scriptFirst st.scriptCount) (stepBegun st settles s)) = u at rest ends seq
  obtain ⟨phase, tables, step, log, -, -, -, -, take'⟩ := reads_of_busRest rest
  have timer : u.seq.settleTimer = (stepBegun st settles s).seq.settleTimer :=
    congrArg (a₁ := busRest u) (a₂ := busRest (stepBegun st settles s)) (fun w => w.seq.settleTimer) rest
  have now : u.now = s.now := congrArg (a₁ := busRest u) (a₂ := busRest (stepBegun st settles s)) (fun w => w.now) rest
  refine ⟨levels, fun runs => ?_, fun v alike idle ended => ?_⟩
  · rw [seq, tryEndStepStart_stays (.inr (.inl (by rw [timer]; exact runs)))]
    exact phase
  · rw [tryEndStepStart_ends phase (timer.trans idle) (alike.scriptsEnded.trans ended)] at ends
    obtain ⟨waiting, -⟩ := waiting_of_enterWait (by rw [tables, step]; exact here) (take'.trans take) ends
    rw [now, log, step] at waiting
    exact waiting

/-- What the entry to STEP_START sets does not meet the run (R7). -/
theorem runAlike_stepBegun {s : State} {st : PlanStep} {settles : Bool} (phase : s.seq.phase = .stepStart) :
    RunAlike s (stepBegun st settles s) := by
  have same : ({ runView s with seq := { (runView s).seq with phase := .stepStart } } : State) = runView s := by
    rw [show Phase.stepStart = (runView s).seq.phase from phase.symm]
  exact same

/-- A timer of shutter_settle, by whether the step settles (R7; log 28). -/
theorem settleTimer_begun {s : State} {st : PlanStep} {settles : Bool} {changes : Prop} [Decidable changes]
    (judged : settles = decide changes) : (stepBegun st settles s).seq.settleTimer
      = if changes ∧ s.params.shutterSettle ≠ 0 then some (s.now + s.params.shutterSettle * 1000) else none := by
  show (if settles then timerFor s (s.params.shutterSettle * 1000) else none) = _
  unfold timerFor
  rw [judged]
  by_cases change : changes
  · by_cases zero : s.params.shutterSettle = 0
    · simp [change, zero]
    · simp [change, zero]
  · simp [change]

/-- RUNNING, the take's own levels kept (R1, R16). -/
theorem tookState_running (p : Phase) (u : State) : tookState .running p u =
    queueReport .takeState (2#8 :: byteOf p.code :: byteOf u.seq.step :: bytes2 (subframeIndex u))
      { u with seq := { u.seq with takeState := .running, phase := p } } := by
  unfold tookState
  rw [show TakeState.running.keepsLevels = true from rfl, Bool.and_true, Bool.and_true]
  rfl

/-- A report and the Sequencer do not meet. -/
theorem queueReport_seq (k : ReportKind) (p : List Byte) (s : State) (q : Sequencer) :
    queueReport k p { s with seq := q } = { queueReport k p s with seq := q } := by
  unfold queueReport formReport
  by_cases enabled : reportEnabled s k = true
  · rw [if_pos enabled]
    refine (if_pos (by exact enabled)).trans ?_
    by_cases room : (s.out.locked && outQueueHasRoom s) = true
    · rw [if_pos room]; exact if_pos room
    · rw [if_neg room]; exact if_neg room
  · rw [if_neg enabled]
    exact if_neg (by exact enabled)

/-- A report queued reads off the fields that it leaves. -/
theorem queueReport_fields (k : ReportKind) (p : List Byte) (s : State) :
    (queueReport k p s).seq = s.seq ∧ (queueReport k p s).tables = s.tables ∧ (queueReport k p s).params = s.params
      ∧ (queueReport k p s).now = s.now ∧ (queueReport k p s).log = s.log := by
  rw [queueReport_frame]
  exact ⟨rfl, rfl, rfl, rfl, rfl⟩

theorem resumeSettles_eq {s : State} {st : PlanStep} (here : s.tables.plan.seen[s.seq.step]? = some st) :
    resumeSettles s = decide (levelBefore s ≠ decide (st.kind = .dark)) := by
  have step : currentStep s = some st := here
  unfold resumeSettles
  rw [step]

/-- Settles O29: a resumed take enters WAIT (waiting_of_enterWait) or the whole step (stepScripted_of, stepBegun_outcome). -/
theorem takeResumeContinuesPlan : Obligations.TakeResumeContinuesPlan := by
  intro s r can empty
  obtain ⟨flag, sent, flow, same, runs⟩ := exec_form .takeResume can (congrArg List.length empty)
  have answered := beside_answered can .ok [] (flag := flag) (flow := flow) same
  have seen : (answer r .ok [] (tookRequest flag sent flow s)).seq = s.seq
      ∧ (answer r .ok [] (tookRequest flag sent flow s)).tables = s.tables := by
    rw [answer_took can]
    exact ⟨rfl, rfl⟩
  refine ⟨_, runs, ?_⟩
  intro running exposes
  have resumed : s.seq.takeState = .paused → takeResume r (tookRequest flag sent flow s)
      = resumeTake (answer r .ok [] (tookRequest flag sent flow s)) := fun paused => if_pos paused
  have reported : ∀ p, tookState .running p (replied r .ok [] s) = running p (replied r .ok [] s) := fun p => tookState_running p _
  have fields : ∀ p, (running p (replied r .ok [] s)).seq = { s.seq with takeState := .running, phase := p }
      ∧ (running p (replied r .ok [] s)).tables = s.tables ∧ (running p (replied r .ok [] s)).params = s.params
      ∧ (running p (replied r .ok [] s)).now = s.now ∧ (running p (replied r .ok [] s)).log = s.log :=
    fun p => queueReport_fields _ _ _
  refine ⟨fun paused started st here => ?_, fun paused unstarted st here => ?_, fun other => ?_⟩
  · obtain ⟨seq, tables, params, now, log⟩ := fields .wait
    have goes : takeResume r (tookRequest flag sent flow s)
        = enterWait (enterTake .running .wait (answer r .ok [] (tookRequest flag sent flow s))) := by
      rw [resumed paused]
      exact if_neg (by rw [seen.1, started]; exact Bool.false_ne_true)
    have here' : (running .wait (replied r .ok [] s)).tables.plan.seen[(running .wait (replied r .ok [] s)).seq.step]? = some st := by
      rw [tables, seq]; exact here
    have ended : Ends (enterWait (running .wait (replied r .ok [] s))) (endEvent (takeResume r (tookRequest flag sent flow s))) := by
      rw [goes, ← reported]
      exact (blind_enterWait.beside (answered.enterTake _ _)).ends.endEvent
    obtain ⟨external, gapped, -⟩ := waitEntered_cases here'
    have put : ∀ (u : State) (gap : Option Nat), u.seq.phase = .wait →
        ({ u with seq := { u.seq with phase := .wait, gapTimer := gap } } : State) = { u with seq.gapTimer := gap } := by
      intro u gap phase
      rw [← phase]
    obtain ⟨⟨ready, -, exposed⟩, take⟩ := waiting_of_enterWait here' (by rw [seq]) ended
    rw [now, log, seq] at exposed
    refine ⟨⟨_, waitEntered_enterWait here', ended⟩, fun cadence => ⟨?_, (ready cadence).2.2⟩, fun cadence gap => ?_,
      fun cadence gap => ⟨(tells_enterWait _).trans ended.tells, take, exposed cadence gap⟩⟩
    · rw [(external cadence).trans (put _ none (by rw [seq]))] at ended
      exact ended
    · have goes := ((gapped cadence gap).trans (put _ _ (by rw [seq]))).trans (congrArg (fun n : Nat =>
        ({ running .wait (replied r .ok [] s) with seq.gapTimer := some (n + st.gap) } : State)) now)
      rw [goes] at ended
      exact ended
  · obtain ⟨seq, tables, params, now, log⟩ := fields .stepStart
    have settles : resumeSettles (answer r .ok [] (tookRequest flag sent flow s)) = decide (levelBefore s ≠ decide (st.kind = .dark)) := by
      rw [resumeSettles_eq (by rw [seen.1, seen.2]; exact here)]
      unfold levelBefore
      rw [seen.1, seen.2]
    have goes : takeResume r (tookRequest flag sent flow s) = enterStepStart (decide (levelBefore s ≠ decide (st.kind = .dark)))
        (enterTake .running .stepStart (answer r .ok [] (tookRequest flag sent flow s))) := by
      rw [resumed paused, ← settles]
      exact if_pos (by rw [seen.1]; exact unstarted)
    have here' : (running .stepStart (replied r .ok [] s)).tables.plan.seen[(running .stepStart (replied r .ok [] s)).seq.step]?
        = some st := by
      rw [tables, seq]; exact here
    have ended : Ends (enterStepStart (decide (levelBefore s ≠ decide (st.kind = .dark))) (running .stepStart (replied r .ok [] s)))
        (endEvent (takeResume r (tookRequest flag sent flow s))) := by
      rw [goes, ← reported]
      exact ((blind_enterStepStart _).beside (answered.enterTake _ _)).ends.endEvent
    have alike : RunAlike { running .stepStart (replied r .ok [] s) with seq.phase := .stepStart }
        (stepBegun st (decide (levelBefore s ≠ decide (st.kind = .dark))) (running .stepStart (replied r .ok [] s))) := .of_eq rfl
    obtain ⟨levels, held, waits⟩ := stepBegun_outcome here' (by rw [seq]) ended
    have scripted := stepScripted_of here' alike ended
    have timer := settleTimer_begun (s := running .stepStart (replied r .ok [] s)) (st := st)
      (changes := levelBefore s ≠ decide (st.kind = .dark)) rfl
    rw [params, now] at timer
    have e := fun {α : Type} (f : Sequencer → α) => congrArg f levels
    have take : (stepBegun st (decide (levelBefore s ≠ decide (st.kind = .dark))) (running .stepStart (replied r .ok [] s))).seq.takeState
        = .running := by
      show (running .stepStart (replied r .ok [] s)).seq.takeState = _
      rw [seq]
    refine ⟨(tells_enterStepStart _ _).trans ended.tells, (e (·.takeState)).trans take, e (·.notStarted), e (·.shutter),
      e (·.stepLevel), fun _ => (e (·.settleTimer)).trans timer, fun settling => held (by rw [timer, if_pos settling]; exact nofun),
      _, scripted, fun unsettled ended' => ?_⟩
    obtain ⟨external, gapped, exposed⟩ := waits _ (alike.scriptsPresented _).arbitrate (by rw [timer, if_neg unsettled]) ended'
    rw [now] at gapped exposed
    rw [log, seq] at exposed
    exact ⟨external, fun cadence gap => ⟨(gapped cadence gap).1, (gapped cadence gap).2.1⟩, exposed⟩
  · have goes : takeResume r (tookRequest flag sent flow s) = answer r .badState [] (tookRequest flag sent flow s) := if_neg other
    rw [goes]
    exact refused_ends can same _ _

/-- A report of an enabled kind with room is the newest packet (R166, R189). -/
theorem queuedTraffic_reported {k : ReportKind} {p : List Byte} {s : State} (enabled : reportEnabled s k = true)
    (locked : s.out.locked = true) (room : s.out.queue.length < 16) :
    queuedTraffic (queueReport k p s) = queuedTraffic s ++ [.report k s.port.lostReports p] := by
  have formed : queueReport k p s = formReport k p s := if_pos enabled
  rw [formed, formReport_queued locked room]
  exact (List.append_assoc _ _ _).symm

/-- Settles O48: the pass leaves the records of the geometry cleared (Memory.read_restrict), and the first step begins
(stepScripted_of, stepBegun_outcome). -/
theorem clearingPassStartsFirstStep : Obligations.ClearingPassStartsFirstStep := by
  intro s st wf take holder here
  let cleared : State := { s with
    plane := Memory.restrict (fun a => decide (s.settings.width * s.settings.height ≤ a)) s.plane, arb.holder := .none,
    seq.planeValid := true }
  let begun : State := tookState .running .stepStart cleared
  let settles : Bool := shutterChanges (enterTake .running .stepStart cleared)
  have runs : exec .clearingPassComplete s = .next (endEvent (enterStepStart settles (enterTake .running .stepStart cleared))) := by
    change execClearingPassComplete s = _
    unfold execClearingPassComplete
    rw [if_pos ⟨take, holder⟩]
    rfl
  have report : begun = queueReport .takeState (2#8 :: 1#8 :: byteOf s.seq.step :: bytes2 (subframeIndex s))
      { cleared with seq := { s.seq with planeValid := true, takeState := .running, phase := .stepStart } } := tookState_running _ _
  obtain ⟨seq, tables, params, now, log⟩ := queueReport_fields .takeState (2#8 :: 1#8 :: byteOf s.seq.step :: bytes2 (subframeIndex s))
    { cleared with seq := { s.seq with planeValid := true, takeState := .running, phase := .stepStart } }
  rw [← report] at seq tables params now log
  have here' : begun.tables.plan.seen[begun.seq.step]? = some st := by rw [tables, seq]; exact here
  have changes : settles = decide (s.seq.shutter ≠ decide (st.kind = .dark)) := by
    have step : currentStep (enterTake .running .stepStart cleared) = some st := here'
    show shutterChanges (enterTake .running .stepStart cleared) = _
    unfold shutterChanges
    rw [step]
    show decide (begun.seq.shutter ≠ decide (st.kind = .dark)) = _
    rw [seq]
  have ended : Ends (enterStepStart settles begun) (endEvent (enterStepStart settles (enterTake .running .stepStart cleared))) :=
    ((blind_enterStepStart settles).beside ((Beside.refl cleared).enterTake .running .stepStart)).ends.endEvent
  let told : State := queueReport .takeState (2#8 :: 1#8 :: byteOf s.seq.step :: bytes2 (subframeIndex s)) s
  have alike : RunAlike { told with seq.phase := .stepStart } (stepBegun st settles begun) := by
    have phased : ({ told with seq.phase := .stepStart } : State)
        = queueReport .takeState (2#8 :: 1#8 :: byteOf s.seq.step :: bytes2 (subframeIndex s)) { s with seq.phase := .stepStart } := by
      obtain ⟨same, -⟩ := queueReport_fields .takeState (2#8 :: 1#8 :: byteOf s.seq.step :: bytes2 (subframeIndex s)) s
      rw [queueReport_seq]
      show ({ told with seq := { told.seq with phase := .stepStart } } : State) = _
      rw [show told.seq = s.seq from same]
    have reported : RunAlike { told with seq.phase := .stepStart } begun := by
      rw [phased, report]
      refine RunAlike.queueReport ?_ _ _
      exact rfl
    exact reported.trans (runAlike_stepBegun (by rw [seq]))
  obtain ⟨levels, held, waits⟩ := stepBegun_outcome here' (by rw [seq]) ended
  have timer := settleTimer_begun (s := begun) (st := st) changes
  rw [params, now] at timer
  have e := fun {α : Type} (f : Sequencer → α) => congrArg f levels
  obtain ⟨-, -, -, -, -, -, cal, plane, arb, -, -, tables', -, settings, -⟩ := fields_of_stillPart ended.still
  have rest : phaseRest (enterStepStart settles begun) = phaseRest cleared := by
    rw [phaseRest_enterStepStart, report, phaseRest_queueReport]
    rfl
  have p := fun {α : Type} (f : State → α) =>
    congrArg (a₁ := phaseRest (enterStepStart settles begun)) (a₂ := phaseRest cleared) f rest
  have planes : (endEvent (enterStepStart settles (enterTake .running .stepStart cleared))).plane = cleared.plane :=
    plane.trans (p (·.plane))
  have same : begun.seq = { s.seq with planeValid := true, takeState := .running, phase := .stepStart } := seq
  refine ⟨_, _, runs, ?_, ?_, arb.trans (p (·.arb)), fun a inside => ?_, fun a outside => ?_, e (·.shutter), e (·.stepLevel), ?_, ?_,
    tables'.trans (p (·.tables)), settings.trans (p (·.settings)), cal.trans (p (·.cal)), fun locked room enabled => ?_,
    stepScripted_of here' alike ended, fun settling => ?_, fun unsettled _ => ?_, fun unsettled ended' => ?_⟩
  · exact (e (·.takeState)).trans (by show begun.seq.takeState = _; rw [same])
  · exact (e (·.planeValid)).trans (by show begun.seq.planeValid = _; rw [same])
  · show Memory.read Pixel.cleared (endEvent (enterStepStart settles (enterTake .running .stepStart cleared))).plane a = _
    rw [planes]
    refine (Memory.read_restrict (fun a => decide (s.settings.width * s.settings.height ≤ a)) wf.plane a).trans (if_neg ?_)
    exact fun h => absurd (of_decide_eq_true h) (Nat.not_le.mpr inside)
  · show Memory.read Pixel.cleared (endEvent (enterStepStart settles (enterTake .running .stepStart cleared))).plane a = _
    rw [planes]
    exact (Memory.read_restrict (fun a => decide (s.settings.width * s.settings.height ≤ a)) wf.plane a).trans
      (if_pos (decide_eq_true outside))
  · exact (e (·.step)).trans (by show begun.seq.step = _; rw [same])
  · obtain ⟨-, log', -⟩ := fields_of_stillPart ended.still
    exact (congrArg SubframeLog.closed log').trans (p (·.log.closed))
  · have joined : queuedTraffic begun = queuedTraffic s ++ [.report .takeState s.port.lostReports (2#8 :: 1#8 :: byteOf s.seq.step
        :: bytes2 (subframeIndex s))] := by
      rw [report]
      exact queuedTraffic_reported (k := .takeState) (s := { cleared with
        seq := { s.seq with planeValid := true, takeState := .running, phase := .stepStart } }) enabled locked room
    rw [← joined]
    exact (tells_enterStepStart _ _).trans ended.tells
  · have runs : (stepBegun st settles begun).seq.settleTimer = some (s.now + s.params.shutterSettle * 1000) :=
      timer.trans (if_pos settling)
    exact ⟨held (by rw [runs]; exact nofun), (e (·.settleTimer)).trans runs⟩
  · exact (e (·.settleTimer)).trans (timer.trans (if_neg unsettled))
  · obtain ⟨external, gapped, exposed⟩ := waits _ (alike.scriptsPresented _).arbitrate (by rw [timer]; exact if_neg unsettled) ended'
    rw [now] at gapped exposed
    exact ⟨fun cadence => ⟨(external cadence).1, (external cadence).2.2⟩,
      fun cadence gap => ⟨(gapped cadence gap).1, (gapped cadence gap).2.1⟩,
      fun cadence gap => ⟨(exposed cadence gap).1, (exposed cadence gap).2.1⟩⟩

end Sys2Proof.Machine
end

section
/-! PROOFS. Settles O44 and O47: how a frame and a readout end, the packets of Link In, and its lock -/

namespace Sys2Proof.Machine

/-! ### Link In: frames, lines and the end of the readout (3.1 to 3.5) -/

/-! #### The forwarded frames at the end of an event (R61, R164) -/

/-- A key of a forwarded frame that its FRAME_START does not move. -/
def StartFree {α : Type} (key : ForwardedFrame → α) : Prop := ∀ (g : ForwardedFrame) (begun : Bool), key { g with startBegun := begun } = key g

/-- The end of an event moves the frames by the beginning of a RAW packet alone: the oldest may have gone with its FRAME_END. -/
theorem frames_endEvent {α : Type} {key : ForwardedFrame → α} (free : StartFree key) (u : State) :
    AtMostFirstEnded (endEvent u).out.inProgress (u.fifo.frames.map key) ((endEvent u).fifo.frames.map key) := by
  unfold endEvent
  show AtMostFirstEnded (startFirst u).out.inProgress (u.fifo.frames.map key) ((startFirst u).fifo.frames.map key)
  rcases startFirst_cases u with same | ⟨p, -, -, k, same⟩ <;> rw [same]
  · exact .inl rfl
  · unfold beginPacket
    split
    · refine .inl ?_
      show (u.fifo.frames.map _).map key = _
      rw [List.map_map]
      refine List.map_congr_left fun g _ => ?_
      dsimp only [Function.comp]
      split
      · exact free g true
      · rfl
    · exact .inl rfl
    · exact .inr ⟨List.map_tail.symm ▸ rfl, _, _, rfl⟩
    · exact .inl rfl
    · exact .inl rfl
    · exact .inl rfl

/-- Every frame left at the end of an event was there, with the same number and as open. -/
theorem frame_of_endEvent {u : State} {g : ForwardedFrame} (held : g ∈ (endEvent u).fifo.frames) :
    ∃ g' ∈ u.fifo.frames, g'.number = g.number ∧ g'.isOpen = g.isOpen := by
  have moved := frames_endEvent (key := fun g => (g.number, g.isOpen)) (fun _ _ => rfl) u
  have mine := List.mem_map_of_mem (f := fun g : ForwardedFrame => (g.number, g.isOpen)) held
  have was : (g.number, g.isOpen) ∈ u.fifo.frames.map fun g => (g.number, g.isOpen) := by
    rcases moved with same | ⟨same, -⟩
    · rw [← same]; exact mine
    · rw [same] at mine; exact List.mem_of_mem_tail mine
  obtain ⟨g', there, key⟩ := List.mem_map.mp was
  exact ⟨g', there, congrArg Prod.fst key, congrArg Prod.snd key⟩

/-! #### The end of a frame and of the readout (R12, R38, R51, R55, R61) -/

/-- The forwarded frame of the frame in progress has closed. -/
def closedFrames (s : State) : List ForwardedFrame :=
  match s.link.forwarding with
  | .frame number => s.fifo.frames.map fun g => if g.number = number then { g with isOpen := false } else g
  | _ => s.fifo.frames

theorem endFrame_eq (s : State) : endFrame s = { s with
    link := { s.link with frame := .none, forwarding := .no }, fifo.frames := closedFrames s } := by
  unfold endFrame closeForwarded closedFrames
  cases s.link.forwarding with
  | no => rfl
  | abandoned => rfl
  | frame number =>
    simp only [onFrames, decide_eq_true_eq]

theorem closedFrames_closed {s : State} {g : ForwardedFrame} (held : g ∈ closedFrames s) (mine : s.link.forwarding = .frame g.number) :
    g.isOpen = false := by
  unfold closedFrames at held
  rw [mine] at held
  obtain ⟨g', -, same⟩ := List.mem_map.mp held
  by_cases number : g'.number = g.number
  · rw [if_pos number] at same
    rw [← same]
  · rw [if_neg number] at same
    rw [same] at number
    exact absurd rfl number

theorem decideExposure_eq (lineTime : Nat) (s : State) : decideExposure lineTime s = { s with
    log.openRecord := s.log.openRecord.map (exposureDecided lineTime s), meas.armed := false } := by
  unfold decideExposure exposureDecided
  cases feedbackTime s.meas <;> rfl

/-- The readout has ended, and the bus has not been served yet. -/
def readoutClosed (s : State) : State :=
  { s with
    seq := { s.seq with phase := .settle, readoutTimer := none },
    link := { s.link with readout := none, lastRow := none, frame := .none, forwarding := .no },
    fifo.frames := closedFrames s,
    log.openRecord := if s.meas.armed then s.log.openRecord.map (exposureDecided s.seq.lineTime s) else s.log.openRecord,
    meas.armed := false }

theorem endReadout_eq (s : State) : endReadout s = arbitrate (readoutClosed s) := by
  unfold endReadout readoutClosed
  dsimp only
  rw [endFrame_eq, decideExposure_eq]
  cases armed : s.meas.armed with
  | true => rfl
  | false =>
    rw [if_neg Bool.false_ne_true, if_neg Bool.false_ne_true, ← armed]

/-- The bus served from states of the same view, on the same lane. -/
theorem sameBus_arbitrate {u v t : State} (view : busView v = busView u) (sent : v.out.sent = u.out.sent)
    (progress : v.out.inProgress = u.out.inProgress) (ends : Ends (arbitrate v) t) : SameBus (arbitrate u) t := by
  obtain ⟨bridge, indices, queued, lost⟩ := ends.sameBus
  have u' := arbitrate_form u
  have v' := arbitrate_form v
  rw [view] at v'
  have traffic : queuedTraffic (arbitrate v) = queuedTraffic (arbitrate u) := by
    unfold queuedTraffic begunPackets
    rw [u', v', sent, progress]
  refine ⟨bridge.trans ?_, indices.trans ?_, queued.trans traffic, lost.trans ?_⟩ <;> rw [u', v']

/-- The end of the readout serves the bus as it would have been served from READOUT's own state (R153). -/
theorem readoutFreesBus {s t : State} (ends : Ends (endReadout s) t) : ReadoutFreesBus s t := by
  rw [endReadout_eq] at ends
  exact ⟨_, busServed_iff.mpr rfl, sameBus_arbitrate (u := { s with seq.phase := .settle }) (v := readoutClosed s) rfl rfl rfl ends⟩

theorem readoutEnded_of {s t : State} (ends : Ends (endReadout s) t)
    (frames : ∀ g ∈ t.fifo.frames, ∃ g' ∈ closedFrames s, g'.number = g.number ∧ g'.isOpen = g.isOpen) : ReadoutEnded s t := by
  have rest : busRest (endReadout s) = busRest (readoutClosed s) := by rw [endReadout_eq, busRest_arbitrate]
  have e := fun {α : Type} (f : State → α) => congrArg (a₁ := busRest (endReadout s)) (a₂ := busRest (readoutClosed s)) f rest
  obtain ⟨seq, log, meas, temps, heater, link, cal, plane, arb, trails, -, tables, params, settings, now, -, -, entries, render, -⟩ :=
    fields_of_stillPart ends.still
  have requests : t.port.requests = (endReadout s).port.requests :=
    congrArg (a₁ := stillPart t) (a₂ := stillPart (endReadout s)) (fun w : State => w.port.requests) ends.still
  refine ⟨?_, link.trans (e (·.link)), fun g held mine => ?_, meas.trans (e (·.meas)), (congrArg SubframeLog.closed log).trans (e (·.log.closed)),
    (congrArg SubframeLog.openRecord log).trans (e (·.log.openRecord)),
    ⟨entries.trans (e (·.fifo.entries)), plane.trans (e (·.plane)), arb.trans (e (·.arb)), cal.trans (e (·.cal)),
      trails.trans (e (·.trails)), render.trans (e (·.render.state)), temps.trans (e (·.temps)), heater.trans (e (·.heater)),
      tables.trans (e (·.tables)), params.trans (e (·.params)), settings.trans (e (·.settings)),
      requests.trans (e (·.port.requests)), now.trans (e (·.now))⟩, readoutFreesBus ends⟩
  · have put := congrArg (a₁ := { (endReadout s).seq with scriptLeft := [] })
      (a₂ := { (readoutClosed s).seq with scriptLeft := [] }) (fun q : Sequencer => { q with scriptLeft := t.seq.scriptLeft }) (e (·.seq))
    rw [seq]
    rw [seq] at put
    exact put
  · obtain ⟨g', there, number, isOpen⟩ := frames g held
    rw [← isOpen]
    exact closedFrames_closed there (by rw [number]; exact mine)

theorem frames_endReadout (s : State) : (endReadout s).fifo.frames = closedFrames s := by
  have rest : busRest (endReadout s) = busRest (readoutClosed s) := by rw [endReadout_eq, busRest_arbitrate]
  exact congrArg (a₁ := busRest (endReadout s)) (a₂ := busRest (readoutClosed s)) (fun w => w.fifo.frames) rest

theorem readoutEnded_endEvent (s : State) : ReadoutEnded s (endEvent (endReadout s)) := by
  refine readoutEnded_of (ends_endEvent _) fun g held => ?_
  obtain ⟨g', there, key⟩ := frame_of_endEvent held
  rw [frames_endReadout] at there
  exact ⟨g', there, key⟩

/-! #### O47: FRAME_END and the readout timer -/

theorem exec_frameEnd {s : State} (lines : Half) (locked : s.link.locked = true) :
    (s.link.frame = .subframe → exec (.frameEnd lines) s = .next (endEvent (endReadout s)))
      ∧ (s.link.frame = .stray → exec (.frameEnd lines) s = .next (endEvent (endFrame s)))
      ∧ (s.link.frame = .none → exec (.frameEnd lines) s = .next s) := by
  have runs : exec (.frameEnd lines) s = execFrameEnd lines s := rfl
  rw [runs]
  unfold execFrameEnd
  rw [if_pos locked]
  refine ⟨fun frame => ?_, fun frame => ?_, fun frame => ?_⟩ <;> rw [frame]

theorem exec_frameEnd_unlocked {s : State} (lines : Half) (unlocked : s.link.locked = false) : exec (.frameEnd lines) s = .next s := by
  change execFrameEnd lines s = _
  unfold execFrameEnd
  rw [if_neg (by rw [unlocked]; exact Bool.false_ne_true)]

/-- Settles O47: each way a frame or a readout ends is endFrame or endReadout (readoutEnded_endEvent). -/
theorem frameEndAndTimeoutEndReadout : Obligations.FrameEndAndTimeoutEndReadout := by
  intro s lines
  refine ⟨fun locked frame => ⟨_, ?_, readoutEnded_endEvent s⟩, fun locked frame => ⟨endEvent (endFrame s), ?_, ?_, fun g held mine => ?_⟩,
    fun frame => ?_, fun d due => ⟨_, ?_, readoutEnded_endEvent _⟩⟩
  · exact (exec_frameEnd lines locked).1 frame
  · exact (exec_frameEnd lines locked).2.1 frame
  · rw [endFrame_eq]
    exact Ends.endEvent ⟨rfl, rfl, rfl⟩
  · obtain ⟨g', there, number, isOpen⟩ := frame_of_endEvent held
    rw [endFrame_eq] at there
    rw [← isOpen]
    exact closedFrames_closed there (by rw [number]; exact mine)
  · cases locked : s.link.locked with
    | true => exact (exec_frameEnd lines locked).2.2 frame
    | false => exact exec_frameEnd_unlocked lines locked
  · change execReadoutTimerExpiry s = _
    unfold execReadoutTimerExpiry
    rw [due]
    rfl

/-! #### O44: the packets of Link In, and its lock -/

theorem halfAt_cons (b : Byte) (p : List Byte) (i : Nat) : halfAt (b :: p) (i + 1) = halfAt p i := rfl

theorem halfAt_skip (front back : List Byte) (i : Nat) : halfAt (front ++ back) (front.length + i) = halfAt back i := by
  induction front with
  | nil => rw [List.length_nil, Nat.zero_add, List.nil_append]
  | cons b front ih => rw [List.cons_append, List.length_cons, Nat.add_right_comm, halfAt_cons, ih]

/-- A field of two bytes is the first byte behind the other. -/
theorem halfAt_pair (high low : Byte) : halfAt [high, low] 0 = high ++ low := by
  apply BitVec.eq_of_toNat_eq
  have h := high.isLt
  have l := low.isLt
  show (BitVec.ofNat 16 (high.toNat * 256 + low.toNat)).toNat = _
  rw [BitVec.toNat_ofNat, Nat.mod_eq_of_lt (by omega), BitVec.toNat_append, ← Nat.shiftLeft_add_eq_or_of_lt l, Nat.shiftLeft_eq]

theorem read2_bytes2 {n : Nat} (fits : n ≤ 65535) (p : List Byte) : read2 (bytes2 n ++ p) 0 = n := by
  have same := halfAt_bytes2 (BitVec.ofNat 16 n) p
  rw [BitVec.toNat_ofNat, Nat.mod_eq_of_lt (by omega)] at same
  have value := congrArg BitVec.toNat same
  have small : read2 (bytes2 n ++ p) 0 < 65536 := by
    unfold read2
    have := read1_lt (bytes2 n ++ p) 0
    have := read1_lt (bytes2 n ++ p) (0 + 1)
    omega
  unfold halfAt at value
  rw [BitVec.toNat_ofNat, BitVec.toNat_ofNat, Nat.mod_eq_of_lt small, Nat.mod_eq_of_lt (by omega)] at value
  exact value

theorem linkInCommand_line (rest : List Byte) : linkInCommand (0x02#8 :: rest) = .line (halfAt rest 0)
    (halvesOf ((rest.drop 4).take (2 * read2 rest 2)))
    (if 6 + 2 * read2 rest 2 ≤ rest.length then some (halfAt rest (4 + 2 * read2 rest 2)) else none) := by
  have length : (7 + 2 * read2 rest 2 ≤ (0x02#8 :: rest).length) ↔ (6 + 2 * read2 rest 2 ≤ rest.length) := by
    rw [List.length_cons]
    omega
  have crc : halfAt (0x02#8 :: rest) (5 + 2 * read2 rest 2) = halfAt rest (4 + 2 * read2 rest 2) := by
    rw [show 5 + 2 * read2 rest 2 = (4 + 2 * read2 rest 2) + 1 by omega]
    rfl
  have command : linkInCommand (0x02#8 :: rest) = .line (halfAt rest 0) (halvesOf ((rest.drop 4).take (2 * read2 rest 2)))
      (if 7 + 2 * read2 rest 2 ≤ (0x02#8 :: rest).length then some (halfAt (0x02#8 :: rest) (5 + 2 * read2 rest 2)) else none) := rfl
  rw [command, crc]
  simp only [length]

/-- A LINE read back from its bytes, whatever follows its CRC (R191, R192; log 39). -/
theorem linkInCommand_lineBytes (row : Half) (words : List Half) (crc : Half) (surplus : List Byte) (fits : words.length ≤ 65535) :
    linkInCommand (0x02#8 :: bytes2 row.toNat ++ bytes2 words.length ++ words.flatMap (fun w => bytes2 w.toNat)
      ++ bytes2 crc.toNat ++ surplus) = .line row words (some crc) := by
  have shape : 0x02#8 :: bytes2 row.toNat ++ bytes2 words.length ++ words.flatMap (fun w => bytes2 w.toNat) ++ bytes2 crc.toNat ++ surplus
      = 0x02#8 :: (bytes2 row.toNat ++ (bytes2 words.length ++ (words.flatMap halfBytes ++ (bytes2 crc.toNat ++ surplus)))) := by
    simp only [List.cons_append, List.append_assoc]
    rfl
  have count : read2 (bytes2 row.toNat ++ (bytes2 words.length ++ (words.flatMap halfBytes ++ (bytes2 crc.toNat ++ surplus)))) 2
      = words.length := read2_bytes2 fits (words.flatMap halfBytes ++ (bytes2 crc.toNat ++ surplus))
  have length := length_flatMap_halfBytes words
  rw [shape, linkInCommand_line, count, halfAt_bytes2]
  have body : ((bytes2 row.toNat ++ (bytes2 words.length ++ (words.flatMap halfBytes ++ (bytes2 crc.toNat ++ surplus)))).drop 4).take
      (2 * words.length) = words.flatMap halfBytes := by
    rw [show (bytes2 row.toNat ++ (bytes2 words.length ++ (words.flatMap halfBytes ++ (bytes2 crc.toNat ++ surplus)))).drop 4
      = words.flatMap halfBytes ++ (bytes2 crc.toNat ++ surplus) from rfl, ← length, List.take_left']
    rfl
  have behind : halfAt (bytes2 row.toNat ++ (bytes2 words.length ++ (words.flatMap halfBytes ++ (bytes2 crc.toNat ++ surplus))))
      (4 + 2 * words.length) = crc := by
    rw [show 4 + 2 * words.length = (bytes2 row.toNat ++ (bytes2 words.length ++ words.flatMap halfBytes)).length + 0 by
      simp only [List.length_append, length, bytes2, List.length_cons, List.length_nil]; omega]
    rw [show bytes2 row.toNat ++ (bytes2 words.length ++ (words.flatMap halfBytes ++ (bytes2 crc.toNat ++ surplus)))
      = (bytes2 row.toNat ++ (bytes2 words.length ++ words.flatMap halfBytes)) ++ (bytes2 crc.toNat ++ surplus) by
        simp only [List.append_assoc], halfAt_skip, halfAt_bytes2]
  rw [body, behind, halvesOf_flatMap, if_pos]
  simp only [List.length_append, length, bytes2, List.length_cons, List.length_nil]
  omega

/-- A packet of another type, or a FRAME_START or FRAME_END of a wrong length, is discarded (R45). -/
theorem linkInCommand_discards (type : Byte) (rest : List Byte)
    (bad : type ∉ [0x01#8, 0x02#8, 0x03#8] ∨ type ∈ [0x01#8, 0x03#8] ∧ rest.length ≠ 2) :
    linkInCommand (type :: rest) = .linkInPacketDiscard := by
  have type0 : read1 (type :: rest) 0 = type.toNat := rfl
  have wrong : type ∈ [0x01#8, 0x03#8] → (type :: rest).length ≠ 3 := by
    intro framed length
    rcases bad with other | ⟨-, long⟩
    · simp only [List.mem_cons, List.not_mem_nil, or_false, not_or] at framed other
      exact framed.elim other.1 other.2.2
    · exact long (Nat.succ.inj length)
  unfold linkInCommand
  rw [type0]
  split
  · rename_i one
    have first : type = 0x01#8 := BitVec.eq_of_toNat_eq one
    exact if_neg (wrong (by rw [first]; decide))
  · rename_i two
    have second : type = 0x02#8 := BitVec.eq_of_toNat_eq two
    rw [second] at bad
    revert bad
    simp
  · rename_i three
    have third : type = 0x03#8 := BitVec.eq_of_toNat_eq three
    exact if_neg (wrong (by rw [third]; decide))
  · rfl

theorem exec_linkInLockLost {s : State} (locked : s.link.locked = true) :
    exec .linkInLockLost s = .next (endEvent (loseLinkIn s)) := by
  change execLinkInLockLost s = _
  exact if_pos locked

/-- The loss of lock with no readout open ends the frame in progress (R56). -/
theorem loseLinkIn_loose {s : State} (closed : s.link.readout = none) :
    loseLinkIn s = { endFrame s with link.locked := false } := by
  unfold loseLinkIn
  rw [closed]
  rfl

/-- With one open it ends the readout (R56). -/
theorem loseLinkIn_open {s : State} (opened : s.link.readout ≠ none) :
    loseLinkIn s = { endReadout s with link.locked := false } := by
  unfold loseLinkIn
  cases readout : s.link.readout with
  | none => exact absurd readout opened
  | some r => rfl

/-- O44, the loss of Link In lock (R56, R153). -/
theorem linkInLost_ends {s : State} (locked : s.link.locked = true) : ∃ t, exec .linkInLockLost s = .next t
    ∧ t.link.locked = false ∧ t.link.frame = .none ∧ t.link.readout = none ∧ t.link.strayCount = s.link.strayCount
    ∧ t.link.rowMap = s.link.rowMap ∧ t.fifo.entries = s.fifo.entries ∧ t.plane = s.plane ∧ t.arb = s.arb
    ∧ t.log.closed = s.log.closed
    ∧ (s.link.readout = none → t.seq = s.seq ∧ t.log = s.log ∧ t.meas = s.meas ∧ SameBus s t)
    ∧ (s.link.readout ≠ none → ∃ u, ReadoutEnded s u ∧ t.seq = u.seq ∧ t.log = u.log ∧ t.meas = u.meas ∧ SameBus u t) := by
  refine ⟨_, exec_linkInLockLost locked, ?_⟩
  obtain ⟨seq, log, meas, -, -, link, -, plane, arb, -, -, -, -, -, -, -, -, entries, -⟩ := endEvent_fields (loseLinkIn s)
  by_cases closed : s.link.readout = none
  · have bus := (ends_endEvent (loseLinkIn s)).sameBus
    rw [loseLinkIn_loose closed, endFrame_eq] at seq log meas link plane arb entries bus ⊢
    rw [seq, log, meas, link, plane, arb, entries]
    exact ⟨rfl, rfl, closed, rfl, rfl, rfl, rfl, rfl, rfl, fun _ => ⟨rfl, rfl, rfl, ⟨bus.bridge, bus.indices, bus.queued, bus.lost⟩⟩, fun opened => absurd closed opened⟩
  · have rest : busRest (endReadout s) = busRest (readoutClosed s) := by rw [endReadout_eq, busRest_arbitrate]
    have e := fun {α : Type} (f : State → α) => congrArg (a₁ := busRest (endReadout s)) (a₂ := busRest (readoutClosed s)) f rest
    obtain ⟨seq', log', meas', -⟩ := endEvent_fields (endReadout s)
    have bus := (ends_endEvent (loseLinkIn s)).sameBus
    have bus' := (ends_endEvent (endReadout s)).sameBus
    rw [loseLinkIn_open closed] at seq log meas link plane arb entries bus ⊢
    rw [link, plane, arb, entries, log]
    refine ⟨rfl, e (·.link.frame), e (·.link.readout), e (·.link.strayCount), e (·.link.rowMap), e (·.fifo.entries), e (·.plane), e (·.arb),
      e (·.log.closed), fun none => absurd none closed, fun _ => ⟨_, readoutEnded_endEvent s, seq.trans seq'.symm, log'.symm, meas.trans meas'.symm,
        ⟨bus.bridge.trans bus'.bridge.symm, bus.indices.trans bus'.indices.symm, bus.queued.trans bus'.queued.symm, bus.lost.trans bus'.lost.symm⟩⟩⟩

/-- Settles O44: the layouts of 11.2 read back, and what the receiver's lock ends. -/
theorem linkInLockAndDiscardedInput : Obligations.LinkInLockAndDiscardedInput := by
  refine ⟨fun h l => ?_, linkInCommand_lineBytes, fun rest short => ?_, linkInCommand_discards, fun s => ?_⟩
  · rw [← halfAt_pair h l]
    exact ⟨rfl, rfl⟩
  · refine ⟨halfAt rest 0, halvesOf ((rest.drop 4).take (2 * read2 rest 2)), ?_⟩
    rw [linkInCommand_line, if_neg (Nat.not_le.mpr short)]
  · refine ⟨rfl, rfl, rfl, fun unlocked => ?_, linkInLost_ends⟩
    have shut : ¬ s.link.locked = true := by rw [unlocked]; exact Bool.false_ne_true
    refine ⟨if_neg shut, fun counter => if_neg shut, fun row words crc => if_neg shut, fun lines => exec_frameEnd_unlocked lines unlocked⟩

end Sys2Proof.Machine
end

section
/-! PROOFS. Settles O45, O46 and O53: the frames and lines that arrive, and the pins -/

namespace Sys2Proof.Machine

/-! #### O45: FRAME_START -/

theorem SameBus.trans {s t u : State} (h : SameBus s t) (k : SameBus t u) : SameBus s u :=
  ⟨k.bridge.trans h.bridge, k.indices.trans h.indices, k.queued.trans h.queued, k.lost.trans h.lost⟩

theorem ReadoutFreesBus.trans {s t u : State} (h : ReadoutFreesBus s t) (k : SameBus t u) : ReadoutFreesBus s u := by
  obtain ⟨v, served, same⟩ := h
  exact ⟨v, served, same.trans k⟩

/-- The forwarded frame that a FRAME_START opens (R61). -/
def newFrame (counter : Half) (s : State) : ForwardedFrame :=
  { number := s.fifo.nextFrame, frameId := counter.toNat, width := s.settings.width, height := s.settings.height,
    startBegun := false, linesSent := 0, isOpen := true, truncated := false }

/-- A frame whose forwarding is asked for or not has begun (R51, R61, R171). -/
def opening (asked : Bool) (counter : Half) (s : State) : State := if asked then openForwarded counter s else s

/-- What the Link Receiver holds of the forwarding of the frame that begins. -/
def forwardingAs (s : State) : Forwarding := if s.out.locked then .frame s.fifo.nextFrame else .abandoned

theorem openForwarded_form (counter : Half) (s : State) : openForwarded counter s = { s with
    fifo := { s.fifo with
      frames := s.fifo.frames ++ (if s.out.locked then [newFrame counter s] else []),
      nextFrame := s.fifo.nextFrame + boolCode s.out.locked },
    link.forwarding := forwardingAs s } := by
  unfold openForwarded forwardingAs newFrame
  cases s.out.locked with
  | true => rfl
  | false => simp [boolCode]

theorem opening_form (asked : Bool) (counter : Half) (s : State) : opening asked counter s = { s with
    fifo := { s.fifo with
      frames := s.fifo.frames ++ (if asked && s.out.locked then [newFrame counter s] else []),
      nextFrame := s.fifo.nextFrame + boolCode (asked && s.out.locked) },
    link.forwarding := if asked then forwardingAs s else s.link.forwarding } := by
  cases asked with
  | true => exact openForwarded_form counter s
  | false => simp [opening, boolCode]

/-- The RAW source ends a frame only once its FRAME_START has begun (R61). -/
theorem offerRaw_ends {s : State} {sent : Nat} {truncated : Bool} (offered : offerRaw s = some (.rawEnd sent truncated)) :
    ∃ g rest, s.fifo.frames = g :: rest ∧ g.startBegun = true := by
  unfold offerRaw at offered
  split at offered
  · exact absurd offered nofun
  · rename_i g rest frames
    refine ⟨g, rest, frames, ?_⟩
    by_cases begun : g.startBegun = true
    · exact begun
    · rw [if_pos (by simpa using begun)] at offered
      exact absurd offered nofun

theorem offerRaw_of_rawEnd {s : State} {sent : Nat} {truncated : Bool} (offered : .rawEnd sent truncated ∈ offers s) :
    offerRaw s = some (.rawEnd sent truncated) := by
  rcases mem_offers.mp offered with raw | queued | render
  · exact raw
  · simp [offerQueued] at queued
  · simp [offerRender] at render

/-- A frame that has just opened is still the newest at the end of the event; its FRAME_START may have begun. -/
theorem endEvent_newest {u : State} {older : List ForwardedFrame} {g : ForwardedFrame} (frames : u.fifo.frames = older ++ [g])
    (waits : g.startBegun = false) :
    ∃ begun, (endEvent u).fifo.frames.getLast? = some { g with startBegun := begun }
      ∧ (begun = true → ∃ frameId width height, (endEvent u).out.inProgress = some (.rawStart g.number frameId width height)) := by
  have kept : ∀ v : State, v.fifo.frames = older ++ [g] → ∃ begun, v.fifo.frames.getLast? = some { g with startBegun := begun }
      ∧ (begun = true → ∃ frameId width height, v.out.inProgress = some (.rawStart g.number frameId width height)) :=
    fun v same => ⟨false, by rw [same, List.getLast?_concat, ← waits], fun started => absurd started Bool.false_ne_true⟩
  show ∃ begun, (startFirst u).fifo.frames.getLast? = _ ∧ (_ → ∃ _ _ _, (startFirst u).out.inProgress = _)
  rcases startFirst_cases u with same | ⟨p, offered, -, k, same⟩ <;> rw [same]
  · exact kept u frames
  · cases p with
    | rawStart number frameId width height =>
      have moved : (beginPacket (.rawStart number frameId width height) { u with out.choices := k }).fifo.frames.getLast?
          = some (if g.number = number then { g with startBegun := true } else g) := by
        show ((u.fifo.frames.map _).getLast?) = _
        rw [frames, List.map_append, List.map_singleton, List.getLast?_concat]
        simp only [decide_eq_true_eq]
      rw [moved]
      by_cases mine : g.number = number
      · exact ⟨true, by rw [if_pos mine], fun _ => ⟨frameId, width, height, by rw [mine]; rfl⟩⟩
      · exact ⟨false, by rw [if_neg mine, ← waits], fun started => absurd started Bool.false_ne_true⟩
    | rawLine number entry row pixels => exact kept _ frames
    | rawEnd sent truncated =>
      obtain ⟨first, rest, oldest, begun⟩ := offerRaw_ends (offerRaw_of_rawEnd offered)
      rw [frames] at oldest
      have left : (beginPacket (.rawEnd sent truncated) { u with out.choices := k }).fifo.frames = rest := by
        show u.fifo.frames.tail = _
        rw [frames, oldest, List.tail_cons]
      have newest : rest.getLast? = some g := by
        cases older with
        | nil =>
          rw [List.nil_append, List.cons.injEq] at oldest
          rw [oldest.1, begun] at waits
          exact Bool.noConfusion waits
        | cons x xs =>
          rw [List.cons_append, List.cons.injEq] at oldest
          rw [← oldest.2, List.getLast?_concat]
      exact ⟨false, by rw [left, newest, ← waits], fun started => absurd started Bool.false_ne_true⟩
    | queued q => exact kept _ frames
    | render q live => cases q <;> exact kept _ frames

theorem nextFrame_endEvent (u : State) : (endEvent u).fifo.nextFrame = u.fifo.nextFrame :=
  congrArg (a₁ := stillPart (endEvent u)) (a₂ := stillPart u) (fun w : State => w.fifo.nextFrame) (stillPart_endEvent u)

theorem numbers_closedFrames (s : State) : (closedFrames s).map ForwardedFrame.number = s.fifo.frames.map ForwardedFrame.number := by
  unfold closedFrames
  split
  · rw [List.map_map]
    refine List.map_congr_left fun g _ => ?_
    dsimp only [Function.comp]
    split <;> rfl
  · rfl

/-- The frames after an opening, in the words of the obligation: u is the state in which the frame opens. -/
theorem opens_endEvent {s u : State} (asked : Bool) (counter : Half) (locked : u.out.locked = s.out.locked)
    (settings : u.settings = s.settings) (frames : u.fifo.frames = closedFrames s) (nextFrame : u.fifo.nextFrame = s.fifo.nextFrame) :
    let t := endEvent (opening asked counter u)
    let opened := asked && s.out.locked
    t.fifo.nextFrame = s.fifo.nextFrame + boolCode opened
      ∧ AtMostFirstEnded t.out.inProgress (s.fifo.frames.map ForwardedFrame.number ++ if opened then [s.fifo.nextFrame] else [])
        (t.fifo.frames.map ForwardedFrame.number)
      ∧ (opened = true → ∃ begun, t.fifo.frames.getLast? = some {
          number := s.fifo.nextFrame, frameId := counter.toNat, width := s.settings.width, height := s.settings.height,
          startBegun := begun, linesSent := 0, isOpen := true, truncated := false }
        ∧ (begun = true → ∃ frameId width height, t.out.inProgress = some (.rawStart s.fifo.nextFrame frameId width height))) := by
  intro t opened
  have numbers : (opening asked counter u).fifo.frames.map ForwardedFrame.number
      = s.fifo.frames.map ForwardedFrame.number ++ if opened then [s.fifo.nextFrame] else [] := by
    rw [opening_form]
    show (u.fifo.frames ++ if asked && u.out.locked then [newFrame counter u] else []).map ForwardedFrame.number = _
    rw [List.map_append, frames, numbers_closedFrames, locked, ← nextFrame]
    by_cases yes : opened = true
    · rw [if_pos yes, if_pos yes]
      rfl
    · rw [if_neg yes, if_neg yes]
      rfl
  refine ⟨?_, ?_, fun yes => ?_⟩
  · rw [nextFrame_endEvent, opening_form]
    show u.fifo.nextFrame + boolCode (asked && u.out.locked) = _
    rw [nextFrame, locked]
  · rw [← numbers]
    exact frames_endEvent (fun _ _ => rfl) _
  · have last : (opening asked counter u).fifo.frames = closedFrames s ++ [newFrame counter u] := by
      rw [opening_form]
      show (u.fifo.frames ++ if asked && u.out.locked then [newFrame counter u] else []) = _
      rw [locked, if_pos yes, frames]
    obtain ⟨begun, newest, started⟩ := endEvent_newest last rfl
    refine ⟨begun, ?_, fun b => ?_⟩
    · rw [newest, ← nextFrame, ← settings]
      rfl
    · rw [← nextFrame]
      exact started b

/-- The forwarded frame of the frame that this FRAME_START ends is closed to new lines (R48, R51, R61). -/
theorem frames_opening_closed {s u : State} {asked : Bool} {counter : Half} (frames : u.fifo.frames = closedFrames s)
    (nextFrame : u.fifo.nextFrame = s.fifo.nextFrame) {g : ForwardedFrame} (held : g ∈ (endEvent (opening asked counter u)).fifo.frames)
    (mine : s.link.forwarding = .frame g.number) (old : g.number < s.fifo.nextFrame) : g.isOpen = false := by
  obtain ⟨g', there, number, isOpen⟩ := frame_of_endEvent held
  rw [opening_form] at there
  rcases List.mem_append.mp there with before | new
  · rw [frames] at before
    rw [← isOpen]
    exact closedFrames_closed before (by rw [number]; exact mine)
  · split at new
    · rw [List.mem_singleton.mp new] at number
      rw [← number, ← nextFrame] at old
      exact absurd old (Nat.lt_irrefl _)
    · exact absurd new (List.not_mem_nil)

theorem beginStray_eq (counter : Half) (s : State) : beginStray counter s = opening s.params.strayForward counter { s with
    link := { s.link with frame := .stray, strayCount := (s.link.strayCount + 1) % 65536, forwarding := .no } } := rfl

/-- The obligation's words for a stray frame that has begun. -/
def StrayBegun (counter : Half) (s t : State) : Prop :=
  let opened := s.params.strayForward && s.out.locked
  t.link.frame = .stray ∧ t.link.strayCount = (s.link.strayCount + 1) % 65536 ∧ t.link.readout = none
    ∧ t.link.forwarding = (if s.params.strayForward then forwardingAs s else .no) ∧ t.link.rowMap = s.link.rowMap
    ∧ t.fifo.entries = s.fifo.entries ∧ t.fifo.nextFrame = s.fifo.nextFrame + boolCode opened
    ∧ AtMostFirstEnded t.out.inProgress (s.fifo.frames.map ForwardedFrame.number ++ if opened then [s.fifo.nextFrame] else [])
      (t.fifo.frames.map ForwardedFrame.number)
    ∧ (opened = true → ∃ begun, t.fifo.frames.getLast? = some {
        number := s.fifo.nextFrame, frameId := counter.toNat, width := s.settings.width, height := s.settings.height,
        startBegun := begun, linesSent := 0, isOpen := true, truncated := false }
      ∧ (begun = true → ∃ frameId width height, t.out.inProgress = some (.rawStart s.fifo.nextFrame frameId width height)))

/-- A stray frame that begins where u has ended the frame in progress, its readout with it where there was one (R48, R51). -/
theorem strayBegun_endEvent {s u : State} (counter : Half) (locked : u.out.locked = s.out.locked) (settings : u.settings = s.settings)
    (frames : u.fifo.frames = closedFrames s) (nextFrame : u.fifo.nextFrame = s.fifo.nextFrame) (params : u.params = s.params)
    (readout : u.link.readout = none) (strayCount : u.link.strayCount = s.link.strayCount) (rowMap : u.link.rowMap = s.link.rowMap)
    (entries : u.fifo.entries = s.fifo.entries) : StrayBegun counter s (endEvent (beginStray counter u)) := by
  let v : State := { u with link := { u.link with frame := .stray, strayCount := (u.link.strayCount + 1) % 65536, forwarding := .no } }
  have begun : beginStray counter u = opening s.params.strayForward counter v :=
    (beginStray_eq counter u).trans (by rw [← params])
  rw [begun]
  have opens := opens_endEvent (s := s) (u := v) s.params.strayForward counter locked settings frames nextFrame
  obtain ⟨-, -, -, -, -, link, -, -, -, -, -, -, -, -, -, -, -, entries', -⟩ := endEvent_fields (opening s.params.strayForward counter v)
  have form := opening_form s.params.strayForward counter v
  have entries'' := entries'.trans (congrArg (fun w : State => w.fifo.entries) form)
  have link' := link.trans (congrArg State.link form)
  refine ⟨congrArg LinkReceiver.frame link', (congrArg LinkReceiver.strayCount link').trans (congrArg (fun n => (n + 1) % 65536) strayCount),
    (congrArg LinkReceiver.readout link').trans readout, (congrArg LinkReceiver.forwarding link').trans ?_,
    (congrArg LinkReceiver.rowMap link').trans rowMap, entries''.trans entries, opens⟩
  unfold forwardingAs
  show (if s.params.strayForward then (if u.out.locked then Forwarding.frame u.fifo.nextFrame else .abandoned) else .no) = _
  rw [locked, nextFrame]

theorem exec_frameStart {s : State} (counter : Half) (locked : s.link.locked = true) :
    (s.link.readout = none → exec (.frameStart counter) s = .next (endEvent (beginStray counter (endFrame s))))
      ∧ ∀ rd, s.link.readout = some rd →
        (rd.seenFrame = true → exec (.frameStart counter) s = .next (endEvent (beginStray counter (endReadout s))))
        ∧ (rd.seenFrame = false → exec (.frameStart counter) s = .next (endEvent (beginSubframe counter rd (endFrame s)))) := by
  have runs : exec (.frameStart counter) s = .next (endEvent (takeFrameStart counter s)) := by
    change execFrameStart counter s = _
    exact if_pos locked
  rw [runs]
  unfold takeFrameStart
  refine ⟨fun closed => by rw [closed], fun rd opened => ⟨fun seen => ?_, fun unseen => ?_⟩⟩
  · rw [opened]
    exact congrArg (fun u => Host.Outcome.next (endEvent u)) (if_pos seen)
  · rw [opened]
    exact congrArg (fun u => Host.Outcome.next (endEvent u)) (if_neg (ne_true_of_eq_false unseen))

/-- The open record at the FRAME_START of its light frame: its exposure decided, its scale computed (R38, R76). -/
def litRecord (s : State) (q : SubframeRecord) : SubframeRecord :=
  let timed := if s.meas.armed then exposureDecided s.seq.lineTime s q else q
  { timed with
    scale := scaleOf s.tables.darkModel.seen s.cal (timed.exposedUs.getD 0) timed.temperature,
    scaleSaturated := scaleSaturates s.tables.darkModel.seen s.cal (timed.exposedUs.getD 0) timed.temperature }

/-- What a light FRAME_START changes: the record, the Measurement Timer's arming and the scale. -/
theorem lightFrameStart_form (s : State) : ∃ scale, lightFrameStart s = { s with
    log.openRecord := s.log.openRecord.map (litRecord s), meas.armed := false, cal.scale := scale } := by
  unfold lightFrameStart litRecord
  rw [decideExposure_eq]
  cases armed : s.meas.armed with
  | true =>
    cases record : s.log.openRecord with
    | none => exact ⟨s.cal.scale, rfl⟩
    | some q => exact ⟨_, rfl⟩
  | false =>
    have off : s.meas = { s.meas with armed := false } := by rw [← armed]
    cases record : s.log.openRecord with
    | none =>
      refine ⟨s.cal.scale, ?_⟩
      rw [if_neg Bool.false_ne_true]
      unfold computeScale
      rw [record]
      show s = { s with meas := { s.meas with armed := false }, log := { s.log with openRecord := none } }
      rw [← off, ← record]
    | some q =>
      refine ⟨scaleOf s.tables.darkModel.seen s.cal (q.exposedUs.getD 0) q.temperature, ?_⟩
      rw [if_neg Bool.false_ne_true]
      unfold computeScale onRecord
      rw [record]
      dsimp only
      rw [← off, record, Option.map_some, Option.map_some, if_neg Bool.false_ne_true]

/-- The subframe frame has begun, and its forwarded frame has not opened yet (R38, R48, R76). -/
def subframeBegun (counter : Half) (r : Readout) (s : State) : State :=
  let begun := onRecord (fun q => { q with frameCounter := some counter })
    { endFrame s with link.frame := .subframe, link.lastRow := none, link.readout := some { r with seenFrame := true } }
  match r.kind with
  | .light => lightFrameStart begun
  | .dark => begun

/-- The FRAME_START of the subframe frame leaves everything but its link, its record, its exposure and its scale (R48). -/
theorem subframeBegun_form (counter : Half) (r : Readout) (s : State) : ∃ scale, subframeBegun counter r s = { s with
    link := { s.link with
      frame := .subframe, lastRow := none, readout := some { r with seenFrame := true }, forwarding := .no },
    fifo.frames := closedFrames s,
    log.openRecord := s.log.openRecord.map fun q =>
      let counted := { q with frameCounter := some counter }
      if r.kind = .light then litRecord s counted else counted,
    meas.armed := if r.kind = .light then false else s.meas.armed,
    cal.scale := scale } := by
  unfold subframeBegun
  rw [endFrame_eq]
  obtain ⟨kind, forward, seen⟩ := r
  cases kind with
  | light =>
    obtain ⟨scale, form⟩ := lightFrameStart_form (onRecord (fun q => { q with frameCounter := some counter })
      { s with
        link := { s.link with frame := .subframe, lastRow := none, readout := some ⟨.light, forward, true⟩, forwarding := .no },
        fifo.frames := closedFrames s })
    refine ⟨scale, form.trans ?_⟩
    cases record : s.log.openRecord with
    | none => rw [onRecord, record]; rfl
    | some q => rw [onRecord, record]; rfl
  | dark => exact ⟨s.cal.scale, rfl⟩

/-- What opening a frame leaves of everything but the frames and the receiver's own forwarding. -/
theorem opening_kept (asked : Bool) (counter : Half) (u : State) :
    { opening asked counter u with fifo := u.fifo, link := u.link } = u := by rw [opening_form]

theorem opening_sameBus (asked : Bool) (counter : Half) (u : State) : SameBus u (opening asked counter u) := by
  rw [opening_form]
  exact ⟨rfl, rfl, rfl, rfl⟩

theorem strayBegun_endFrame (counter : Half) {s : State} (closed : s.link.readout = none) :
    StrayBegun counter s (endEvent (beginStray counter (endFrame s))) := by
  rw [endFrame_eq]
  exact strayBegun_endEvent counter rfl rfl rfl rfl rfl closed rfl rfl rfl

theorem strayBegun_endReadout (counter : Half) (s : State) : StrayBegun counter s (endEvent (beginStray counter (endReadout s))) := by
  have form := (endReadout_eq s).trans (arbitrate_form (readoutClosed s))
  have e := fun {α : Type} (f : State → α) => congrArg f form
  exact strayBegun_endEvent counter (e (·.out.locked)) (e (·.settings)) (e (·.fifo.frames)) (e (·.fifo.nextFrame)) (e (·.params))
    (e (·.link.readout)) (e (·.link.strayCount)) (e (·.link.rowMap)) (e (·.fifo.entries))

/-- The registers that no FRAME_START moves, and the forwarded frame of the frame it ends. -/
structure FrameStartKeeps (s t : State) : Prop where
  plane : t.plane = s.plane
  arb : t.arb = s.arb
  trails : t.trails = s.trails
  tables : t.tables = s.tables
  closed : t.log.closed = s.log.closed
  closes : ∀ g ∈ t.fifo.frames, s.link.forwarding = .frame g.number → g.number < s.fifo.nextFrame → g.isOpen = false

theorem frameStartKeeps {s u : State} {asked : Bool} {counter : Half} (plane : u.plane = s.plane) (arb : u.arb = s.arb)
    (trails : u.trails = s.trails) (tables : u.tables = s.tables) (closed : u.log.closed = s.log.closed)
    (frames : u.fifo.frames = closedFrames s) (nextFrame : u.fifo.nextFrame = s.fifo.nextFrame) :
    FrameStartKeeps s (endEvent (opening asked counter u)) := by
  obtain ⟨-, log, -, -, -, -, -, plane', arb', trails', -, tables', -⟩ := endEvent_fields (opening asked counter u)
  have k := fun {α : Type} (f : State → α) => congrArg f (opening_kept asked counter u)
  exact ⟨(plane'.trans (k (·.plane))).trans plane, (arb'.trans (k (·.arb))).trans arb, (trails'.trans (k (·.trails))).trans trails,
    (tables'.trans (k (·.tables))).trans tables, ((congrArg SubframeLog.closed log).trans (k (·.log.closed))).trans closed,
    fun _ held mine old => frames_opening_closed frames nextFrame held mine old⟩

/-- A FRAME_START with no readout open begins a stray frame and moves nothing else (R51). -/
theorem frameStart_stray (counter : Half) {s : State} (closed : s.link.readout = none) :
    let t := endEvent (beginStray counter (endFrame s))
    FrameStartKeeps s t ∧ StrayBegun counter s t ∧ t.seq = s.seq ∧ t.log = s.log ∧ SameBus s t := by
  intro t
  have begun := strayBegun_endFrame counter closed
  obtain ⟨seq, log, -⟩ := endEvent_fields (beginStray counter (endFrame s))
  have bus := (ends_endEvent (beginStray counter (endFrame s))).sameBus
  have k := opening_sameBus s.params.strayForward counter { endFrame s with
    link := { (endFrame s).link with frame := .stray, strayCount := ((endFrame s).link.strayCount + 1) % 65536, forwarding := .no } }
  have keeps : FrameStartKeeps s t := by
    show FrameStartKeeps s (endEvent (beginStray counter (endFrame s)))
    rw [beginStray_eq, endFrame_eq]
    exact frameStartKeeps rfl rfl rfl rfl rfl rfl rfl
  have seqLog : (beginStray counter (endFrame s)).seq = s.seq ∧ (beginStray counter (endFrame s)).log = s.log
      ∧ SameBus s (beginStray counter (endFrame s)) := by
    rw [beginStray_eq, endFrame_eq, opening_form]
    exact ⟨rfl, rfl, rfl, rfl, rfl, rfl⟩
  exact ⟨keeps, begun, seq.trans seqLog.1, log.trans seqLog.2.1, seqLog.2.2.trans bus⟩

/-- A second FRAME_START within a readout ends it, and begins a stray frame (R48, R55). -/
theorem frameStart_second (counter : Half) (s : State) :
    let t := endEvent (beginStray counter (endReadout s))
    FrameStartKeeps s t ∧ StrayBegun counter s t ∧ t.seq.phase = .settle ∧ t.seq.readoutTimer = none ∧ t.link.lastRow = none
      ∧ ReadoutFreesBus s t := by
  intro t
  have form := (endReadout_eq s).trans (arbitrate_form (readoutClosed s))
  have e := fun {α : Type} (f : State → α) => congrArg f form
  have begun : beginStray counter (endReadout s) = opening (endReadout s).params.strayForward counter { endReadout s with
      link := { (endReadout s).link with
        frame := .stray, strayCount := ((endReadout s).link.strayCount + 1) % 65536, forwarding := .no } } := rfl
  have keeps : FrameStartKeeps s t := by
    show FrameStartKeeps s (endEvent (beginStray counter (endReadout s)))
    rw [begun]
    exact frameStartKeeps (e (·.plane)) (e (·.arb)) (e (·.trails)) (e (·.tables)) (e (·.log.closed)) (e (·.fifo.frames))
      (e (·.fifo.nextFrame))
  obtain ⟨seq, -, -, -, -, link, -⟩ := endEvent_fields (beginStray counter (endReadout s))
  have seq' : (beginStray counter (endReadout s)).seq = (endReadout s).seq := by rw [begun, opening_form]
  have lastRow : (beginStray counter (endReadout s)).link.lastRow = (endReadout s).link.lastRow := by rw [begun, opening_form]
  have bus : SameBus (endReadout s) (beginStray counter (endReadout s)) := by
    rw [begun, opening_form]
    exact ⟨rfl, rfl, rfl, rfl⟩
  exact ⟨keeps, strayBegun_endReadout counter s, (congrArg Sequencer.phase (seq.trans seq')).trans (e (·.seq.phase)),
    (congrArg Sequencer.readoutTimer (seq.trans seq')).trans (e (·.seq.readoutTimer)),
    ((congrArg LinkReceiver.lastRow link).trans lastRow).trans (e (·.link.lastRow)),
    (readoutFreesBus (.refl _)).trans (bus.trans (ends_endEvent _).sameBus)⟩

/-- The first FRAME_START of a readout begins the subframe frame (R38, R48, R61, R76). -/
theorem frameStart_first (counter : Half) (s : State) (rd : Readout) :
    let t := endEvent (beginSubframe counter rd (endFrame s))
    let opened := rd.forward && s.out.locked
    FrameStartKeeps s t
      ∧ t.link = { s.link with
        frame := .subframe, lastRow := none, readout := some { rd with seenFrame := true },
        forwarding := if rd.forward then forwardingAs s else .no }
      ∧ t.seq = s.seq ∧ t.fifo.entries = s.fifo.entries ∧ SameBus s t
      ∧ (t.fifo.nextFrame = s.fifo.nextFrame + boolCode opened
        ∧ AtMostFirstEnded t.out.inProgress (s.fifo.frames.map ForwardedFrame.number ++ if opened then [s.fifo.nextFrame] else [])
          (t.fifo.frames.map ForwardedFrame.number)
        ∧ (opened = true → ∃ begun, t.fifo.frames.getLast? = some {
            number := s.fifo.nextFrame, frameId := counter.toNat, width := s.settings.width, height := s.settings.height,
            startBegun := begun, linesSent := 0, isOpen := true, truncated := false }
          ∧ (begun = true → ∃ frameId width height, t.out.inProgress = some (.rawStart s.fifo.nextFrame frameId width height))))
      ∧ t.log.openRecord = s.log.openRecord.map (fun q =>
        let counted := { q with frameCounter := some counter }
        if rd.kind = .light then litRecord s counted else counted)
      ∧ t.meas = { s.meas with armed := if rd.kind = .light then false else s.meas.armed } := by
  intro t opened
  obtain ⟨scale, form⟩ := subframeBegun_form counter rd s
  have e := fun {α : Type} (f : State → α) => congrArg f form
  have run := opening_form rd.forward counter (subframeBegun counter rd s)
  have k := fun {α : Type} (f : State → α) => congrArg f (opening_kept rd.forward counter (subframeBegun counter rd s))
  have begun : t = endEvent (opening rd.forward counter (subframeBegun counter rd s)) := rfl
  have bus : SameBus s (subframeBegun counter rd s) := by rw [form]; exact ⟨rfl, rfl, rfl, rfl⟩
  rw [begun]
  obtain ⟨seq, log, meas, -, -, link, -, -, -, -, -, -, -, -, -, -, -, entries, -⟩ :=
    endEvent_fields (opening rd.forward counter (subframeBegun counter rd s))
  refine ⟨frameStartKeeps (e (·.plane)) (e (·.arb)) (e (·.trails)) (e (·.tables)) (e (·.log.closed)) (e (·.fifo.frames)) (e (·.fifo.nextFrame)),
    ?_, (seq.trans (k (·.seq))).trans (e (·.seq)), (entries.trans (congrArg (fun w : State => w.fifo.entries) run)).trans (e (·.fifo.entries)),
    (bus.trans (opening_sameBus _ _ _)).trans (ends_endEvent _).sameBus,
    opens_endEvent rd.forward counter (e (·.out.locked)) (e (·.settings)) (e (·.fifo.frames)) (e (·.fifo.nextFrame)),
    ((congrArg SubframeLog.openRecord log).trans (k (·.log.openRecord))).trans (e (·.log.openRecord)),
    (meas.trans (k (·.meas))).trans (e (·.meas))⟩
  rw [link, run]
  show { (subframeBegun counter rd s).link with
    forwarding := if rd.forward then forwardingAs (subframeBegun counter rd s) else (subframeBegun counter rd s).link.forwarding } = _
  rw [form]
  rfl

/-- Settles O45: the three readout cases of R48 (frameStart_stray, frameStart_second, frameStart_first). -/
theorem frameStartBeginsFrame : Obligations.FrameStartBeginsFrame := by
  intro s counter locked
  obtain ⟨loose, opened⟩ := exec_frameStart counter locked
  cases readout : s.link.readout with
  | none =>
    obtain ⟨keeps, stray, rest⟩ := frameStart_stray counter readout
    exact ⟨_, loose readout, keeps.plane, keeps.arb, keeps.trails, keeps.tables, keeps.closed, keeps.closes, fun _ => ⟨stray, rest⟩,
      fun rd held => absurd held nofun, fun rd held => absurd held nofun⟩
  | some r =>
    cases seen : r.seenFrame with
    | true =>
      obtain ⟨keeps, stray, rest⟩ := frameStart_second counter s
      refine ⟨_, (opened r readout).1 seen, keeps.plane, keeps.arb, keeps.trails, keeps.tables, keeps.closed, keeps.closes,
        fun held => absurd held nofun, fun rd held _ => ⟨stray, rest⟩, fun rd held unseen => ?_⟩
      rw [Option.some.inj held, unseen] at seen
      exact absurd seen Bool.false_ne_true
    | false =>
      obtain ⟨keeps, link, seq, entries, bus, opens, record, meas⟩ := frameStart_first counter s r
      refine ⟨_, (opened r readout).2 seen, keeps.plane, keeps.arb, keeps.trails, keeps.tables, keeps.closed, keeps.closes,
        fun held => absurd held nofun, fun rd held unseen => ?_, fun rd held _ => ?_⟩
      · rw [Option.some.inj held, unseen] at seen
        exact absurd seen.symm Bool.false_ne_true
      · obtain rfl := Option.some.inj held
        refine ⟨link, seq, entries, bus, opens, fun q hq => ⟨fun dark => ?_, fun light => ⟨?_, ?_⟩⟩⟩
        · rw [record, hq, meas]
          dsimp only [Option.map_some]
          rw [dark]
          exact ⟨rfl, rfl⟩
        · rw [meas, if_pos light]
        · rw [record, hq, Option.map_some, if_pos light]
          rfl

/-! #### O46: a LINE -/

theorem Memory.read_cons {α : Type} (default v : α) (rest : Memory α) (k b : Nat) :
    Memory.read default ((k, v) :: rest) b = if b = k then v else Memory.read default rest b := by
  show (if k = b then v else Memory.read default rest b) = _
  simp only [eq_comm]

/-- A value other than the default is found again where it was written, whatever the form of the array. -/
theorem Memory.read_write_listed {α : Type} [DecidableEq α] {default v : α} (listed : v ≠ default) (m : Memory α) (a b : Nat) :
    Memory.read default (Memory.write default m a v) b = if b = a then v else Memory.read default m b := by
  induction m with
  | nil => rw [Memory.write, if_neg listed, read_cons]
  | cons e rest ih =>
    obtain ⟨k, w⟩ := e
    unfold Memory.write
    rw [if_neg listed, if_neg listed]
    by_cases before : a < k
    · rw [if_pos before, read_cons]
    · rw [if_neg before]
      by_cases here : a = k
      · rw [if_pos here, read_cons, read_cons, ← here]
        by_cases mine : b = a
        · rw [if_pos mine, if_pos mine]
        · rw [if_neg mine, if_neg mine, if_neg mine]
      · rw [if_neg here, read_cons, read_cons, ih]
        by_cases mine : b = k
        · rw [if_pos mine, if_pos mine, if_neg (by omega)]
        · rw [if_neg mine, if_neg mine]

/-- The row-visited map with count rows lost from first on (R52, R53). -/
def lostMap (first count : Nat) (m : Memory RowState) : Memory RowState :=
  (List.range' first count).foldl (fun m k => Memory.write .unseen m k .lost) m

theorem read_lostMap (first count : Nat) (m : Memory RowState) (k : Nat) :
    Memory.read .unseen (lostMap first count m) k = if first ≤ k ∧ k < first + count then .lost else Memory.read .unseen m k := by
  induction count generalizing first m with
  | zero => rw [if_neg (by omega)]; rfl
  | succ n ih =>
    show Memory.read .unseen (lostMap (first + 1) n (Memory.write .unseen m first .lost)) k = _
    rw [ih, Memory.read_write_listed (v := RowState.lost) (default := .unseen) (fun same => RowState.noConfusion same)]
    by_cases here : k = first
    · rw [if_neg (by omega), if_pos here, if_pos (by omega)]
    · rw [if_neg here]
      by_cases inside : first + 1 ≤ k ∧ k < first + 1 + n
      · rw [if_pos inside, if_pos (by omega)]
      · rw [if_neg inside, if_neg (by omega)]

/-- This many rows more of the open record are lost, width samples each (R52, R57). -/
def recordLoses (rows : Nat) (s : State) : Option SubframeRecord :=
  s.log.openRecord.map fun q => { q with lost := q.lost + rows * s.settings.width }

/-- Rows skipped take no entry: they are lost in the map, and counted (R53). -/
theorem foldl_skipRow (first count : Nat) (s : State) : (List.range' first count).foldl skipRow s = { s with
    log.openRecord := recordLoses count s, link.rowMap := lostMap first count s.link.rowMap } := by
  induction count generalizing first s with
  | zero =>
    unfold recordLoses
    cases record : s.log.openRecord with
    | none => simp [lostMap, ← record]
    | some q => simp [lostMap, ← record]
  | succ n ih =>
    show (List.range' (first + 1) n).foldl skipRow (skipRow s first) = _
    rw [ih]
    have counts : recordLoses n (skipRow s first) = recordLoses (n + 1) s := by
      show (s.log.openRecord.map fun r => { r with lost := r.lost + s.settings.width }).map _ = s.log.openRecord.map _
      rw [Option.map_map]
      congr 1
      funext q
      show { q with lost := q.lost + s.settings.width + n * s.settings.width } = _
      rw [Nat.add_assoc, Nat.succ_mul, Nat.add_comm (n * _)]
    rw [counts]
    rfl

/-- The entry has joined the FIFO where there is room for it (R53, R58). -/
def placedEntry (row : Nat) (pixels : Option (List Nat)) (s : State) : State :=
  if s.fifo.entries.length < 48 then pushed (lineEntry row pixels .subframe s) s else s

/-- The rows that a settled line loses: those it skips, and its own where it has no samples or finds no room (R52, R53). -/
def rowsLost (skipped : Nat) (pixels : Option (List Nat)) (s : State) : Nat :=
  skipped + (if pixels = none ∨ ¬ s.fifo.entries.length < 48 then 1 else 0)

/-- The row has been settled, the rows it skips before it, and the readout has not been looked at yet (R52, R53). -/
def rowSettled (row skipped : Nat) (pixels : Option (List Nat)) (s : State) : State :=
  { s with
    fifo := (placedEntry row pixels s).fifo,
    log.openRecord := recordLoses (rowsLost skipped pixels s) s,
    link := { s.link with
      forwarding := (placedEntry row pixels s).link.forwarding, lastRow := some row,
      rowMap := Memory.write .unseen (lostMap (nextRow s) skipped s.link.rowMap) row
        (if s.fifo.entries.length < 48 then .queued else .lost) } }

/-- A row settled, and the readout ended behind the last one (R53). -/
def lineSettled (row skipped : Nat) (pixels : Option (List Nat)) (s : State) : State :=
  if row + 1 = s.settings.height then endReadout (rowSettled row skipped pixels s) else rowSettled row skipped pixels s

theorem recordLoses_more (n : Nat) (s : State) : (recordLoses n s).map (fun r => { r with lost := r.lost + s.settings.width })
    = recordLoses (n + 1) s := by
  unfold recordLoses
  rw [Option.map_map]
  congr 1
  funext q
  show { q with lost := q.lost + n * s.settings.width + s.settings.width } = _
  rw [Nat.add_assoc, ← Nat.succ_mul]

/-- settleRow, on the state its skipped rows and its own loss leave. -/
theorem settleRow_eq (row skipped : Nat) (pixels : Option (List Nat)) (s : State) :
    settleRow row pixels ((if pixels = none then loseRow else id) ((List.range' (nextRow s) skipped).foldl skipRow s))
      = lineSettled row skipped pixels s := by
  have placed : { placeRow row pixels ((if pixels = none then loseRow else id) ((List.range' (nextRow s) skipped).foldl skipRow s)) with
      link.lastRow := some row } = rowSettled row skipped pixels s := by
    rw [foldl_skipRow]
    unfold placeRow rowSettled placedEntry rowsLost fifoHasRoom
    cases pixels with
    | none =>
      rw [if_pos rfl, if_pos (Or.inl rfl), ← recordLoses_more]
      by_cases room : s.fifo.entries.length < 48
      · rw [if_pos (decide_eq_true (by exact room)), pushEntry_eq, if_pos room, if_pos room]
        rfl
      · rw [if_neg (by exact ne_true_of_eq_false (decide_eq_false room)), if_neg room, if_neg room]
        rfl
    | some samples =>
      rw [if_neg (Option.some_ne_none samples)]
      by_cases room : s.fifo.entries.length < 48
      · rw [if_pos (decide_eq_true (by exact room)), pushEntry_eq, if_pos room, if_pos room, if_neg (by simpa using room)]
        rfl
      · rw [if_neg (by exact ne_true_of_eq_false (decide_eq_false room)), if_neg room, if_neg room, if_pos (.inr room),
          ← recordLoses_more]
        rfl
  have height : ((if pixels = none then loseRow else id) ((List.range' (nextRow s) skipped).foldl skipRow s)).settings = s.settings := by
    rw [foldl_skipRow]
    split <;> rfl
  unfold settleRow lineSettled
  rw [placed, height]

/-! What a settled line leaves, at the end of its event. -/

/-- A frame's number and its truncation. -/
def frameKey (g : ForwardedFrame) : Nat × Bool := (g.number, g.truncated)

theorem keys_closedFrames (s : State) : (closedFrames s).map frameKey = s.fifo.frames.map frameKey := by
  unfold closedFrames
  split
  · rw [List.map_map]
    refine List.map_congr_left fun g _ => ?_
    dsimp only [Function.comp]
    split <;> rfl
  · rfl

theorem endReadout_kept (s : State) : (endReadout s).fifo = { s.fifo with frames := closedFrames s } ∧ (endReadout s).plane = s.plane
    ∧ (endReadout s).arb = s.arb ∧ (endReadout s).cal = s.cal ∧ (endReadout s).trails = s.trails
    ∧ (endReadout s).link = { s.link with readout := none, lastRow := none, frame := .none, forwarding := .no }
    ∧ (endReadout s).seq.phase = .settle
    ∧ (endReadout s).log.openRecord = if s.meas.armed then s.log.openRecord.map (exposureDecided s.seq.lineTime s) else s.log.openRecord := by
  have form := (endReadout_eq s).trans (arbitrate_form (readoutClosed s))
  have e := fun {α : Type} (f : State → α) => congrArg f form
  exact ⟨e (·.fifo), e (·.plane), e (·.arb), e (·.cal), e (·.trails), e (·.link), e (·.seq.phase), e (·.log.openRecord)⟩

/-- The decision of an exposure counts no sample. -/
theorem exposureDecided_counts (lineTime : Nat) (s : State) (q : SubframeRecord) :
    (exposureDecided lineTime s q).lost = q.lost ∧ (exposureDecided lineTime s q).extraLines = q.extraLines := by
  unfold exposureDecided
  split <;> exact ⟨rfl, rfl⟩

theorem endReadout_record {s : State} {q : SubframeRecord} (record : s.log.openRecord = some q) :
    ∃ q', (endReadout s).log.openRecord = some q' ∧ q'.lost = q.lost ∧ q'.extraLines = q.extraLines := by
  obtain ⟨-, -, -, -, -, -, -, same⟩ := endReadout_kept s
  rw [same, record]
  by_cases armed : s.meas.armed = true
  · rw [if_pos armed]
    exact ⟨_, rfl, exposureDecided_counts _ _ _⟩
  · rw [if_neg armed]
    exact ⟨q, rfl, rfl, rfl⟩

section
variable (row skipped : Nat) (pixels : Option (List Nat)) (s : State)

/-- The lists and units of a settled line, whether or not it was the last. -/
theorem lineSettled_kept :
    (lineSettled row skipped pixels s).fifo.entries = (placedEntry row pixels s).fifo.entries
      ∧ (lineSettled row skipped pixels s).fifo.nextEntry = (placedEntry row pixels s).fifo.nextEntry
      ∧ (lineSettled row skipped pixels s).fifo.frames.map frameKey = (placedEntry row pixels s).fifo.frames.map frameKey
      ∧ (lineSettled row skipped pixels s).link.rowMap = (rowSettled row skipped pixels s).link.rowMap
      ∧ (lineSettled row skipped pixels s).plane = s.plane ∧ (lineSettled row skipped pixels s).arb = s.arb
      ∧ (lineSettled row skipped pixels s).cal = s.cal ∧ (lineSettled row skipped pixels s).trails = s.trails := by
  unfold lineSettled
  split
  · obtain ⟨fifo, plane, arb, cal, trails, link, -⟩ := endReadout_kept (rowSettled row skipped pixels s)
    rw [fifo, plane, arb, cal, trails, link]
    exact ⟨rfl, rfl, keys_closedFrames _, rfl, rfl, rfl, rfl, rfl⟩
  · exact ⟨rfl, rfl, rfl, rfl, rfl, rfl, rfl, rfl⟩

theorem lineSettled_record {q : SubframeRecord} (record : s.log.openRecord = some q) :
    ∃ q', (lineSettled row skipped pixels s).log.openRecord = some q'
      ∧ q'.lost = q.lost + rowsLost skipped pixels s * s.settings.width ∧ q'.extraLines = q.extraLines := by
  have settled : (rowSettled row skipped pixels s).log.openRecord
      = some { q with lost := q.lost + rowsLost skipped pixels s * s.settings.width } := by
    show recordLoses _ s = _
    unfold recordLoses
    rw [record]
    rfl
  unfold lineSettled
  split
  · exact endReadout_record settled
  · exact ⟨_, settled, rfl, rfl⟩

theorem lineSettled_rows (k : Nat) : rowState (endEvent (lineSettled row skipped pixels s)) k =
    if k = row then (if s.fifo.entries.length < 48 then .queued else .lost)
    else if nextRow s ≤ k ∧ k < nextRow s + skipped then .lost else rowState s k := by
  obtain ⟨-, -, -, -, -, link, -⟩ := endEvent_fields (lineSettled row skipped pixels s)
  obtain ⟨-, -, -, rowMap, -⟩ := lineSettled_kept row skipped pixels s
  have listed : (if s.fifo.entries.length < 48 then RowState.queued else .lost) ≠ .unseen := by
    split <;> exact fun same => RowState.noConfusion same
  unfold rowState
  rw [link, rowMap]
  show Memory.read .unseen (Memory.write .unseen (lostMap (nextRow s) skipped s.link.rowMap) row _) k = _
  rw [Memory.read_write_listed listed, read_lostMap]

/-- A pushed entry of the subframe is the newest, whatever leaves the FIFO behind it (R58, R60, R62). -/
theorem pushed_newest {e : FifoEntry} (waits : e.ingestDone = false) :
    ∃ e' : FifoEntry, (pushed e s).fifo.entries.getLast? = some e' ∧ e'.row = e.row ∧ e'.pixels = e.pixels ∧ e'.cls = e.cls
      ∧ e'.ingestDone = false ∧ (pushed e s).fifo.entries.length ≤ s.fifo.entries.length + 1 := by
  have kept : ∀ (older : List FifoEntry) (g : FifoEntry), g.ingestDone = false →
      ((older ++ [g]).dropWhile fun x => x.ingestDone && decide (x.forward ≠ .pending)).getLast? = some g := by
    intro older g held
    induction older with
    | nil => simp [held]
    | cons x xs ih =>
      rw [List.cons_append, List.dropWhile_cons]
      split
      · exact ih
      · rw [← List.cons_append, List.getLast?_concat]
  have shorter : ∀ l : List FifoEntry, (l.dropWhile fun x => x.ingestDone && decide (x.forward ≠ .pending)).length ≤ l.length :=
    fun l => (List.dropWhile_sublist _).length_le
  unfold pushed
  dsimp only
  split
  · rw [List.map_append, List.map_singleton]
    refine ⟨_, kept _ _ ?_, ?_, ?_, ?_, ?_, ?_⟩
    · split <;> exact waits
    · split <;> rfl
    · split <;> rfl
    · split <;> rfl
    · split <;> exact waits
    · refine (shorter _).trans ?_
      simp
  · refine ⟨e, kept _ _ waits, rfl, rfl, rfl, waits, (shorter _).trans ?_⟩
    simp

theorem placedEntry_newest (room : s.fifo.entries.length < 48) :
    ∃ e : FifoEntry, (placedEntry row pixels s).fifo.entries.getLast? = some e ∧ e.row = row ∧ e.pixels = pixels ∧ e.cls = .subframe
      ∧ e.ingestDone = false ∧ (placedEntry row pixels s).fifo.entries.length ≤ s.fifo.entries.length + 1 := by
  unfold placedEntry
  rw [if_pos room]
  exact pushed_newest s rfl

/-- A line that is not the last leaves the readout open, and the bridge alone. -/
theorem lineSettled_goesOn (more : row + 1 ≠ s.settings.height) :
    let t := endEvent (lineSettled row skipped pixels s)
    t.link.lastRow = some row ∧ t.seq = s.seq ∧ t.link.readout = s.link.readout
      ∧ t.link.forwarding = (placedEntry row pixels s).link.forwarding ∧ SameBus s t := by
  have stays : lineSettled row skipped pixels s = rowSettled row skipped pixels s := if_neg more
  dsimp only
  rw [stays]
  obtain ⟨seq, -, -, -, -, link, -⟩ := endEvent_fields (rowSettled row skipped pixels s)
  have bus : SameBus s (rowSettled row skipped pixels s) := ⟨rfl, rfl, rfl, rfl⟩
  rw [link, seq]
  exact ⟨rfl, rfl, rfl, rfl, bus.trans (ends_endEvent _).sameBus⟩

/-- The last line ends the readout, and serves the bus (R53, R153). -/
theorem lineSettled_last (last : row + 1 = s.settings.height) :
    let t := endEvent (lineSettled row skipped pixels s)
    t.seq.phase = .settle ∧ t.link.readout = none ∧ t.link.frame = .none ∧ t.link.forwarding = .no ∧ ReadoutFreesBus s t := by
  have ends : lineSettled row skipped pixels s = endReadout (rowSettled row skipped pixels s) := if_pos last
  dsimp only
  rw [ends]
  obtain ⟨seq, -, -, -, -, link, -⟩ := endEvent_fields (endReadout (rowSettled row skipped pixels s))
  obtain ⟨-, -, -, -, -, link', phase, -⟩ := endReadout_kept (rowSettled row skipped pixels s)
  rw [seq, link, link', phase]
  refine ⟨rfl, rfl, rfl, rfl, _, busServed_iff.mpr rfl, ?_⟩
  rw [endReadout_eq]
  exact sameBus_arbitrate (u := { s with seq.phase := .settle }) (v := readoutClosed (rowSettled row skipped pixels s)) rfl rfl rfl
    (ends_endEvent _)
end

theorem exec_line {s : State} (row : Half) (words : List Half) (crc : Option Half) (locked : s.link.locked = true) :
    exec (.line row words crc) s = .next (endEvent (takeLine row words crc s)) := by
  change execLine row words crc s = _
  exact if_pos locked

/-- A LINE of the subframe frame, by the first case of R52 that applies. -/
theorem subframeLine_cases (row : Nat) (words : List Half) (s : State) :
    subframeLine row words false s = lineSettled (nextRow s) 0 none s
      ∧ (row < nextRow s ∨ s.settings.height ≤ row → subframeLine row words true s = countExtra s)
      ∧ (nextRow s ≤ row → row < s.settings.height → subframeLine row words true s = lineSettled row (row - nextRow s)
        (if words.length = s.settings.width then some (words.map sampleOf) else none) s) := by
  refine ⟨settleRow_eq (nextRow s) 0 none s, fun outOfOrder => ?_, fun order inFrame => ?_⟩
  · unfold subframeLine
    rw [if_neg (by decide), if_pos outOfOrder]
  · unfold subframeLine
    rw [if_neg (by decide), if_neg (by omega), ← settleRow_eq]
    by_cases whole : words.length = s.settings.width
    · rw [if_pos whole, if_neg (Option.some_ne_none _)]
      dsimp only
      rw [if_neg (not_not.mpr whole)]
      rfl
    · rw [if_neg whole, if_pos rfl]
      exact if_pos whole

theorem takeLine_subframe {s : State} {row : Half} {words : List Half} {crc : Option Half} (frame : s.link.frame = .subframe) :
    takeLine row words crc s = subframeLine row.toNat words (decide (crc = some (crc16 (lineBytes row words)))) s := by
  unfold takeLine
  rw [frame]

/-- Settles O46: R52's cases (subframeLine_cases), each of which settles a row as lineSettled says. -/
theorem lineSettlesItsRow : Obligations.LineSettlesItsRow := by
  intro s row words crc locked good next extra samples settles
  have inOrder : nextRow s = next := by
    show nextRow s = (s.link.lastRow.map fun r => r + 1).getD 0
    unfold nextRow
    cases s.link.lastRow <;> rfl
  have settle : ∀ (at_ skipped : Nat) (pixels : Option (List Nat)), at_ = next + skipped →
      exec (.line row words crc) s = .next (endEvent (lineSettled at_ skipped pixels s)) → settles at_ skipped pixels := by
    intro at_ skipped pixels place runs
    obtain ⟨-, log, -, -, -, -, -, plane, arb, trails, -⟩ := endEvent_fields (lineSettled at_ skipped pixels s)
    obtain ⟨-, -, -, -, -, -, cal, -, -, -, -, -, -, -, -, -, -, entries, -⟩ := endEvent_fields (lineSettled at_ skipped pixels s)
    obtain ⟨entries', nextEntry, frames, -, plane', arb', cal', trails'⟩ := lineSettled_kept at_ skipped pixels s
    have nextEntry' : (endEvent (lineSettled at_ skipped pixels s)).fifo.nextEntry = (lineSettled at_ skipped pixels s).fifo.nextEntry :=
      congrArg (a₁ := stillPart (endEvent (lineSettled at_ skipped pixels s))) (a₂ := stillPart (lineSettled at_ skipped pixels s))
        (fun w : State => w.fifo.nextEntry) (stillPart_endEvent _)
    refine ⟨_, runs, fun q record => ?_, fun k => ?_, fun room => ?_, entries.trans entries', nextEntry'.trans nextEntry, ?_,
      lineSettled_goesOn at_ skipped pixels s, lineSettled_last at_ skipped pixels s,
      plane.trans plane', arb.trans arb', cal.trans cal', trails.trans trails'⟩
    · rw [log]
      exact lineSettled_record at_ skipped pixels s record
    · have rows := lineSettled_rows at_ skipped pixels s k
      rw [inOrder, ← place] at rows
      exact rows
    · rw [entries, entries']
      obtain ⟨e, newest, row', pixels', cls, waits, length⟩ := placedEntry_newest at_ pixels s room
      exact ⟨e, newest, row', pixels', cls, waits, length⟩
    · have moved := frames_endEvent (key := frameKey) (fun _ _ => rfl) (lineSettled at_ skipped pixels s)
      rw [frames] at moved
      exact moved
  have stray : s.link.frame = .stray → takeLine row words crc s = strayLine row.toNat words (decide good) s := by
    intro frame
    unfold takeLine
    rw [frame]
  refine ⟨fun frame => ⟨fun bad => ?_, fun intact outOfOrder => ?_, fun intact order inFrame => ?_⟩, fun frame => ?_,
    fun frame => ⟨fun discarded => ?_, fun intact whole forwarded room => ?_⟩⟩
  · refine settle _ 0 none rfl ?_
    rw [exec_line row words crc locked, takeLine_subframe frame, decide_eq_false bad, (subframeLine_cases _ _ _).1, inOrder]
  · rw [exec_line row words crc locked, takeLine_subframe frame, decide_eq_true intact, (subframeLine_cases _ _ _).2.1 (by rw [inOrder]; exact outOfOrder)]
    rfl
  · refine settle _ _ _ (by omega) ?_
    rw [exec_line row words crc locked, takeLine_subframe frame, decide_eq_true intact, (subframeLine_cases _ _ _).2.2 (by rw [inOrder]; exact order) inFrame, inOrder]
    rfl
  · rw [exec_line row words crc locked]
    unfold takeLine looseLine
    rw [frame]
    cases readout : s.link.readout <;> rfl
  · rw [exec_line row words crc locked, stray frame]
    unfold strayLine fifoHasRoom
    rw [if_neg]
    simp only [Bool.and_eq_true, decide_eq_true_eq, not_and]
    intro ⟨⟨intact, whole⟩, forwarded⟩
    rcases discarded with bad | short | unforwarded | full
    · exact absurd intact bad
    · exact absurd whole short
    · exact absurd unforwarded forwarded
    · exact Nat.not_lt.mpr full
  · rw [exec_line row words crc locked, stray frame]
    unfold strayLine fifoHasRoom
    rw [if_pos, pushEntry_eq]
    · rfl
    · simp only [Bool.and_eq_true, decide_eq_true_eq]
      exact ⟨⟨⟨intact, whole⟩, forwarded⟩, room⟩

/-! ### O53: pins and edges -/

/-- A line without its level driven and its timer. -/
def undriven (x : LineState) : LineState := { x with driven := false, minTimer := none }

/-- A line whose timer alone has moved stands for the same, undriven. -/
theorem undriven_set (b : LineBank) (l : LineNo) (timer : Option Nat) :
    (b.set l { b.get l with minTimer := timer }).map (fun _ => undriven) = b.map fun _ => undriven := by
  fin_cases l <;> rfl

/-- A line with no timer follows its source at the end of an event, and a change starts the timer again (R29). -/
theorem driveLine_timer {s : State} {l : LineNo} {x : LineState} {source : LineSource} {minPulse : Nat}
    (use : (lineSetup s l).use = .output source minPulse) (free : x.minTimer = none) :
    (driveLine s l x).minTimer = if sourceLevel s x source = x.driven ∨ minPulse = 0 then none else some (s.now + minPulse) := by
  unfold driveLine
  rw [use]
  dsimp only
  by_cases same : sourceLevel s x source = x.driven
  · rw [if_neg (fun moves => moves.2 same), if_pos (.inl same), free]
  · rw [if_pos ⟨free, same⟩]
    show timerFor s minPulse = _
    unfold timerFor
    by_cases zero : minPulse = 0
    · rw [if_pos zero, if_pos (.inr zero)]
    · rw [if_neg zero, if_neg (fun e => e.elim same zero)]

/-- The expiry of a minimum-pulse timer (R29; log 3). -/
theorem minPulse_ends {s : State} {l : LineNo} {d : Nat} (due : (s.lines.get l).minTimer = some d) : ∃ t,
    exec (.minPulseExpiry l) s = .next t ∧ Ends { s with now := max s.now d } t
      ∧ ∀ source minPulse, (lineSetup s l).use = .output source minPulse →
        (t.lines.get l).driven = sourceLevel t (t.lines.get l) source
        ∧ (t.lines.get l).minTimer = (if sourceLevel s (s.lines.get l) source = (s.lines.get l).driven ∨ minPulse = 0
            then none else some (max s.now d + minPulse)) := by
  let freed : State := { s with now := max s.now d, lines := s.lines.set l { s.lines.get l with minTimer := none } }
  have runs : exec (.minPulseExpiry l) s = .next (endEvent freed) := by
    change execMinPulseExpiry l s = _
    unfold execMinPulseExpiry
    rw [due]
    rfl
  have apart : Ends { s with now := max s.now d } freed := ends_of_lines rfl (undriven_set s.lines l none)
  have line : freed.lines.get l = { s.lines.get l with minTimer := none } := LineBank.get_set _ _ _
  refine ⟨_, runs, apart.endEvent, fun source minPulse use => ?_⟩
  have here : (lineSetup freed l).use = .output source minPulse := use
  rw [lines_endEvent, LineBank.get_map, line]
  constructor
  · rw [driveLine_free here rfl, sourceLevel_endEvent]
    unfold driveLine
    rw [here]
    dsimp only
    split
    · cases source <;> rfl
    · cases source <;> rfl
  · rw [driveLine_timer here rfl]
    cases source <;> rfl

/-! #### An accepted edge -/

/-- The level of the line has been accepted and, with notify on, reported, from the state u (R32, R33). -/
def toldEdge (l : LineNo) (f : LineFunction) (u : State) : State :=
  if (lineSetup u l).notify then
    queueReport .lineChange [byteOf l.val, byteOf f.code, byteOf (boolCode (u.lines.get l).outside),
      byteOf (boolCode ((u.lines.get l).outside ^^ (lineSetup u l).invert))] u
  else u

/-- What an edge's report leaves. -/
theorem toldEdge_kept (l : LineNo) (f : LineFunction) (u : State) : (toldEdge l f u).seq = u.seq ∧ (toldEdge l f u).log = u.log
    ∧ (toldEdge l f u).meas = u.meas ∧ (toldEdge l f u).bridge = u.bridge ∧ (toldEdge l f u).tables = u.tables
    ∧ (toldEdge l f u).params = u.params ∧ (toldEdge l f u).now = u.now := by
  unfold toldEdge
  split
  · rw [queueReport_frame]
    exact ⟨rfl, rfl, rfl, rfl, rfl, rfl, rfl⟩
  · exact ⟨rfl, rfl, rfl, rfl, rfl, rfl, rfl⟩

/-- The level that the outside holds is accepted where it is not the accepted one (R31 to R33). -/
theorem acceptLevel_edge {s : State} {l : LineNo} {f : LineFunction} {debounce : Nat} (use : (lineSetup s l).use = .input f debounce)
    (moved : (s.lines.get l).outside ≠ (s.lines.get l).accepted) :
    let u : State := { s with lines := s.lines.set l { s.lines.get l with accepted := (s.lines.get l).outside } }
    acceptLevel l s = deliverEdge f ((s.lines.get l).outside ^^ (lineSetup s l).invert) (toldEdge l f u) := by
  intro u
  have line : u.lines.get l = { s.lines.get l with accepted := (s.lines.get l).outside } := LineBank.get_set _ _ _
  unfold acceptLevel toldEdge
  dsimp only
  rw [use, line]
  dsimp only
  rw [if_neg moved]
  rfl

theorem acceptLevel_same {s : State} {l : LineNo} {f : LineFunction} {debounce : Nat} (use : (lineSetup s l).use = .input f debounce)
    (same : (s.lines.get l).outside = (s.lines.get l).accepted) : acceptLevel l s = s := by
  unfold acceptLevel
  dsimp only
  rw [use]
  exact if_pos same

theorem LineBank.set_set (b : LineBank) (l : LineNo) (x y : LineState) : (b.set l x).set l y = b.set l y := by
  fin_cases l <;> rfl

theorem exec_pin {s : State} {l : LineNo} {high : Bool} (moves : (s.lines.get l).outside ≠ high) :
    exec (.inputPinChange l high) s = .next (endEvent (changePin l high s)) := by
  change execInputPinChange l high s = _
  exact if_neg moves

theorem exec_debounce {s : State} {l : LineNo} {d : Nat} (due : (s.lines.get l).debounceTimer = some d) :
    exec (.debounceExpiry l) s
      = .next (endEvent (acceptLevel l (setLine l { s.lines.get l with debounceTimer := none } (advanceTo d s)))) := by
  change execDebounceExpiry l s = _
  unfold execDebounceExpiry
  rw [due]

/-- A pin moved on a line without a debounce is judged at once (R31). -/
theorem changePin_now {s : State} {l : LineNo} {f : LineFunction} (high : Bool) (use : (lineSetup s l).use = .input f 0) :
    changePin l high s = acceptLevel l { s with lines := s.lines.set l { s.lines.get l with outside := high } } := by
  unfold changePin
  rw [use]
  exact if_pos rfl

/-- Either way an edge is accepted, it is delivered behind its report. -/
theorem exec_edge {s : State} {l : LineNo} {c : Instr} {u : State} {f : LineFunction} {debounce : Nat}
    (use : (lineSetup s l).use = .input f debounce)
    (how : (∃ high, c = .inputPinChange l high ∧ debounce = 0 ∧ (s.lines.get l).outside ≠ high ∧ (s.lines.get l).accepted ≠ high
        ∧ u = { s with lines := s.lines.set l { s.lines.get l with outside := high, accepted := high } })
      ∨ ∃ d, c = .debounceExpiry l ∧ (s.lines.get l).debounceTimer = some d
        ∧ (s.lines.get l).outside ≠ (s.lines.get l).accepted
        ∧ u = { s with
          now := max s.now d,
          lines := s.lines.set l { s.lines.get l with accepted := (s.lines.get l).outside, debounceTimer := none } }) :
    exec c s = .next (endEvent (deliverEdge f ((u.lines.get l).outside ^^ (lineSetup s l).invert) (toldEdge l f u)))
      ∧ { u with lines := s.lines, now := s.now } = s := by
  rcases how with ⟨high, rfl, rfl, moves, new, rfl⟩ | ⟨d, rfl, due, new, rfl⟩
  · refine ⟨?_, rfl⟩
    have line : ({ s with lines := s.lines.set l { s.lines.get l with outside := high } } : State).lines.get l
        = { s.lines.get l with outside := high } := LineBank.get_set _ _ _
    have edge := acceptLevel_edge (s := { s with lines := s.lines.set l { s.lines.get l with outside := high } }) use
      (by rw [line]; exact fun same => new same.symm)
    rw [exec_pin moves, changePin_now high use, edge, line]
    dsimp only
    rw [LineBank.set_set, LineBank.get_set]
    rfl
  · refine ⟨?_, rfl⟩
    let late : State := { s with now := max s.now d, lines := s.lines.set l { s.lines.get l with debounceTimer := none } }
    have line : late.lines.get l = { s.lines.get l with debounceTimer := none } := LineBank.get_set _ _ _
    have edge := acceptLevel_edge (s := late) (l := l) use (by rw [line]; exact new)
    rw [exec_debounce due]
    show Host.Outcome.next (endEvent (acceptLevel l late)) = _
    rw [edge, line]
    dsimp only
    rw [show late.lines.set l { s.lines.get l with debounceTimer := none, accepted := (s.lines.get l).outside }
      = s.lines.set l { s.lines.get l with accepted := (s.lines.get l).outside, debounceTimer := none } from LineBank.set_set _ _ _ _,
      LineBank.get_set]
    rfl

/-! #### What an accepted edge does (R33, R36, R37) -/

/-- A capture of the Measurement Timer while it is armed (R37). -/
theorem captureEdge_cases (active : Bool) (s : State) :
    (s.meas.armed = true → active = true → s.meas.startCapture = none → captureEdge active s = { s with meas.startCapture := some s.now })
      ∧ (s.meas.armed = true → active = false → s.meas.startCapture ≠ none → s.meas.endCapture = none →
        captureEdge active s = { s with meas.endCapture := some s.now })
      ∧ (s.meas.armed = false ∨ (active = true ∧ s.meas.startCapture ≠ none)
          ∨ (active = false ∧ (s.meas.startCapture = none ∨ s.meas.endCapture ≠ none)) → captureEdge active s = s) := by
  have on : s.meas.armed = true → ¬ (!s.meas.armed) = true := fun armed => by rw [armed]; decide
  unfold captureEdge
  refine ⟨fun armed up first => ?_, fun armed down first last => ?_, fun still => ?_⟩
  · rw [if_neg (on armed), up, first]
  · obtain ⟨k, start⟩ := Option.ne_none_iff_exists'.mp first
    rw [if_neg (on armed), down, start, last]
  · cases armed : s.meas.armed with
    | false => rfl
    | true =>
      rw [if_neg (by decide)]
      rcases still with off | ⟨up, taken⟩ | ⟨down, early | taken⟩
      · exact absurd (armed.symm.trans off) nofun
      · obtain ⟨k, start⟩ := Option.ne_none_iff_exists'.mp taken
        rw [up, start]
      · rw [down, early]
      · obtain ⟨k, stop⟩ := Option.ne_none_iff_exists'.mp taken
        rw [down, stop]
        cases s.meas.startCapture <;> rfl

/-- TRIGGER_IN ends WAIT of an EXTERNAL step alone (R8, R36). -/
theorem awaitsTrigger_iff (s : State) : awaitsTrigger s = true ↔ s.seq.takeState = .running ∧ s.seq.phase = .wait
    ∧ ∃ st, s.tables.plan.seen[s.seq.step]? = some st ∧ st.cadence = .external := by
  unfold awaitsTrigger
  show _ ↔ _ ∧ _ ∧ ∃ st, currentStep s = some st ∧ _
  cases currentStep s with
  | none => simp
  | some st => cases s.seq.takeState <;> cases s.seq.phase <;> simp

section
variable {s u told : State} (seq : told.seq = s.seq) (log : told.log = s.log)
include seq log

/-- The payload of TAKE_STATE is read from registers that the edge's report leaves. -/
theorem payload_same : byteOf told.seq.step :: bytes2 (subframeIndex told) = byteOf s.seq.step :: bytes2 (subframeIndex s) := by
  unfold subframeIndex
  rw [seq, log]

/-- A pause by an edge, at once (R17, R157). -/
theorem pauseTake_told (bridge : told.bridge = s.bridge) (take : s.seq.takeState = .running) (phase : s.seq.phase ∈ [Phase.stepStart, .wait]) :
    Ends (queueReport .takeState (3#8 :: 0#8 :: byteOf s.seq.step :: bytes2 (subframeIndex s)) { told with
      seq := { s.seq with
        takeState := .paused, phase := .none, notStarted := s.seq.notStarted || s.seq.phase = .stepStart,
        settleTimer := none, gapTimer := none, scriptLeft := [] },
      bridge.waitingScript := none, bridge.inFlight := s.bridge.inFlight.map InFlight.unawaited }) (pauseTake told) := by
  have entered := enterTake_ends .paused .none { told with
    seq := { told.seq with
      notStarted := told.seq.notStarted || told.seq.phase = .stepStart, settleTimer := none, gapTimer := none, scriptLeft := [] },
    bridge.waitingScript := none, bridge.inFlight := told.bridge.inFlight.map InFlight.unawaited }
  rw [pauseTake_atOnce (by rw [seq]; exact take) (by rw [seq]; exact phase), cancelWork_eq]
  simp only [TakeState.keepsLevels, Bool.and_true] at entered
  rw [← payload_same seq log, ← seq, ← bridge]
  exact entered

/-- A stop by an edge, at once (R14, R16, R19, R157). -/
theorem stopTake_told (bridge : told.bridge = s.bridge) (take : s.seq.takeState = .running) (phase : s.seq.phase ∈ [Phase.stepStart, .wait]) :
    Ends (queueReport .takeState (4#8 :: 0#8 :: byteOf s.seq.step :: bytes2 (subframeIndex s)) { told with
      seq := { s.seq with
        takeState := .complete, phase := .none, pausePending := false, stopPending := false, finishPending := false,
        shutter := false, stepLevel := false, settleTimer := none, gapTimer := none, scriptLeft := [] },
      bridge.waitingScript := none, bridge.inFlight := s.bridge.inFlight.map InFlight.unawaited }) (stopTake told) := by
  have completed := ((Beside.refl (cancelWork told)).enterComplete).ends
  rw [stopTake_atOnce (by rw [seq]; exact take) (by rw [seq]; exact phase)]
  rw [tookComplete_eq, cancelWork_eq] at completed
  rw [cancelWork_eq, ← payload_same seq log, ← seq, ← bridge]
  exact completed

/-- A stop by an edge in PAUSED (R19). -/
theorem stopTake_toldPaused (take : s.seq.takeState = .paused) :
    Ends (queueReport .takeState (4#8 :: 0#8 :: byteOf s.seq.step :: bytes2 (subframeIndex s)) { told with
      seq := { s.seq with
        takeState := .complete, phase := .none, pausePending := false, stopPending := false, finishPending := false,
        shutter := false, stepLevel := false } }) (stopTake told) := by
  have completed := (Beside.refl told).enterComplete.ends
  rw [tookComplete_eq] at completed
  rw [(stopTake_paused (by rw [seq]; exact take)).1, ← payload_same seq log, ← seq]
  exact completed
end

/-- An exposure begun by a trigger, told behind the edge's report (R8, R9, R36). -/
theorem trigger_exposes {told : State} {st : PlanStep} (here : told.tables.plan.seen[told.seq.step]? = some st) :
    let t := endEvent (enterExpose told)
    t.seq.phase = .expose ∧ t.seq.exposureTimer = some (told.now + st.exposure) ∧ (¬ pollLater st told → t.seq.pollAt = none)
      ∧ t.log = (exposing st told).log ∧ t.meas = (exposing st told).meas ∧ queuedTraffic told <+: queuedTraffic t := by
  intro t
  obtain ⟨seq, log, meas, -⟩ := endEvent_fields (enterExpose told)
  obtain ⟨phase, timer, record, timed, -, poll⟩ := exposed_facts here
  have tells : Tells told t := (tells_enterExpose told).trans (ends_endEvent _).tells
  refine ⟨(congrArg Sequencer.phase seq).trans phase, (congrArg Sequencer.exposureTimer seq).trans timer,
    fun soon => (congrArg Sequencer.pollAt seq).trans (poll soon), log.trans record, meas.trans timed, tells⟩

/-- Settles O53: the timers and the pins of a line, and each function's edge behind its report (exec_edge). -/
theorem pinsAndEdges : Obligations.PinsAndEdges := by
  intro s l
  refine ⟨fun d due => minPulse_ends due, if_pos rfl, fun high source minPulse use moves => ?_, fun high f debounce use long moves => ?_,
    fun high f use moves same => ?_, fun d f debounce use due same => ?_, fun c u f debounce use how => ?_⟩
  · rw [exec_pin moves]
    unfold changePin
    rw [use]
    rfl
  · rw [exec_pin moves]
    unfold changePin
    rw [use]
    exact congrArg (fun w => Host.Outcome.next (endEvent w)) (if_neg (Nat.pos_iff_ne_zero.mp long))
  · have line : ({ s with lines := s.lines.set l { s.lines.get l with outside := high } } : State).lines.get l
        = { s.lines.get l with outside := high } := LineBank.get_set _ _ _
    rw [exec_pin moves, changePin_now high use]
    exact congrArg (fun w => Host.Outcome.next (endEvent w)) (acceptLevel_same use (by rw [line]; exact same.symm))
  · have line : ({ s with now := max s.now d, lines := s.lines.set l { s.lines.get l with debounceTimer := none } } : State).lines.get l
        = { s.lines.get l with debounceTimer := none } := LineBank.get_set _ _ _
    rw [exec_debounce due]
    exact congrArg (fun w => Host.Outcome.next (endEvent w)) (acceptLevel_same use
      ((congrArg LineState.outside line).trans (same.trans (congrArg LineState.accepted line).symm)))
  · obtain ⟨runs, rest⟩ := exec_edge use how
    have e := fun {α : Type} (g : State → α) => congrArg g rest
    have setup : lineSetup u l = lineSetup s l := lineSetup_congr (s := s) (t := u) (e (·.tables)) l
    obtain ⟨seq, log, meas, bridge, tables, params, now⟩ := toldEdge_kept l f u
    have seq' := seq.trans (e (·.seq))
    have log' := log.trans (e (·.log))
    have meas' := meas.trans (e (·.meas))
    have bridge' := bridge.trans (e (·.bridge))
    have tables' := tables.trans (e (·.tables))
    have params' := params.trans (e (·.params))
    intro active told changed completed
    have reported : toldEdge l f u = told := by
      unfold toldEdge
      rw [setup]
    rw [reported] at runs seq' log' meas' bridge' tables' params' now
    have delivered : exec c s = .next (endEvent (deliverEdge f active told)) := runs
    refine ⟨fun edge => ?_, fun edge => ⟨fun armed up first => ?_, fun armed down first last => ?_, fun still => ?_⟩,
      fun edge => ⟨fun up awaited st here => ?_, fun unawaited => ?_⟩, fun edge down => ?_,
      fun edge up => ⟨_, delivered, fun take => ?_, fun take phase => ?_, fun take phase => ?_⟩,
      fun edge up => ⟨_, delivered, fun take => ?_, fun take phase => ?_, fun take phase => ?_, fun take => ?_⟩⟩
    · rw [delivered, edge]
      rfl
    · rw [delivered, edge, ← now]
      exact congrArg (fun w => Host.Outcome.next (endEvent w))
        ((captureEdge_cases active told).1 (by rw [meas']; exact armed) up (by rw [meas']; exact first))
    · rw [delivered, edge, ← now]
      exact congrArg (fun w => Host.Outcome.next (endEvent w))
        ((captureEdge_cases active told).2.1 (by rw [meas']; exact armed) down (by rw [meas']; exact first) (by rw [meas']; exact last))
    · rw [delivered, edge]
      exact congrArg (fun w => Host.Outcome.next (endEvent w)) ((captureEdge_cases active told).2.2 (by rw [meas']; exact still))
    · have waits : awaitsTrigger told = true := (awaitsTrigger_iff told).mpr (by rw [seq', tables']; exact awaited)
      have exposes : exec c s = .next (endEvent (enterExpose told)) := by
        rw [delivered, edge, up]
        exact congrArg (fun w => Host.Outcome.next (endEvent w)) (if_pos waits)
      have here' : told.tables.plan.seen[told.seq.step]? = some st := by rw [seq', tables']; exact here
      have later : pollLater st told ↔ pollLater st s := by
        unfold pollLater
        rw [params']
      obtain ⟨phase, timer, poll, record, timed, tells⟩ := trigger_exposes here'
      refine ⟨⟨_, _, exposes, exposeEntered_enterExpose here', ends_endEvent _⟩, fun late => ?_,
        fun soon => ⟨_, exposes, phase, by rw [timer, now], poll (fun late => soon (later.mp late)), record, timed, tells⟩⟩
      rw [exposes, (exposeEntered_enterExpose here').1 (later.mpr late)]
    · rw [delivered, edge]
      rcases unawaited with down | unawaited
      · rw [down]
        rfl
      · cases level : active with
        | false => rfl
        | true =>
          refine congrArg (fun w => Host.Outcome.next (endEvent w)) (if_neg fun waits => unawaited ?_)
          have held := (awaitsTrigger_iff told).mp waits
          rw [seq', tables'] at held
          exact held
    · rw [delivered, down]
      rcases edge with edge | edge <;> rw [edge] <;> rfl
    · rw [edge, up]
      show Ends told (endEvent (pauseTake told))
      rw [(pauseTake_still (by rw [seq']; exact take)).1]
      exact ends_endEvent _
    · rw [edge, up]
      show Ends _ (endEvent (pauseTake told))
      rw [pauseTake_pending (by rw [seq']; exact take) (by rw [seq']; exact phase)]
      exact ends_endEvent _
    · rw [edge, up]
      exact (pauseTake_told seq' log' bridge' take phase).endEvent
    · rw [edge, up]
      show Ends told (endEvent (stopTake told))
      rw [(stopTake_still (by rw [seq']; exact take)).1]
      exact ends_endEvent _
    · rw [edge, up]
      show Ends _ (endEvent (stopTake told))
      rw [stopTake_pending (by rw [seq']; exact take) (by rw [seq']; exact phase)]
      exact ends_endEvent _
    · rw [edge, up]
      exact (stopTake_told seq' log' bridge' take phase).endEvent
    · rw [edge, up]
      exact (stopTake_toldPaused seq' log' take).endEvent

end Sys2Proof.Machine
end

section
/-! PROOFS. Settles O42, O43 and O50: what ends an exposure's wait, a render and Link Out -/

namespace Sys2Proof.Machine

/-! ### A readout opened, and a render given up -/

/-! #### The plane granted to the ingest (R10 to R12, R39, R54, R69, R107, R114, R161) -/

/-- The time in HOLD that a release adds (R11). -/
def holdTime (s : State) : Nat := if s.seq.phase = .hold then s.now - s.seq.holdStart else 0

/-- The plane granted to the ingest of the record q, whose step is st. -/
def readoutGranted (q : SubframeRecord) (st : PlanStep) (s : State) : State :=
  { s with
    seq := { s.seq with
      phase := .readout, exposureTimer := none, extensionTimer := none, pollAt := none,
      lineTime := q.commandedUs + q.heldUs + holdTime s, readoutTimer := some (s.now + s.params.readoutTimeout * 1000) },
    arb := { holder := .ingest, waiting := .none },
    link := { s.link with readout := some { kind := q.kind, forward := st.forward, seenFrame := false }, rowMap := [] },
    log := { s.log with openRecord := some { q with
      heldUs := q.heldUs + holdTime s, temperature := sensorTemperature s, tempState := some (sensorTempState s) } },
    cal := { s.cal with cursor := (s.tables.defects.seen.takeWhile fun d =>
      decide (s.settings.height ≤ d.row ∨ s.settings.width ≤ d.column)).length },
    trails := if q.kind = .light then { s.trails with current.index := some (subframeIndex s), counter := 1 } else s.trails }

/-- The first entry that is not ignored stands behind those that are (R68, R69). -/
theorem cursor_open (defects : List Defect) (width height : Nat) :
    defects.length - (defects.dropWhile (defectIgnored width height)).length
      = (defects.takeWhile fun d => decide (height ≤ d.row ∨ width ≤ d.column)).length := by
  have same : defectIgnored width height = fun d => decide (height ≤ d.row ∨ width ≤ d.column) := by
    funext d
    exact (Bool.decide_or _ _).symm
  rw [same]
  conv_lhs => rw [← List.takeWhile_append_dropWhile (p := fun d : Defect => decide (height ≤ d.row ∨ width ≤ d.column)) (l := defects)]
  rw [List.length_append]
  simp

theorem endHold_eq {s : State} {q : SubframeRecord} (record : s.log.openRecord = some q) :
    endHold s = { s with log.openRecord := some { q with heldUs := q.heldUs + holdTime s } } := by
  unfold endHold holdTime onRecord
  rw [record]
  by_cases hold : s.seq.phase = .hold
  · rw [if_pos hold, if_pos hold]
    rfl
  · rw [if_neg hold, if_neg hold]
    show s = { s with log := { s.log with openRecord := some q } }
    rw [← record]

theorem grantIngest_eq {s : State} {q : SubframeRecord} {st : PlanStep} (record : s.log.openRecord = some q)
    (here : s.tables.plan.seen[s.seq.step]? = some st) : grantIngest s = readoutGranted q st s := by
  have step : currentStep s = some st := here
  have light : openIsLight s = decide (q.kind = .light) := by
    unfold openIsLight
    rw [record]
  unfold grantIngest releaseExposure takeTemperature
  rw [endHold_eq record, step, light]
  unfold openDetector openCursor setCursor readoutGranted
  rw [← cursor_open]
  cases kind : q.kind with
  | light => simp [onRecord, openIsLight, sensorTemperature, sensorTempState, grantedLineTime, subframeIndex, record, Nat.add_assoc]
  | dark => simp [onRecord, openIsLight, sensorTemperature, sensorTempState, grantedLineTime, Nat.add_assoc]

/-- What an exposure's release reads, or leaves, of the state: its own registers set aside, and every unit that has no part in it. -/
def exposurePart (s : State) : State :=
  { State.reset with
    seq := { s.seq with
      phase := .none, exposureTimer := none, extensionTimer := none, pollAt := none, holdStart := 0, lineTime := 0, readoutTimer := none },
    log := s.log, temps := s.temps, link := { s.link with forwarding := .no }, cal := s.cal, plane := s.plane, trails := s.trails,
    bridge.lastGood := s.bridge.lastGood, tables := s.tables, params := s.params, settings := s.settings }

/-- The grant, seen from any earlier state of the same exposure. -/
theorem readoutOpened_of {s x t : State} {q : SubframeRecord} {st : PlanStep} (same : exposurePart x = exposurePart s)
    (record : s.log.openRecord = some q) (here : s.tables.plan.seen[s.seq.step]? = some st) (still : stillPart t = stillPart (grantIngest x)) :
    ReadoutOpened q st (holdTime x) s t ∧ t.link.forwarding = x.link.forwarding ∧ t.fifo.entries = x.fifo.entries ∧ t.now = x.now := by
  have e := fun {α : Type} (f : State → α) => congrArg (a₁ := exposurePart x) (a₂ := exposurePart s) f same
  have log : x.log = s.log := e (·.log)
  have tables : x.tables = s.tables := e (·.tables)
  have settings : x.settings = s.settings := e (·.settings)
  have params : x.params = s.params := e (·.params)
  have step : x.seq.step = s.seq.step := e (·.seq.step)
  have pollDone : x.seq.pollDone = s.seq.pollDone := e (·.seq.pollDone)
  have temperature : sensorTemperature x = sensorTemperature s := by
    unfold sensorTemperature
    rw [params, show x.bridge.lastGood = s.bridge.lastGood from e (·.bridge.lastGood), show x.temps = s.temps from e (·.temps)]
  have tempState : sensorTempState x = sensorTempState s := by
    unfold sensorTempState
    rw [params, temperature, pollDone]
  have index : subframeIndex x = subframeIndex s := by
    unfold subframeIndex
    rw [log]
  rw [grantIngest_eq (by rw [log]; exact record) (by rw [tables, step]; exact here)] at still
  obtain ⟨seq', log', -, -, -, link', cal', plane', arb', trails', -, -, -, -, now', -, -, entries', -⟩ := fields_of_stillPart still
  have sequencer := congrArg (a₁ := (exposurePart x).seq) (a₂ := (exposurePart s).seq) (fun w : Sequencer => { w with
    phase := .readout, exposureTimer := none, extensionTimer := none, pollAt := none, holdStart := x.seq.holdStart,
    lineTime := q.commandedUs + q.heldUs + holdTime x, readoutTimer := some (x.now + x.params.readoutTimeout * 1000) }) (e (·.seq))
  have receiver := congrArg (a₁ := (exposurePart x).link) (a₂ := (exposurePart s).link) (fun w : LinkReceiver => { w with
    readout := some { kind := q.kind, forward := st.forward, seenFrame := false }, rowMap := [],
    forwarding := x.link.forwarding }) (e (·.link))
  have trails : x.trails = s.trails := e (·.trails)
  refine ⟨⟨?_, ⟨?_, ?_⟩, arb', ?_, ?_, ?_, fun light => ?_, fun dark => ?_, plane'.trans (e (·.plane))⟩,
    (congrArg LinkReceiver.forwarding link').trans rfl, entries', now'⟩
  · rw [seq', now', ← params]
    exact sequencer
  · unfold signalExpose
    rw [seq']
    rfl
  · unfold signalReadout
    rw [seq']
    rfl
  · rw [link']
    exact receiver
  · rw [log']
    show ({ x.log with openRecord := some { q with
      heldUs := q.heldUs + holdTime x, temperature := sensorTemperature x, tempState := some (sensorTempState x) } } : SubframeLog) = _
    rw [temperature, tempState, log]
  · rw [cal']
    show ({ x.cal with cursor := (x.tables.defects.seen.takeWhile _).length } : Calibration) = _
    rw [tables, settings, show x.cal = s.cal from e (·.cal)]
  · rw [trails']
    show (if q.kind = .light then { x.trails with current.index := some (subframeIndex x), counter := 1 } else x.trails) = _
    rw [if_pos light, index, trails]
  · rw [trails']
    show (if q.kind = .light then { x.trails with current.index := some (subframeIndex x), counter := 1 } else x.trails) = _
    rw [if_neg (by rw [dark]; exact nofun), trails]

/-! #### A render given up (R142 to R144) -/

/-- The render in hand has been given up and reported, the plane still to be released. -/
def gaveUp (reason : AbandonReason) (s : State) : State :=
  reportAbandoned s.render.kind reason { withdrawFrame reason s with render.state := .idle }

/-- An ACTIVE render given up in a take that is not FINISHING releases the plane, and no more. -/
theorem abandonRender_active {s : State} (reason : AbandonReason) (active : s.render.state = .active) (take : s.seq.takeState ≠ .finishing)
    (unheld : s.seq.finalHeld = false) : abandonRender reason s = releasePlane (gaveUp reason s) := by
  have other : isSequencerFinal s = false := by
    unfold isSequencerFinal
    exact decide_eq_false fun both => take both.2
  have unheld' : ∀ x : State, x.seq.finalHeld = false → (releasePlane x).seq.finalHeld = false := by
    intro x h
    have same : (releasePlane x).seq.finalHeld = x.seq.finalHeld := by
      show (standOf (releasePlane x)).finalHeld = (standOf x).finalHeld
      rw [stand_releasePlane]
      unfold Stand.releasePlane
      split <;> rfl
    rw [same, h]
  have gave : (gaveUp reason s).seq.finalHeld = false := by
    unfold gaveUp reportAbandoned
    rw [queueReport_frame]
    exact unheld
  unfold abandonRender
  rw [active, other]
  dsimp only
  unfold afterAbandonment handHeldFinal
  rw [Bool.false_and, Bool.false_and, if_neg Bool.false_ne_true]
  exact if_neg fun both => absurd (both.1.symm.trans (unheld' _ gave)) nofun

theorem gaveUp_frame (reason : AbandonReason) (s : State) : gaveUp reason s = { s with
    render.state := .idle,
    out := { s.out with
      queue := (gaveUp reason s).out.queue, renderQueue := (withdrawFrame reason s).out.renderQueue,
      inProgress := s.out.inProgress.map LanePacket.detach },
    port.lostReports := (gaveUp reason s).port.lostReports } := by
  unfold gaveUp reportAbandoned
  conv_lhs => rw [queueReport_frame]
  rfl

theorem queuedPart_detach (p : LanePacket) : p.detach.queuedPart = p.queuedPart ∧ p.detach.renderPart = p.renderPart := by
  cases p <;> exact ⟨rfl, rfl⟩

theorem begunPackets_withdrawn (reason : AbandonReason) (s : State) :
    (begunPackets (withdrawFrame reason s)).filterMap LanePacket.queuedPart = (begunPackets s).filterMap LanePacket.queuedPart
      ∧ (begunPackets (withdrawFrame reason s)).filterMap LanePacket.renderPart = (begunPackets s).filterMap LanePacket.renderPart := by
  have begun : begunPackets (withdrawFrame reason s)
      = s.out.sent.reverse.filterMap LaneItem.packet ++ (s.out.inProgress.map LanePacket.detach).toList := rfl
  rw [begun]
  unfold begunPackets
  simp only [List.filterMap_append]
  cases s.out.inProgress with
  | none => exact ⟨rfl, rfl⟩
  | some p =>
    obtain ⟨queued, render⟩ := queuedPart_detach p
    constructor
    · rw [Option.map_some, Option.toList_some, Option.toList_some, List.filterMap_cons, List.filterMap_cons, queued]
    · rw [Option.map_some, Option.toList_some, Option.toList_some, List.filterMap_cons, List.filterMap_cons, render]

theorem queuedTraffic_withdrawn (reason : AbandonReason) (s : State) : queuedTraffic (withdrawFrame reason s) = queuedTraffic s := by
  unfold queuedTraffic
  rw [(begunPackets_withdrawn reason s).1]
  rfl

/-- Its packets: what has begun, an earlier render's FRAME_END, and its own FRAME_END once its FRAME_START has begun (R142). -/
theorem renderTraffic_gaveUp {reason : AbandonReason} (s : State) (closes : reason ≠ .linkDown) : renderTraffic (gaveUp reason s) =
    (begunPackets s).filterMap LanePacket.renderPart ++ s.out.renderQueue.filter (fun p => p matches .frameEnd _ _ _)
      ++ if s.render.startBegun then [.frameEnd s.render.kind (s.render.linesSent + if lineInProgress s then 1 else 0) true] else [] := by
  have traffic : renderTraffic (gaveUp reason s) = renderTraffic (withdrawFrame reason s) := by
    unfold renderTraffic begunPackets
    rw [gaveUp_frame]
    rfl
  have ends : (fun p : RenderPacket => p matches .frameEnd _ _ _) = RenderPacket.isFrameEnd := by
    funext p
    cases p <;> rfl
  have closing : (s.render.startBegun && decide (reason ≠ .linkDown)) = s.render.startBegun := by
    rw [decide_eq_true closes, Bool.and_true]
  rw [traffic, ends]
  unfold renderTraffic
  rw [(begunPackets_withdrawn reason s).2, List.append_assoc]
  unfold withdrawFrame
  dsimp only
  rw [closing]

/-- Its report, where it is formed (R142, R166). -/
theorem queuedTraffic_gaveUp {reason : AbandonReason} {s : State} (locked : s.out.locked = true) (room : s.out.queue.length < 16)
    (enabled : s.params.reportMask.getLsbD 4 = true) : queuedTraffic (gaveUp reason s)
      = queuedTraffic s ++ [.report .renderAbandoned s.port.lostReports [byteOf s.render.kind.code, byteOf reason.code]] := by
  unfold gaveUp reportAbandoned
  rw [queuedTraffic_reported (k := .renderAbandoned) (s := { withdrawFrame reason s with render.state := .idle }) enabled locked room]
  exact congrArg (· ++ _) (queuedTraffic_withdrawn reason s)

theorem gaveUp_kept (reason : AbandonReason) (s : State) : (gaveUp reason s).link = s.link ∧ (gaveUp reason s).fifo = s.fifo
    ∧ (gaveUp reason s).now = s.now := by
  rw [gaveUp_frame]
  exact ⟨rfl, rfl, rfl⟩

theorem exposurePart_gaveUp (reason : AbandonReason) (s : State) : exposurePart (gaveUp reason s) = exposurePart s := by
  rw [gaveUp_frame]
  rfl

/-! #### O50: the exposure timer and the extension timer -/

/-- What a render given up at this release leaves of the traffic, in the obligation's words. -/
theorem abandoned_endEvent {s u t : State} {q : SubframeRecord} {st : PlanStep} (reason : AbandonReason) (closes : reason ≠ .linkDown)
    (record : u.log.openRecord = some q) (here : u.tables.plan.seen[u.seq.step]? = some st)
    (ends : Ends (grantIngest (gaveUp reason u)) t) (render : u.render = s.render) (out : u.out = s.out) (port : u.port = s.port)
    (params : u.params = s.params) : t.render.state = .idle
      ∧ (s.out.locked = true → s.out.queue.length < 16 → s.params.reportMask.getLsbD 4 = true →
        queuedTraffic t = queuedTraffic s ++ [.report .renderAbandoned s.port.lostReports [byteOf s.render.kind.code, byteOf reason.code]])
      ∧ renderTraffic t = (begunPackets s).filterMap LanePacket.renderPart
          ++ s.out.renderQueue.filter (fun p => p matches .frameEnd _ _ _)
          ++ if s.render.startBegun
            then [.frameEnd s.render.kind (s.render.linesSent + if lineInProgress s then 1 else 0) true] else [] := by
  have gave := gaveUp_frame reason u
  rw [grantIngest_eq (by rw [gave]; exact record) (by rw [gave]; exact here)] at ends
  have begun : begunPackets u = begunPackets s := by
    unfold begunPackets
    rw [out]
  have line : lineInProgress u = lineInProgress s := by
    unfold lineInProgress
    rw [out]
  have traffic : queuedTraffic u = queuedTraffic s := by
    unfold queuedTraffic
    rw [begun, out]
  refine ⟨?_, fun locked room enabled => ?_, ?_⟩
  · obtain ⟨-, -, -, -, -, -, -, -, -, -, -, -, -, -, -, -, -, -, state, -⟩ := fields_of_stillPart ends.still
    rw [state]
    show (gaveUp reason u).render.state = _
    rw [gave]
  · have told := queuedTraffic_gaveUp (reason := reason) (s := u) (by rw [out]; exact locked) (by rw [out]; exact room)
      (by rw [params]; exact enabled)
    rw [traffic, port, render] at told
    exact ends.queued.trans told
  · have told := renderTraffic_gaveUp (reason := reason) u closes
    rw [begun, line, render, out] at told
    exact ends.render.trans told

theorem Coherent.behindRender_of_expose {s : State} (h : Coherent s) (phase : s.seq.phase = .expose) (taken : s.arb.holder ≠ .none) :
    s.render.state = .active := by
  have running : s.seq.takeState = .running := by
    by_contra other
    rw [h.phase.mpr other] at phase
    exact absurd phase nofun
  cases holder : s.arb.holder with
  | none => exact absurd holder taken
  | clearing => exact absurd ((h.clearing.mp holder).symm.trans running) nofun
  | ingest => exact absurd (h.ingest.mp holder) (by rw [phase]; exact fun no => no.elim nofun nofun)
  | render => exact h.active.mpr holder

/-- A take with a phase is RUNNING, and holds no FINAL request (R1, R133). -/
theorem Coherent.running_of_phase {s : State} (h : Coherent s) (phase : s.seq.phase ≠ .none) :
    s.seq.takeState = .running ∧ s.seq.finalHeld = false := by
  have running : s.seq.takeState = .running := by
    by_contra other
    exact phase (h.phase.mpr other)
  refine ⟨running, ?_⟩
  cases held : s.seq.finalHeld with
  | false => rfl
  | true => exact absurd ((h.finalHeld held).1.symm.trans running) nofun

/-- The exposure timer has expired at its time (log 3). -/
def exposureDue (d : Nat) (s : State) : State := { s with now := max s.now d, seq.exposureTimer := none }

/-- The extension timer has expired at its time (log 3). -/
def extensionDue (d : Nat) (s : State) : State := { s with now := max s.now d, seq.extensionTimer := none }

theorem exec_exposureTimer {s : State} {d : Nat} (due : s.seq.exposureTimer = some d) : exec .exposureTimerExpiry s
    = .next (endEvent (claimIngest (exposureDue d s))) := by
  change execExposureTimerExpiry s = _
  unfold execExposureTimerExpiry
  rw [due]
  rfl

theorem exec_extensionTimer {s : State} {d : Nat} (due : s.seq.extensionTimer = some d) : exec .extensionTimerExpiry s
    = .next (endEvent (abandonRender .extensionLimit (extensionDue d s))) := by
  change execExtensionTimerExpiry s = _
  unfold execExtensionTimerExpiry
  rw [due]
  rfl

/-- HOLD entered behind a render at this time (R10, R11). -/
def holdEntered (s : State) : State :=
  { s with
    arb.waiting := .ingest,
    seq := { s.seq with
      phase := .hold, holdStart := s.now, extensionTimer := if s.params.maxExtension = 0 then none else some (s.now + s.params.maxExtension) } }

theorem enterHold_eq (s : State) : enterHold s =
    if s.params.maxExtension = 0 then abandonRender .extensionLimit (holdEntered s) else holdEntered s := rfl

/-- The plane a render gives up goes to the ingest that waits in HOLD (R11, R108, R142). -/
theorem abandonRender_hold {s : State} (reason : AbandonReason) (active : s.render.state = .active) (waits : s.arb.waiting = .ingest)
    (take : s.seq.takeState ≠ .finishing) (unheld : s.seq.finalHeld = false) :
    abandonRender reason s = grantIngest (gaveUp reason s) := by
  rw [abandonRender_active reason active take unheld]
  unfold releasePlane
  rw [show (gaveUp reason s).arb.waiting = .ingest by rw [gaveUp_frame]; exact waits]

/-- Settles O50: a free plane is granted (readoutOpened_of), and a render is waited for or given up (abandonRender_hold). -/
theorem exposureEndClaimsPlane : Obligations.ExposureEndClaimsPlane := by
  intro s d q st h record here now reads abandoned
  refine ⟨fun due => ⟨_, exec_exposureTimer due, fun free => ?_, fun taken long => ?_, fun taken zero => ?_⟩, fun due => ⟨_, exec_extensionTimer due, ?_⟩⟩
  · have phase : s.seq.phase = .expose := h.exposureTimer (by rw [due]; exact nofun)
    have claim : claimIngest (exposureDue d s)
        = grantIngest (exposureDue d s) := if_pos free
    rw [claim]
    obtain ⟨opened, forwarding, entries, time⟩ := readoutOpened_of (s := s) (x := exposureDue d s) rfl record here
      (stillPart_endEvent (grantIngest (exposureDue d s)))
    have none' : holdTime (exposureDue d s) = 0 :=
      if_neg (by rw [show (exposureDue d s).seq.phase = _ from phase]; exact nofun)
    rw [none'] at opened
    exact ⟨opened, forwarding, entries, time⟩
  · have claim : claimIngest (exposureDue d s)
        = holdEntered (exposureDue d s) :=
      (if_neg taken).trans ((enterHold_eq _).trans (if_neg long))
    rw [claim]
    have timer : (holdEntered (exposureDue d s)) = { s with
        now := now, arb.waiting := .ingest,
        seq := { s.seq with
          exposureTimer := none, phase := .hold, holdStart := now, extensionTimer := some (now + s.params.maxExtension) } } := by
      unfold holdEntered exposureDue
      dsimp only
      rw [if_neg long]
    rw [timer]
    exact ends_endEvent _
  · have phase : s.seq.phase = .expose := h.exposureTimer (by rw [due]; exact nofun)
    obtain ⟨running, unheld⟩ := h.running_of_phase (by rw [phase]; exact nofun)
    have held : holdTime (gaveUp .extensionLimit (holdEntered (exposureDue d s))) = 0 := by
      rw [gaveUp_frame]
      exact (if_pos rfl).trans (Nat.sub_self _)
    have claim : claimIngest (exposureDue d s)
        = grantIngest (gaveUp .extensionLimit (holdEntered (exposureDue d s))) :=
      (if_neg taken).trans ((enterHold_eq _).trans ((if_pos zero).trans
        (abandonRender_hold _ (h.behindRender_of_expose phase taken) rfl (by rw [show (holdEntered (exposureDue d s)).seq.takeState = _ from running]; exact nofun) unheld)))
    rw [claim]
    obtain ⟨opened, forwarding, entries, time⟩ := readoutOpened_of (s := s)
      (x := gaveUp .extensionLimit (holdEntered (exposureDue d s))) (exposurePart_gaveUp _ _) record here
      (stillPart_endEvent (grantIngest (gaveUp .extensionLimit (holdEntered (exposureDue d s)))))
    rw [held] at opened
    obtain ⟨link', fifo', now'⟩ := gaveUp_kept .extensionLimit (holdEntered (exposureDue d s))
    exact ⟨⟨opened, forwarding.trans (congrArg LinkReceiver.forwarding link'), entries.trans (congrArg LineFifo.entries fifo'), time.trans now'⟩,
      abandoned_endEvent (u := (holdEntered (exposureDue d s))) .extensionLimit nofun record here (ends_endEvent _) rfl rfl rfl rfl⟩
  · have phase : s.seq.phase = .hold := h.extensionTimer (by rw [due]; exact nofun)
    obtain ⟨running, unheld⟩ := h.running_of_phase (by rw [phase]; exact nofun)
    have waits : s.arb.waiting = .ingest := h.held.mpr phase
    have active : s.render.state = .active := h.active.mpr (h.behindRender waits)
    have held : holdTime (gaveUp .extensionLimit (extensionDue d s)) = now - s.seq.holdStart := by
      rw [gaveUp_frame]
      exact if_pos phase
    have goes : abandonRender .extensionLimit (extensionDue d s)
        = grantIngest (gaveUp .extensionLimit (extensionDue d s)) :=
      abandonRender_hold .extensionLimit active waits (by rw [show (extensionDue d s).seq.takeState = _ from running]; exact nofun) unheld
    rw [goes]
    obtain ⟨opened, forwarding, entries, time⟩ := readoutOpened_of (s := s)
      (x := gaveUp .extensionLimit (extensionDue d s)) (exposurePart_gaveUp _ _) record here
      (stillPart_endEvent (grantIngest (gaveUp .extensionLimit (extensionDue d s))))
    rw [held] at opened
    obtain ⟨link', fifo', now'⟩ := gaveUp_kept .extensionLimit (extensionDue d s)
    exact ⟨⟨opened, forwarding.trans (congrArg LinkReceiver.forwarding link'), entries.trans (congrArg LineFifo.entries fifo'), time.trans now'⟩,
      abandoned_endEvent (u := (extensionDue d s)) .extensionLimit nofun record here (ends_endEvent _) rfl rfl rfl rfl⟩

/-! ### O42: the loss and the regain of Link Out -/

namespace Stand
variable {y : Stand}

/-- The take after a render is given up at LINK_DOWN: FINISHING returns to COMPLETE, a FINAL request held is given up with it, and
any other take stays (R20, R133, R142, R144). -/
theorem afterLoss {final : Bool} (idle : y.render = .idle) (down : y.locked = false)
    (mine : final = true → y.take = .finishing ∧ y.finalHeld = false) (other : final = false → y.take = .finishing → y.finalHeld = true)
    (held : y.finalHeld = true → y.take = .finishing) :
    (y.afterAbandonment final .linkDown).take = (if y.take = .finishing then .complete else y.take)
      ∧ (y.afterAbandonment final .linkDown).phase = (if y.take = .finishing then .none else y.phase)
      ∧ (y.afterAbandonment final .linkDown).holder = y.holder := by
  unfold afterAbandonment handHeldFinal
  cases final with
  | true =>
    obtain ⟨take, unheld⟩ := mine rfl
    simp [take, unheld, enterTake]
  | false =>
    cases asked : y.finalHeld with
    | true =>
      have take := held asked
      simp [take, asked, idle, down, requestFinal, enterTake]
    | false =>
      have take : y.take ≠ .finishing := fun take => by
        rw [other rfl take] at asked
        exact Bool.noConfusion asked
      simp [take, asked]

/-- The loss of Link Out: the take, its phase and the plane (R11, R20, R108, R144). -/
theorem Coherent.loss {x : Stand} (h : x.Coherent) (down : x.locked = false) :
    (x.abandonRender .linkDown).take = (if x.take = .finishing then .complete else x.take)
      ∧ (x.phase ≠ .hold → (x.abandonRender .linkDown).phase = x.phase)
      ∧ (x.phase = .hold → (x.abandonRender .linkDown).phase = .readout ∧ (x.abandonRender .linkDown).holder = .ingest) := by
  obtain ⟨mine, other, held⟩ := h.leaving
  have nowhere : x.take = .finishing → x.phase = .none := fun take => h.phase.mpr (by rw [take]; exact nofun)
  unfold Stand.abandonRender
  cases state : x.render with
  | idle =>
    have take : x.take ≠ .finishing := fun take => (h.finishing take).elim
      (fun asked => (h.finalHeld asked).2.1 state) fun hand => hand.1 state
    refine ⟨(if_neg take).symm, fun _ => rfl, fun hold => ?_⟩
    exact absurd ((h.active.mpr (h.behindRender (h.held.mpr hold))).symm.trans state) nofun
  | pending =>
    obtain ⟨take, phase, -⟩ := afterLoss (y := { x with render := .idle, waiting := .none }) (final := x.sequencerFinal) rfl down mine other held
    refine ⟨take, fun _ => phase.trans ?_, fun hold => ?_⟩
    · show (if x.take = .finishing then _ else x.phase) = x.phase
      split
      · rename_i finishing
        exact (nowhere finishing).symm
      · rfl
    · exact absurd ((h.pending.mp state).symm.trans (h.held.mpr hold)) nofun
  | active =>
    obtain ⟨render, take', final, -, locked⟩ :=
      releasePlane_keeps (x := { x with render := .idle, handed := 0 }) (h.toLoose.no_render_waits state)
    obtain ⟨take, phase, holder⟩ := afterLoss (y := releasePlane { x with render := .idle, handed := 0 }) (final := x.sequencerFinal)
      render (locked.trans down) (by rw [take', final]; exact mine) (by rw [take', final]; exact other) (by rw [take', final]; exact held)
    rw [take'] at take phase
    refine ⟨take, fun away => phase.trans ?_, fun hold => ⟨phase.trans ?_, holder.trans ?_⟩⟩
    · show (if x.take = .finishing then _ else _) = x.phase
      split
      · rename_i finishing
        exact (nowhere finishing).symm
      · have free : x.waiting = .none := by
          cases waiting : x.waiting with
          | none => rfl
          | render => exact absurd waiting (h.toLoose.no_render_waits state)
          | ingest => exact absurd (h.held.mp waiting) away
        unfold releasePlane
        rw [show ({ x with render := .idle, handed := 0 } : Stand).waiting = .none from free]
        rfl
    · have running : x.take ≠ .finishing := fun take => by
        rw [nowhere take] at hold
        exact absurd hold nofun
      unfold releasePlane
      rw [show ({ x with render := .idle, handed := 0 } : Stand).waiting = .ingest from h.held.mpr hold]
      exact if_neg running
    · unfold releasePlane
      rw [show ({ x with render := .idle, handed := 0 } : Stand).waiting = .ingest from h.held.mpr hold]
      rfl
end Stand

/-! #### What an abandonment leaves -/

/-- The bridge, the plan position and the free choices taken are left, and while Link Out is unlocked the lost-reports flag is not
cleared (R166, R171). -/
structure LossKept (s t : State) : Prop where
  bridge : t.bridge = s.bridge
  step : t.seq.step = s.seq.step
  count : t.seq.count = s.seq.count
  choices : t.out.choices = s.out.choices
  locked : t.out.locked = s.out.locked
  lost : s.out.locked = false → s.port.lostReports = true → t.port.lostReports = true

theorem LossKept.refl (s : State) : LossKept s s := ⟨rfl, rfl, rfl, rfl, rfl, fun _ h => h⟩

theorem LossKept.trans {s t u : State} (h : LossKept s t) (k : LossKept t u) : LossKept s u :=
  ⟨k.bridge.trans h.bridge, k.step.trans h.step, k.count.trans h.count, k.choices.trans h.choices, k.locked.trans h.locked,
    fun down l => k.lost (h.locked.trans down) (h.lost down l)⟩

/-- The last part first, from which the state between is read. -/
theorem LossKept.behind {s t u : State} (k : LossKept t u) (h : LossKept s t) : LossKept s u := h.trans k

theorem lossKept_queueReport (k : ReportKind) (p : List Byte) (s : State) : LossKept s (queueReport k p s) := by
  have lost : s.out.locked = false → s.port.lostReports = true → (queueReport k p s).port.lostReports = true := by
    intro down l
    unfold queueReport formReport
    split
    · rw [down, Bool.false_and, if_neg Bool.false_ne_true]
    · exact l
  rw [queueReport_frame] at lost ⊢
  exact ⟨rfl, rfl, rfl, rfl, rfl, lost⟩

theorem lossKept_enterTake (t : TakeState) (p : Phase) (s : State) : LossKept s (enterTake t p s) := by
  rw [enterTake_eq]
  have entered : LossKept s { s with seq := { s.seq with
      takeState := t, phase := p, shutter := s.seq.shutter && t.keepsLevels, stepLevel := s.seq.stepLevel && t.keepsLevels } } :=
    { LossKept.refl s with }
  have told : LossKept s (tookState t p s) := entered.trans (lossKept_queueReport _ _ _)
  exact { told with }

theorem lossKept_releasePlane (s : State) : LossKept s (releasePlane s) := by
  have cursor : LossKept s (grantIngest s) := by
    have hold : LossKept s (endHold s) := by
      unfold endHold
      split
      · exact { LossKept.refl s with }
      · exact .refl s
    have opened : ∀ u : State, LossKept u (openDetector u) := by
      intro u
      unfold openDetector
      split
      · exact { LossKept.refl u with }
      · exact .refl u
    unfold grantIngest
    exact (opened _).behind { hold with }
  unfold releasePlane
  split
  · exact { LossKept.refl s with }
  · exact cursor
  · exact { LossKept.refl s with }

theorem lossKept_requestFinal (s : State) : LossKept s (requestFinal s) := by
  unfold requestFinal
  split
  · unfold takeRender
    dsimp only
    split
    · exact { LossKept.refl s with }
    · exact { LossKept.refl s with }
  · have opened : LossKept s (openRender .final s) := { LossKept.refl s with }
    exact (opened.trans (lossKept_queueReport _ _ _)).trans (lossKept_enterTake _ _ _)

theorem lossKept_afterAbandonment (final : Bool) (r : AbandonReason) (s : State) : LossKept s (afterAbandonment final r s) := by
  have handed : ∀ u : State, LossKept u (handHeldFinal u) := by
    intro u
    unfold handHeldFinal
    split
    · exact (lossKept_requestFinal _).behind { LossKept.refl u with }
    · exact .refl u
  unfold afterAbandonment
  split
  · exact (lossKept_enterTake _ _ _).trans (handed _)
  · exact handed s

theorem lossKept_abandonRender (r : AbandonReason) (s : State) : LossKept s (abandonRender r s) := by
  unfold abandonRender
  split
  · exact .refl s
  · have idle : LossKept s { s with render.state := .idle, arb.waiting := .none } := { LossKept.refl s with }
    exact (idle.trans (lossKept_queueReport _ _ _)).trans (lossKept_afterAbandonment _ _ _)
  · have idle : LossKept s { withdrawFrame r s with render.state := .idle } := { LossKept.refl s with }
    exact ((idle.trans (lossKept_queueReport _ _ _)).trans (lossKept_releasePlane _)).trans (lossKept_afterAbandonment _ _ _)

/-- Only an ingest that waits moves the open record (R11, R108). -/
theorem log_abandonRender {r : AbandonReason} {s : State} (away : s.arb.waiting ≠ .ingest) : (abandonRender r s).log = s.log := by
  have told : ∀ (k : ReportKind) (p : List Byte) (u : State), (queueReport k p u).log = u.log := by
    intro k p u
    rw [queueReport_frame]
  have entered : ∀ (t : TakeState) (p : Phase) (u : State), (enterTake t p u).log = u.log := fun t p u => told _ _ _
  have after : ∀ (final : Bool) (u : State), (afterAbandonment final r u).log = u.log := by
    intro final u
    have handed : ∀ w : State, (handHeldFinal w).log = w.log := by
      intro w
      unfold handHeldFinal requestFinal takeRender
      dsimp only
      split
      · split
        · split <;> rfl
        · exact (entered _ _ _).trans (told _ _ _)
      · rfl
    unfold afterAbandonment
    split
    · exact (handed _).trans (entered _ _ _)
    · exact handed u
  have released : ∀ u : State, u.arb.waiting ≠ .ingest → (releasePlane u).log = u.log := by
    intro u none
    unfold releasePlane
    split
    · rfl
    · exact absurd ‹_› none
    · rfl
  unfold abandonRender
  split
  · rfl
  · exact (after _ _).trans (told _ _ _)
  · refine (after _ _).trans ((released _ ?_).trans (told _ _ _))
    unfold reportAbandoned
    rw [queueReport_frame]
    exact away


/-! #### The loss itself (R170) -/

/-- The queues emptied and the forwarded frames given up, the render still in hand. -/
def linkCut (s : State) : State := cutForwarding (cutLink s)

theorem stand_linkCut (s : State) : standOf (linkCut s)
    = { standOf s with handed := s.out.renderQueue.countP RenderPacket.isLine, locked := false } := rfl

theorem exec_linkOutLoss {s : State} (locked : s.out.locked = true) :
    exec .linkOutLockLoss s = .next (endEvent { abandonRender .linkDown (linkCut s) with out.renderQueue := [] }) := by
  change execLinkOutLockLoss s = _
  exact if_pos locked

/-- On an unlocked Link Out no packet starts. -/
theorem endEvent_unlocked {u : State} (down : u.out.locked = false) : endEvent u = driveLines u := by
  unfold endEvent startFirst laneFree
  rw [down]
  rfl

/-- The stand after the loss (Stand.Coherent.loss). -/
theorem stand_loss {s : State} (h : Coherent s) :
    (abandonRender .linkDown (linkCut s)).seq.takeState = (if s.seq.takeState = .finishing then .complete else s.seq.takeState)
      ∧ (s.seq.phase ≠ .hold → (abandonRender .linkDown (linkCut s)).seq.phase = s.seq.phase)
      ∧ (s.seq.phase = .hold → (abandonRender .linkDown (linkCut s)).seq.phase = .readout
        ∧ (abandonRender .linkDown (linkCut s)).arb.holder = .ingest) := by
  have cut : (standOf (linkCut s)).Coherent := by
    rw [stand_linkCut]
    exact h.stand.fewer (Nat.le_add_right _ _) false
  have lost := cut.loss rfl
  rw [← stand_abandonRender] at lost
  exact lost

/-- The HOLD that the loss ends is released to the ingest (R11, R108, R144). -/
theorem loss_opens {s : State} (h : Coherent s) (hold : s.seq.phase = .hold) {q : SubframeRecord} {st : PlanStep}
    (record : s.log.openRecord = some q) (here : s.tables.plan.seen[s.seq.step]? = some st) :
    ReadoutOpened q st (s.now - s.seq.holdStart) s (endEvent { abandonRender .linkDown (linkCut s) with out.renderQueue := [] }) := by
  obtain ⟨running, unheld⟩ := h.running_of_phase (by rw [hold]; exact nofun)
  have waits : s.arb.waiting = .ingest := h.held.mpr hold
  have goes := abandonRender_hold (s := linkCut s) .linkDown (h.active.mpr (h.behindRender waits)) waits
    (by rw [show (linkCut s).seq.takeState = _ from running]; exact nofun) unheld
  have still : stillPart (endEvent { abandonRender .linkDown (linkCut s) with out.renderQueue := [] })
      = stillPart (grantIngest (gaveUp .linkDown (linkCut s))) := by
    rw [stillPart_endEvent, goes]
    rfl
  obtain ⟨opened, -⟩ := readoutOpened_of (s := s) (x := gaveUp .linkDown (linkCut s))
    (by rw [exposurePart_gaveUp]; rfl) record here still
  have held : holdTime (gaveUp .linkDown (linkCut s)) = s.now - s.seq.holdStart := by
    rw [gaveUp_frame]
    exact if_pos hold
  rw [held] at opened
  exact opened

theorem port_emptied {p : ManagementPort} (requests : p.requests = []) (flag : p.holdReqSent = false) (mark : p.waiting = none) :
    p = { requests := [], holdReqSent := false, waiting := none, lostReports := p.lostReports } := by
  cases p
  cases requests
  cases flag
  cases mark
  rfl

/-- Settles O42: the loss is silence (silent_loseLinkOut) and the end of a render in hand (stand_loss, loss_opens). -/
theorem linkOutLossAndRegain : Obligations.LinkOutLossAndRegain := by
  refine ⟨fun s h locked => ⟨_, exec_linkOutLoss locked, ?_⟩, fun s down empty => ?_⟩
  · let u : State := { abandonRender .linkDown (linkCut s) with out.renderQueue := [] }
    have kept := lossKept_abandonRender .linkDown (linkCut s)
    have work := work_abandonRender .linkDown (linkCut s)
    have silent : Silent [] u := silent_loseLinkOut h
    obtain ⟨unlocked, queue, progress, -, flow, hold, requests, mark, frames, render, -, entries, forwarding⟩ := silent
    have coherent : Coherent u := coherent_loseLinkOut h
    obtain ⟨take, away, held⟩ := stand_loss h
    have rest := fun {α : Type} (f : State → α) => congrArg (a₁ := workRest (abandonRender .linkDown (linkCut s)))
      (a₂ := workRest (linkCut s)) f work.rest
    obtain ⟨-, -, run⟩ := work.lane
    obtain ⟨sent, -⟩ := work.sent
    rw [endEvent_unlocked (u := { abandonRender .linkDown (linkCut s) with out.renderQueue := [] }) unlocked]
    have unheld : u.seq.finalHeld = false := by
      cases asked : u.seq.finalHeld with
      | false => rfl
      | true => exact absurd render (coherent.finalHeld asked).2.1
    have closed : u.log.closed = s.log.closed := rest (·.log.closed)
    refine ⟨?_, ?_, fun lost => ?_, frames, entries, forwarding, render, unheld, take, fun h' => ?_, fun h' => ⟨away h', ?_⟩,
      kept.step, kept.count, closed, rest (·.plane), rest (·.trails.queue), kept.bridge, rest (·.tables), rest (·.params), rest (·.settings)⟩
    · calc u.out = {
            locked := u.out.locked, held := u.out.held, inProgress := u.out.inProgress, rawRun := u.out.rawRun, queue := u.out.queue,
            renderQueue := [], flowWaiting := u.out.flowWaiting, choices := u.out.choices, sent := u.out.sent } := rfl
        _ = _ := by
          rw [unlocked, hold, progress, queue, flow, show u.out.rawRun = 0 from run, show u.out.choices = s.out.choices from kept.choices,
            show u.out.sent = (s.out.inProgress.map LaneItem.cut).toList ++ s.out.sent from sent]
    · exact port_emptied requests (rest (·.port.holdReqSent)) mark
    · refine kept.lost rfl ?_
      show (s.port.lostReports || s.out.queue.any QueuedPacket.isReport) = true
      rw [Bool.or_eq_true, List.any_eq_true]
      exact lost
    · obtain ⟨phase, holder⟩ := held h'
      refine ⟨phase, holder, fun q st record here => ?_⟩
      have opened := loss_opens h h' record here
      rw [endEvent_unlocked (u := { abandonRender .linkDown (linkCut s) with out.renderQueue := [] }) unlocked] at opened
      exact opened
    · exact log_abandonRender (s := linkCut s) fun waits => h' (h.held.mp waits)
  · refine ⟨endBoundary (regainLinkOut s), if_neg (by rw [down]; exact Bool.false_ne_true), ?_⟩
    let regained : State := { s with out.locked := true, bridge.relays := s.bridge.relays.filter fun q => !q.isAnswered }
    have told : regainLinkOut s = _ := formReport_queued (s := regained) rfl (by show s.out.queue.length < 16; rw [empty]; decide)
    rw [told]
    have sole : regained.out.queue = [] := empty
    rw [sole]
    exact ends_endBoundary _

/-! ### O43: the end of a packet -/

/-- The packet p has left the lane, and a waiting flow symbol has followed it (R168). -/
def packetGone (p : LanePacket) (s : State) : State :=
  { s with
    out.inProgress := none, out.flowWaiting := none,
    out.sent := (s.out.flowWaiting.map LaneItem.symbol).toList ++ .sent p :: s.out.sent }

theorem sendWaitingFlow_gone (p : LanePacket) (s : State) :
    sendWaitingFlow { s with out.inProgress := none, out.sent := .sent p :: s.out.sent } = packetGone p s := by
  unfold sendWaitingFlow packetGone
  dsimp only
  cases waits : s.out.flowWaiting with
  | none => simp [← waits]
  | some f => rfl

theorem exec_packetEnd {s : State} {p : LanePacket} (progress : s.out.inProgress = some p) :
    exec .linkOutPacketEnd s = .next (endBoundary (endPacket p (packetGone p s))) := by
  change execLinkOutPacketEnd s = _
  unfold execLinkOutPacketEnd
  rw [progress]
  dsimp only
  rw [sendWaitingFlow_gone]

/-- A report meets neither the render nor the plane. -/
theorem queueReport_render (k : ReportKind) (p : List Byte) (s : State) (r : RenderUnit) (a : Arbiter) :
    queueReport k p { s with render := r, arb := a } = { queueReport k p s with render := r, arb := a } := by
  unfold queueReport formReport
  by_cases enabled : reportEnabled s k = true
  · rw [if_pos enabled]
    refine (if_pos (by exact enabled)).trans ?_
    by_cases room : (s.out.locked && outQueueHasRoom s) = true
    · rw [if_pos room]; exact if_pos room
    · rw [if_neg room]; exact if_neg room
  · rw [if_neg enabled]
    exact if_neg (by exact enabled)

/-- The grant to the ingest leaves the lane's traffic and the render. -/
theorem grantIngest_kept (s : State) : (grantIngest s).out = s.out ∧ (grantIngest s).render = s.render
    ∧ (grantIngest s).arb = { holder := .ingest, waiting := .none } ∧ (grantIngest s).seq.phase = .readout
    ∧ (grantIngest s).seq.finalHeld = s.seq.finalHeld := by
  have held : (endHold s).out = s.out ∧ (endHold s).render = s.render ∧ (endHold s).seq = s.seq := by
    unfold endHold
    split <;> exact ⟨rfl, rfl, rfl⟩
  obtain ⟨out, render, seq⟩ := held
  have opened : ∀ u : State, (openDetector u).out = u.out ∧ (openDetector u).render = u.render ∧ (openDetector u).arb = u.arb
      ∧ (openDetector u).seq = u.seq := by
    intro u
    unfold openDetector
    split <;> exact ⟨rfl, rfl, rfl, rfl⟩
  unfold grantIngest
  obtain ⟨out', render', arb', seq'⟩ := opened (openCursor { releaseExposure s with
    arb := { holder := .ingest, waiting := .none }, seq.lineTime := grantedLineTime (releaseExposure s), seq.phase := .readout,
    seq.readoutTimer := some (s.now + s.params.readoutTimeout * 1000),
    link.readout := some { kind := if openIsLight s then .light else .dark, forward := (currentStep s).any PlanStep.forward, seenFrame := false },
    link.rowMap := [] })
  have held : (endHold s).seq.finalHeld = s.seq.finalHeld := congrArg Sequencer.finalHeld seq
  exact ⟨out'.trans out, render'.trans render, arb', congrArg Sequencer.phase seq', (congrArg Sequencer.finalHeld seq').trans held⟩

/-- The last LINE of the render has gone: its FRAME_END is handed over, it is reported, and the plane is free (R141). -/
def renderCompleted (s : State) : State :=
  queueReport .renderDone (byteOf s.render.kind.code :: bytes2 s.render.frameId ++ bytes2 s.render.lights
      ++ bytes4 s.render.holes ++ bytes4 s.render.fullScale) { s with
    render := { s.render with state := .idle, linesSent := s.render.linesSent + 1, rowHanded := false },
    arb.holder := .none,
    out.renderQueue := s.out.renderQueue ++ [.frameEnd s.render.kind s.settings.height false] }

/-- The same, the plane still to be released. -/
def renderReported (s : State) : State := { renderCompleted s with arb := s.arb }

theorem renderReported_frame (s : State) : renderReported s = { s with
    render := { s.render with state := .idle, linesSent := s.render.linesSent + 1, rowHanded := false },
    out := { s.out with
      queue := (renderCompleted s).out.queue, renderQueue := s.out.renderQueue ++ [.frameEnd s.render.kind s.settings.height false] },
    port.lostReports := (renderCompleted s).port.lostReports } := by
  unfold renderReported renderCompleted
  conv_lhs => rw [queueReport_frame]

theorem renderCompleted_frame (s : State) : renderCompleted s = { s with
    render := { s.render with state := .idle, linesSent := s.render.linesSent + 1, rowHanded := false },
    arb.holder := .none,
    out := { s.out with
      queue := (renderCompleted s).out.queue, renderQueue := s.out.renderQueue ++ [.frameEnd s.render.kind s.settings.height false] },
    port.lostReports := (renderCompleted s).port.lostReports } := by
  unfold renderCompleted
  exact queueReport_frame _ _ _

/-- completeRender, in the words of the state it was called in. -/
theorem completeRender_eq (s : State) : completeRender { s with render.linesSent := s.render.linesSent + 1, render.rowHanded := false }
    = handHeldFinal (if isSequencerFinal s then enterTake .finished .none (releasePlane (renderReported s))
      else releasePlane (renderReported s)) := by
  have released : ({ queueReport .renderDone (byteOf s.render.kind.code :: bytes2 s.render.frameId ++ bytes2 s.render.lights
        ++ bytes4 s.render.holes ++ bytes4 s.render.fullScale) { s with
      render := { s.render with linesSent := s.render.linesSent + 1, rowHanded := false },
      out.renderQueue := s.out.renderQueue ++ [.frameEnd s.render.kind s.settings.height false] } with render.state := .idle } : State)
      = renderReported s := by
    unfold renderReported renderCompleted
    have a := queueReport_render .renderDone (byteOf s.render.kind.code :: bytes2 s.render.frameId ++ bytes2 s.render.lights
        ++ bytes4 s.render.holes ++ bytes4 s.render.fullScale)
        { s with out.renderQueue := s.out.renderQueue ++ [.frameEnd s.render.kind s.settings.height false] }
    rw [a { s.render with linesSent := s.render.linesSent + 1, rowHanded := false } s.arb,
      a { s.render with state := .idle, linesSent := s.render.linesSent + 1, rowHanded := false } { s.arb with holder := .none }]
  unfold completeRender
  dsimp only
  rw [← released]
  rfl

/-! #### The render completed, by the claim that waits (R108, R133, R141) -/

section
variable {s : State}

theorem releasePlane_completed (waits : s.arb.waiting = .none) : releasePlane (renderReported s) = renderCompleted s := by
  unfold releasePlane
  rw [show (renderReported s).arb.waiting = .none from waits]
  show { renderReported s with arb.holder := .none } = renderCompleted s
  rw [renderCompleted_frame, renderReported_frame]

theorem renderCompleted_kept (s : State) : (renderCompleted s).seq = s.seq ∧ (renderCompleted s).log = s.log
    ∧ (renderCompleted s).arb = { s.arb with holder := .none } ∧ (renderCompleted s).render.state = .idle
    ∧ (renderCompleted s).out.locked = s.out.locked := by
  rw [renderCompleted_frame]
  exact ⟨rfl, rfl, rfl, rfl, rfl⟩

/-- With no FINAL request held nothing follows. -/
theorem handHeldFinal_unheld {u : State} (unheld : u.seq.finalHeld = false) : handHeldFinal u = u :=
  if_neg fun both => absurd (both.1.symm.trans unheld) nofun

/-- The Sequencer's FINAL makes the take FINISHED (R20, R141). -/
theorem completed_final (waits : s.arb.waiting = .none) (unheld : s.seq.finalHeld = false) (kind : s.render.kind = .final)
    (take : s.seq.takeState = .finishing) :
    Ends (queueReport .takeState (6#8 :: 0#8 :: byteOf s.seq.step :: bytes2 (subframeIndex s)) { renderCompleted s with
      seq := { s.seq with takeState := .finished, phase := .none, shutter := false, stepLevel := false } })
      (completeRender { s with render.linesSent := s.render.linesSent + 1, render.rowHanded := false }) := by
  obtain ⟨seq, log, -⟩ := renderCompleted_kept s
  have mine : isSequencerFinal s = true := decide_eq_true ⟨kind, take⟩
  have finished : (enterTake .finished .none (renderCompleted s)).seq.finalHeld = false := by
    show (tookState .finished .none (renderCompleted s)).seq.finalHeld = _
    unfold tookState
    rw [queueReport_frame]
    show (renderCompleted s).seq.finalHeld = _
    rw [seq]
    exact unheld
  rw [completeRender_eq, if_pos mine, releasePlane_completed waits, handHeldFinal_unheld finished]
  have entered := ((Beside.refl (renderCompleted s)).enterTake .finished .none).ends
  rw [tookState_off rfl, seq] at entered
  have index : subframeIndex (renderCompleted s) = subframeIndex s := by
    unfold subframeIndex
    rw [log]
  rw [index] at entered
  exact entered

/-- Any other render leaves the plane free, and the take as it is (R141). -/
theorem completed_other (waits : s.arb.waiting = .none) (unheld : s.seq.finalHeld = false)
    (other : ¬ (s.render.kind = .final ∧ s.seq.takeState = .finishing)) :
    completeRender { s with render.linesSent := s.render.linesSent + 1, render.rowHanded := false } = renderCompleted s := by
  obtain ⟨seq, -⟩ := renderCompleted_kept s
  have mine : ¬ isSequencerFinal s = true := fun yes => other (of_decide_eq_true yes)
  rw [completeRender_eq, if_neg mine, releasePlane_completed waits, handHeldFinal_unheld (by rw [seq]; exact unheld)]

/-- Behind a PREVIEW the FINAL request that is held begins (R133). -/
theorem completed_held (waits : s.arb.waiting = .none) (held : s.seq.finalHeld = true) (kind : s.render.kind = .preview)
    (locked : s.out.locked = true) :
    completeRender { s with render.linesSent := s.render.linesSent + 1, render.rowHanded := false }
      = renderBegun .final { renderCompleted s with seq.finalHeld := false } := by
  obtain ⟨seq, -, arb, idle, lock⟩ := renderCompleted_kept s
  have mine : ¬ isSequencerFinal s = true := fun yes => absurd (kind.symm.trans (of_decide_eq_true yes).1) nofun
  rw [completeRender_eq, if_neg mine, releasePlane_completed waits]
  unfold handHeldFinal
  rw [if_pos ⟨by rw [seq]; exact held, idle⟩]
  unfold requestFinal
  rw [if_pos (by exact lock.trans locked), takeRender_free (s := { renderCompleted s with seq.finalHeld := false }) (by
    show (renderCompleted s).arb.holder = _
    rw [arb])]

/-- An ingest that waits in HOLD is granted the plane (R11, R108). -/
theorem completed_hold (waits : s.arb.waiting = .ingest) (unheld : s.seq.finalHeld = false) (take : s.seq.takeState = .running) :
    completeRender { s with render.linesSent := s.render.linesSent + 1, render.rowHanded := false } = grantIngest (renderReported s) := by
  have mine : ¬ isSequencerFinal s = true := fun yes => absurd (take.symm.trans (of_decide_eq_true yes).2) nofun
  have released : releasePlane (renderReported s) = grantIngest (renderReported s) := by
    unfold releasePlane
    rw [show (renderReported s).arb.waiting = .ingest from waits]
  obtain ⟨-, -, -, -, final⟩ := grantIngest_kept (renderReported s)
  rw [completeRender_eq, if_neg mine, released, handHeldFinal_unheld]
  rw [final, renderReported_frame]
  exact unheld
end

theorem exposurePart_reported (s : State) : exposurePart (renderReported s) = exposurePart s := by
  rw [renderReported_frame]
  rfl

theorem traffic_of_out {u v : State} (out : v.out = u.out) : queuedTraffic v = queuedTraffic u ∧ renderTraffic v = renderTraffic u := by
  unfold queuedTraffic renderTraffic begunPackets
  rw [out]
  exact ⟨rfl, rfl⟩

/-- Settles O43: each source moved on by endPacket, and the last LINE of a render by the claim behind it. -/
theorem packetEndMovesItsSource : Obligations.PacketEndMovesItsSource := by
  intro s p h locked progress done
  have runs := exec_packetEnd progress
  refine ⟨fun frame entry row pixels line => ?_, fun notRaw notLine => ?_, fun kind row values line => ⟨fun more => ?_, fun last => ⟨_, runs, ?_⟩⟩⟩
  · rw [runs, line]
    show Host.Outcome.next (endBoundary (endRawLine frame entry (packetGone _ s))) = _
    unfold endRawLine freeEntries onEntries onFrames
    simp only [decide_eq_true_eq]
    rw [← line]
    rfl
  · rw [runs]
    have stays : endPacket p (packetGone p s) = packetGone p s := by
      unfold endPacket
      split
      · exact absurd notRaw nofun
      · exact absurd notLine nofun
      · rfl
    rw [stays]
    rfl
  · rw [runs, line]
    show Host.Outcome.next (endBoundary (endRenderLine (packetGone _ s))) = _
    unfold endRenderLine
    dsimp only
    rw [if_neg (by exact Nat.not_le.mpr more), ← line]
    rfl
  · have active : s.render.state = .active := by
      refine h.handedActive ?_
      have live : lineInProgress s = true := by
        unfold lineInProgress
        rw [progress, line]
      unfold handedLines
      rw [live]
      exact Nat.succ_ne_zero _
    have goes : endPacket p (packetGone p s) = completeRender { done with
        render.linesSent := done.render.linesSent + 1, render.rowHanded := false } := by
      rw [line]
      show endRenderLine (packetGone _ s) = _
      unfold endRenderLine
      dsimp only
      rw [if_pos (by exact last), ← line]
      rfl
    rw [goes]
    refine ⟨fun waits unheld => ⟨fun final take => ?_, fun other => ?_⟩, fun held => ?_, fun waits => ?_⟩
    · exact (completed_final (s := done) waits unheld final take).trans (ends_endBoundary _)
    · rw [completed_other (s := done) waits unheld other]
      exact ends_endBoundary _
    · obtain ⟨take, -, preview⟩ := h.finalHeld held
      have waits : s.arb.waiting = .none := by
        cases waiting : s.arb.waiting with
        | none => rfl
        | render => exact absurd ((h.active.mp active).symm.trans (h.behindIngest waiting)) nofun
        | ingest =>
          have phase := h.phase.mpr (show s.seq.takeState ≠ .running by rw [take]; exact nofun)
          exact absurd (phase.symm.trans (h.held.mp waiting)) nofun
      rw [completed_held (s := done) waits held preview locked]
      exact ends_endBoundary _
    · have hold : s.seq.phase = .hold := h.held.mp waits
      obtain ⟨running, unheld⟩ := h.running_of_phase (by rw [hold]; exact nofun)
      rw [completed_hold (s := done) waits unheld running]
      obtain ⟨out, render, arb, phase, -⟩ := grantIngest_kept (renderReported done)
      obtain ⟨seq', -, -, -, -, -, -, -, arb', -, -, -, -, -, -, -, -, -, state, -⟩ :=
        fields_of_stillPart (ends_endBoundary (grantIngest (renderReported done))).still
      obtain ⟨queued, renders⟩ := traffic_of_out out
      refine ⟨?_, arb'.trans arb, (congrArg Sequencer.phase seq').trans phase, ?_, ?_, ?_, fun q st record here => ?_⟩
      · rw [state, render, renderReported_frame]
      · unfold signalExpose
        rw [seq', phase]
        rfl
      · exact (ends_endBoundary _).queued.trans queued
      · exact (ends_endBoundary _).render.trans renders
      · obtain ⟨opened, -⟩ := readoutOpened_of (s := s) (x := renderReported done) (exposurePart_reported done) record here
          (ends_endBoundary _).still
        have time : holdTime (renderReported done) = s.now - s.seq.holdStart := by
          rw [renderReported_frame]
          exact if_pos hold
        rw [time] at opened
        exact opened

end Sys2Proof.Machine
end

section
/-! PROOFS. Settles O30: TAKE_ABORT by where the take stands -/

namespace Sys2Proof.Machine

/-! ### O30: TAKE_ABORT -/

/-- Whatever the form of the array, a restriction keeps what it holds at the keys kept. -/
theorem Memory.read_restrict_any {α : Type} (default : α) (p : Nat → Bool) (m : Memory α) (b : Nat) :
    Memory.read default (Memory.restrict p m) b = if p b then Memory.read default m b else default := by
  induction m with
  | nil => cases p b <;> rfl
  | cons e rest ih =>
    obtain ⟨k, v⟩ := e
    by_cases kept : p k = true
    · have step : Memory.restrict p ((k, v) :: rest) = (k, v) :: Memory.restrict p rest := List.filter_cons_of_pos kept
      rw [step, read_cons, read_cons, ih]
      by_cases here : b = k
      · rw [if_pos here, if_pos here, here, if_pos kept]
      · rw [if_neg here, if_neg here]
    · have step : Memory.restrict p ((k, v) :: rest) = Memory.restrict p rest := List.filter_cons_of_neg kept
      rw [step, ih, read_cons]
      by_cases here : b = k
      · rw [here, if_neg kept, if_neg kept]
      · rw [if_neg here]

/-- The render in hand given up at an abort, the plane free of it (R142, R143). -/
def renderDropped (s : State) : State := if s.render.state = .idle then s else { gaveUp .abort s with arb.holder := .none }

/-- At an abort no claim waits behind a render (R105, R108). -/
theorem abandonRender_abort {s : State} (stands : s.render.state = .idle ∨ s.render.state = .active ∧ s.arb.waiting = .none)
    (unheld : s.seq.finalHeld = false) : abandonRender .abort s = renderDropped s := by
  rcases stands with idle | ⟨active, waits⟩
  · unfold abandonRender renderDropped
    rw [idle, if_pos rfl]
  · have gave : (gaveUp .abort s).arb.waiting = .none ∧ (gaveUp .abort s).seq.finalHeld = false := by
      rw [gaveUp_frame]
      exact ⟨waits, unheld⟩
    have released : releasePlane (gaveUp .abort s) = { gaveUp .abort s with arb.holder := .none } := by
      unfold releasePlane
      rw [gave.1]
    have after : afterAbandonment (isSequencerFinal s) .abort (releasePlane (gaveUp .abort s)) = releasePlane (gaveUp .abort s) := by
      unfold afterAbandonment
      rw [if_neg (by simp), released]
      exact handHeldFinal_unheld gave.2
    have goes : abandonRender .abort s = afterAbandonment (isSequencerFinal s) .abort (releasePlane (gaveUp .abort s)) := by
      unfold abandonRender
      rw [active]
      rfl
    rw [goes, after, released, renderDropped, if_neg (by rw [active]; exact nofun)]

theorem renderDropped_frame (s : State) : renderDropped s = { s with
    render := (renderDropped s).render, arb := (renderDropped s).arb, out := (renderDropped s).out,
    port.lostReports := (renderDropped s).port.lostReports } := by
  unfold renderDropped
  split
  · rfl
  · conv_lhs => rw [gaveUp_frame]
    conv_rhs => rw [gaveUp_frame]

theorem renderDropped_seq (s : State) (q : Sequencer) : renderDropped { s with seq := q } = { renderDropped s with seq := q } := by
  unfold renderDropped
  by_cases idle : s.render.state = .idle
  · rw [if_pos (by exact idle), if_pos idle]
  · rw [if_neg (by exact idle), if_neg idle]
    unfold gaveUp reportAbandoned
    rw [show ({ withdrawFrame .abort { s with seq := q } with render.state := .idle } : State)
      = { ({ withdrawFrame .abort s with render.state := .idle } : State) with seq := q } from rfl, queueReport_seq]

/-- The Sequencer's registers at an abort, the take state still to be entered (R21). -/
def abortCleared (q : Sequencer) : Sequencer :=
  { q with finalHeld := false, planeValid := false, pausePending := false, stopPending := false, finishPending := false,
           abortPending := false, closeAbandoned := false }

theorem enterAborted_eq {s : State} (stands : s.render.state = .idle ∨ s.render.state = .active ∧ s.arb.waiting = .none) :
    enterAborted s = enterTake .aborted .none { renderDropped s with seq := abortCleared s.seq } := by
  have dropped := abandonRender_abort (s := { s with seq.finalHeld := false }) stands rfl
  unfold enterAborted
  dsimp only
  rw [dropped, renderDropped_seq]
  rfl

/-! #### The traffic behind the reply -/

theorem tells_renderDropped (s : State) : Tells s (renderDropped s) := by
  unfold renderDropped
  split
  · exact .refl s
  · have told : Tells s (gaveUp .abort s) :=
      (tells_queueReport .renderAbandoned _ { withdrawFrame .abort s with render.state := .idle }).after (queuedTraffic_withdrawn .abort s)
    exact told.trans (.of_eq rfl)

/-- What a render given up behind the reply adds, where the report is formed, and where it finds no room (R142, R166). -/
def AbandonTold (r : Request) (st : Status) (s t : State) : Prop :=
  (s.render.state ≠ .idle → s.params.reportMask.getLsbD 4 = true → s.out.queue.length < 15 →
      queuedTraffic s ++ [r.reply st [], .report .renderAbandoned s.port.lostReports [byteOf s.render.kind.code, 1#8]]
        <+: queuedTraffic t)
    ∧ (s.render.state ≠ .idle → s.params.reportMask.getLsbD 4 = true → s.out.queue.length = 15 → t.port.lostReports = true)

/-- The state v has answered the request in s, and nothing else of this has moved. -/
structure AbortAnswered (r : Request) (st : Status) (s v : State) : Prop where
  traffic : queuedTraffic v = queuedTraffic s ++ [r.reply st []]
  queue : v.out.queue.length = s.out.queue.length + 1
  render : v.render = s.render
  params : v.params = s.params
  lost : v.port.lostReports = s.port.lostReports
  locked : v.out.locked = true

/-- Reports only lengthen the queue, and one that finds no room sets the lost-reports flag, which stays set while there is none. -/
theorem lost_queueReport (k : ReportKind) (p : List Byte) {s : State} (full : 16 ≤ s.out.queue.length) :
    (s.port.lostReports = true → (queueReport k p s).port.lostReports = true)
      ∧ (reportEnabled s k = true → (queueReport k p s).port.lostReports = true) ∧ (queueReport k p s).out.queue = s.out.queue := by
  have shut : ¬ (s.out.locked && outQueueHasRoom s) = true := by
    unfold outQueueHasRoom
    rw [show decide (s.out.queue.length < Config.outQueueCapacity) = false from decide_eq_false (Nat.not_lt.mpr full), Bool.and_false]
    exact Bool.false_ne_true
  have formed : formReport k p s = { s with port.lostReports := true } := if_neg shut
  unfold queueReport
  by_cases enabled : reportEnabled s k = true
  · rw [if_pos enabled, formed]
    exact ⟨fun _ => rfl, fun _ => rfl, rfl⟩
  · rw [if_neg enabled]
    exact ⟨id, fun yes => absurd yes enabled, rfl⟩

theorem abandonTold_of {r : Request} {st : Status} {s v t : State} (ready : AbortAnswered r st s v)
    (tells : Tells (renderDropped v) t)
    (flag : 16 ≤ (renderDropped v).out.queue.length → (renderDropped v).port.lostReports = true → t.port.lostReports = true) :
    AbandonTold r st s t := by
  obtain ⟨traffic, queue, render, params, lost, locked⟩ := ready
  refine ⟨fun hand enabled room => ?_, fun hand enabled full => ?_⟩
  · have dropped : renderDropped v = { gaveUp .abort v with arb.holder := .none } := if_neg (by rw [render]; exact hand)
    have told := queuedTraffic_gaveUp (reason := .abort) (s := v) locked (by omega) (by rw [params]; exact enabled)
    rw [traffic, lost, render, List.append_assoc] at told
    have whole : queuedTraffic (renderDropped v) = queuedTraffic s
        ++ [r.reply st [], .report .renderAbandoned s.port.lostReports [byteOf s.render.kind.code, 1#8]] := by
      rw [dropped]
      exact told
    rw [← whole]
    exact tells
  · have dropped : renderDropped v = { gaveUp .abort v with arb.holder := .none } := if_neg (by rw [render]; exact hand)
    have long : 16 ≤ ({ withdrawFrame .abort v with render.state := .idle } : State).out.queue.length := by
      show 16 ≤ v.out.queue.length
      omega
    obtain ⟨-, sets, stays⟩ := lost_queueReport .renderAbandoned [byteOf v.render.kind.code, byteOf AbandonReason.abort.code] long
    refine flag ?_ ?_
    · rw [dropped]
      show 16 ≤ (gaveUp .abort v).out.queue.length
      unfold gaveUp reportAbandoned
      rw [stays]
      exact long
    · rw [dropped]
      exact sets (by show v.params.reportMask.getLsbD 4 = true; rw [params]; exact enabled)

/-! #### ABORTED at once -/

/-- The obligation's words for a take that is ABORTED in this event. -/
def AbortedAtOnce (r : Request) (s t : State) : Prop :=
  queuedTraffic s ++ [r.reply .ok []] <+: queuedTraffic t ∧ AbandonTold r .ok s t ∧ t.seq.takeState = .aborted ∧ t.seq.phase = .none
    ∧ t.seq.planeValid = false ∧ t.arb = { holder := .none, waiting := .none } ∧ t.render.state = .idle ∧ t.seq.finalHeld = false
    ∧ t.seq.shutter = false ∧ t.seq.stepLevel = false ∧ signalReady t = false ∧ t.seq.pausePending = false
    ∧ t.seq.stopPending = false ∧ t.seq.finishPending = false ∧ t.seq.abortPending = false ∧ t.log = s.log
    ∧ t.link = s.link ∧ t.cal = s.cal ∧ t.trails = s.trails

/-- The state from which a take is aborted at once: answered, the plane held by a render in hand or by nobody, no claim behind. -/
structure AbortStands (r : Request) (s w : State) : Prop where
  answered : AbortAnswered r .ok s w
  waiting : w.arb.waiting = .none
  plane : w.render.state = .idle ∧ w.arb.holder = .none ∨ w.render.state = .active
  kept : w.log = s.log ∧ w.link = s.link ∧ w.cal = s.cal ∧ w.trails = s.trails

/-- The frame of a dropped render, behind the Sequencer and the queue. -/
theorem renderDropped_with (w : State) (q : Sequencer) (queue : List QueuedPacket) (lost : Bool) :
    { renderDropped w with seq := q, out.queue := queue, port.lostReports := lost }
      = { w with
          seq := q, render := (renderDropped w).render, arb := (renderDropped w).arb,
          out := { (renderDropped w).out with queue := queue }, port.lostReports := lost } := by
  conv_lhs => rw [renderDropped_frame]

/-- The take entered, its report behind that of the render, and what that leaves. -/
def abortedState (w : State) : State :=
  queueReport .takeState (7#8 :: 0#8 :: byteOf w.seq.step :: bytes2 (subframeIndex w)) { renderDropped w with
    seq := { abortCleared w.seq with takeState := .aborted, phase := .none, shutter := false, stepLevel := false } }

theorem abortedState_frame (w : State) : abortedState w = { w with
    seq := { abortCleared w.seq with takeState := .aborted, phase := .none, shutter := false, stepLevel := false },
    render := (renderDropped w).render, arb := (renderDropped w).arb, out := (abortedState w).out,
    port.lostReports := (abortedState w).port.lostReports } := by
  have reported : abortedState w = { renderDropped w with
      seq := { abortCleared w.seq with takeState := .aborted, phase := .none, shutter := false, stepLevel := false },
      out.queue := (abortedState w).out.queue, port.lostReports := (abortedState w).port.lostReports } := queueReport_frame _ _ _
  have out : (abortedState w).out = { (renderDropped w).out with queue := (abortedState w).out.queue } := congrArg State.out reported
  rw [out]
  exact reported.trans (renderDropped_with w _ _ _)

theorem aborted_ends {r : Request} {s w : State} (stands : AbortStands r s w) :
    Ends (abortedState w) (endEvent (enterAborted w)) := by
  have render : w.render.state = .idle ∨ w.render.state = .active ∧ w.arb.waiting = .none :=
    stands.plane.imp And.left fun active => ⟨active, stands.waiting⟩
  have entered := ((Beside.refl { renderDropped w with seq := abortCleared w.seq }).enterTake .aborted .none).ends
  rw [enterAborted_eq render]
  rw [tookState_off rfl] at entered
  have index : subframeIndex { renderDropped w with seq := abortCleared w.seq } = subframeIndex w := by
    unfold subframeIndex
    rw [renderDropped_frame]
  rw [index] at entered
  exact entered.endEvent

theorem signalReady_aborted {t : State} (take : t.seq.takeState = .aborted) : signalReady t = false := by
  unfold signalReady awaitsTrigger
  rw [take]

theorem abortedAtOnce {r : Request} {s w : State} (stands : AbortStands r s w) : AbortedAtOnce r s (endEvent (enterAborted w)) := by
  have ends := aborted_ends stands
  obtain ⟨answered, waiting, plane, log, link, cal, trails⟩ := stands
  have tells : Tells (renderDropped w) (endEvent (enterAborted w)) :=
    Tells.trans ((tells_queueReport .takeState _ { renderDropped w with
      seq := { abortCleared w.seq with takeState := .aborted, phase := .none, shutter := false, stepLevel := false } }).after rfl) ends.tells
  have lost : (endEvent (enterAborted w)).port.lostReports = (abortedState w).port.lostReports :=
    congrArg (a₁ := stillPart (endEvent (enterAborted w))) (a₂ := stillPart (abortedState w)) (fun x : State => x.port.lostReports) ends.still
  have frame := abortedState_frame w
  have e := fun {α : Type} (f : State → α) => congrArg f frame
  obtain ⟨seq', log', -, -, -, link', cal', -, arb', trails', -, -, -, -, -, -, -, -, render', -⟩ := fields_of_stillPart ends.still
  have free : (renderDropped w).arb = { holder := .none, waiting := .none } ∧ (renderDropped w).render.state = .idle := by
    unfold renderDropped
    rcases plane with ⟨idle, holder⟩ | active
    · rw [if_pos idle]
      refine ⟨?_, idle⟩
      show (⟨w.arb.holder, w.arb.waiting⟩ : Arbiter) = _
      rw [holder, waiting]
    · rw [if_neg (by rw [active]; exact nofun)]
      rw [gaveUp_frame]
      refine ⟨?_, rfl⟩
      show (⟨.none, w.arb.waiting⟩ : Arbiter) = _
      rw [waiting]
  have seq := seq'.trans (e (·.seq))
  have cleared := fun {α : Type} (f : Sequencer → α) => congrArg f seq
  have ready : signalReady (endEvent (enterAborted w)) = false := signalReady_aborted (cleared (·.takeState))
  refine ⟨?_, abandonTold_of answered tells fun full set => ?_, cleared (·.takeState), cleared (·.phase), cleared (·.planeValid),
    (arb'.trans (e (·.arb))).trans free.1, (render'.trans (e (·.render.state))).trans free.2, cleared (·.finalHeld), cleared (·.shutter),
    cleared (·.stepLevel), ready, cleared (·.pausePending), cleared (·.stopPending), cleared (·.finishPending), cleared (·.abortPending),
    (log'.trans (e (·.log))).trans log, (link'.trans (e (·.link))).trans link, (cal'.trans (e (·.cal))).trans cal,
    (trails'.trans (e (·.trails))).trans trails⟩
  · rw [← answered.traffic]
    exact (tells_renderDropped w).trans tells
  · rw [lost]
    exact (lost_queueReport .takeState _ (s := { renderDropped w with
      seq := { abortCleared w.seq with takeState := .aborted, phase := .none, shutter := false, stepLevel := false } }) full).1 set

/-! #### EXPOSE or HOLD cut (R21, R38, R54, R107, R114) -/

/-- The record of an exposure that an abort cuts: released, and decided by the time it was asserted (R11, R38, R161). -/
def cutRecord (q : SubframeRecord) (s : State) : SubframeRecord :=
  exposureDecided (s.now - s.seq.exposeStart) s { q with
    heldUs := q.heldUs + holdTime s, temperature := sensorTemperature s, tempState := some (sensorTempState s) }

/-- The close that the abort brings, the plane still with the render and the detector not open yet. -/
def cutClosing (q : SubframeRecord) (s : State) : State :=
  { s with
    seq := { s.seq with
      exposureTimer := none, extensionTimer := none, pollAt := none, phase := .settle, lineTime := s.now - s.seq.exposeStart,
      abortPending := true, closeAbandoned := true },
    log.openRecord := some (cutRecord q s), meas.armed := false, link.rowMap := [], arb.waiting := .none }

theorem cutExposure_eq {s : State} {q : SubframeRecord} (record : s.log.openRecord = some q)
    (render : s.render.state = .idle ∨ s.render.state = .active) (unheld : s.seq.finalHeld = false) :
    cutExposure s = openDetector { renderDropped (cutClosing q s) with arb.holder := .ingest } := by
  have released : { decideExposure (s.now - s.seq.exposeStart) (releaseExposure s) with
      seq.phase := .settle, seq.lineTime := s.now - s.seq.exposeStart, seq.abortPending := true, seq.closeAbandoned := true,
      link.rowMap := [], arb.waiting := .none } = cutClosing q s := by
    unfold releaseExposure takeTemperature
    rw [decideExposure_eq, endHold_eq record]
    rfl
  have dropped := abandonRender_abort (s := cutClosing q s) (render.imp_right fun active => ⟨active, rfl⟩) unheld
  unfold cutExposure
  dsimp only
  rw [released, dropped]

theorem cutRecord_kept (q : SubframeRecord) (s : State) : (cutRecord q s).kind = q.kind ∧ (cutRecord q s).index = q.index
    ∧ (cutRecord q s).heldUs = q.heldUs + holdTime s ∧ (cutRecord q s).temperature = sensorTemperature s
    ∧ (cutRecord q s).exposureSource ≠ none
    ∧ (feedbackTime s.meas = none → (cutRecord q s).exposedUs = some (exposedRange (s.now - s.seq.exposeStart))) := by
  unfold cutRecord exposureDecided
  split
  · rename_i captured
    exact ⟨rfl, rfl, rfl, rfl, nofun, fun none => absurd (captured.symm.trans none) nofun⟩
  · exact ⟨rfl, rfl, rfl, rfl, nofun, fun _ => rfl⟩

/-- The detector opens for the light subframe of the record that is open (R114). -/
theorem openDetector_eq {s : State} {q : SubframeRecord} (record : s.log.openRecord = some q) : openDetector s = { s with
    trails := if q.kind = .light then { s.trails with current.index := some q.index, counter := 1 } else s.trails } := by
  have light : openIsLight s = decide (q.kind = .light) := by
    unfold openIsLight
    rw [record]
  have index : subframeIndex s = q.index := by
    unfold subframeIndex
    rw [record]
  unfold openDetector
  rw [light, index]
  by_cases kind : q.kind = .light
  · rw [if_pos (decide_eq_true kind), if_pos kind]
  · rw [if_neg (by simpa using kind), if_neg kind]

/-- The whole close, field by field. -/
theorem cutExposure_frame {s : State} {q : SubframeRecord} (record : s.log.openRecord = some q)
    (render : s.render.state = .idle ∨ s.render.state = .active) (unheld : s.seq.finalHeld = false) :
    cutExposure s = { cutClosing q s with
      arb := { (renderDropped (cutClosing q s)).arb with holder := .ingest }, render := (renderDropped (cutClosing q s)).render,
      out := (renderDropped (cutClosing q s)).out, port.lostReports := (renderDropped (cutClosing q s)).port.lostReports,
      trails := if q.kind = .light then { s.trails with current.index := some q.index, counter := 1 } else s.trails } := by
  obtain ⟨kind, index, -⟩ := cutRecord_kept q s
  have frame := renderDropped_frame (cutClosing q s)
  have record' : ({ renderDropped (cutClosing q s) with arb.holder := .ingest } : State).log.openRecord = some (cutRecord q s) := by
    rw [frame]
    rfl
  rw [cutExposure_eq record render unheld, openDetector_eq record', kind, index]
  generalize renderDropped (cutClosing q s) = d at frame
  rw [frame]
  rfl

/-- The plane's holder and the render, once it has been dropped (R107, R142). -/
theorem renderDropped_stand {s : State} (waiting : s.arb.waiting = .none) :
    (renderDropped s).render.state = .idle ∧ (renderDropped s).arb.waiting = .none := by
  unfold renderDropped
  by_cases idle : s.render.state = .idle
  · rw [if_pos idle]
    exact ⟨idle, waiting⟩
  · rw [if_neg idle, gaveUp_frame]
    exact ⟨rfl, waiting⟩

/-- The obligation's words for the close of an exposure that an abort cuts. -/
def ExposureCut (r : Request) (s t : State) : Prop :=
  queuedTraffic s ++ [r.reply .accepted []] <+: queuedTraffic t ∧ AbandonTold r .accepted s t ∧ t.seq.takeState = .running
    ∧ t.seq.phase = .settle ∧ t.seq.abortPending = true
    ∧ t.seq.closeAbandoned = true ∧ signalExpose t = false ∧ t.arb = { holder := .ingest, waiting := .none }
    ∧ t.render.state = .idle ∧ t.meas.armed = false ∧ t.log.closed = s.log.closed
    ∧ t.link = { s.link with rowMap := [] } ∧ (∀ row, rowState t row = .unseen) ∧ t.cal = s.cal
    ∧ ∃ q q' : SubframeRecord, s.log.openRecord = some q ∧ t.log.openRecord = some q'
      ∧ (q.kind = .light → t.trails = { s.trails with current.index := some (subframeIndex s), counter := 1 })
      ∧ (q.kind = .dark → t.trails = s.trails)
      ∧ q'.heldUs = q.heldUs + (if s.seq.phase = .hold then s.now - s.seq.holdStart else 0)
      ∧ q'.temperature = sensorTemperature s ∧ q'.exposureSource ≠ none
      ∧ (feedbackTime s.meas = none → q'.exposedUs = some (exposedRange (s.now - s.seq.exposeStart)))

theorem exposureCut_endEvent {r : Request} {s v : State} {q : SubframeRecord} (answered : AbortAnswered r .accepted s v)
    (same : { v with port := s.port, out := s.out, lines := s.lines } = s) (record : s.log.openRecord = some q)
    (take : s.seq.takeState = .running) (render : s.render.state = .idle ∨ s.render.state = .active) (unheld : s.seq.finalHeld = false) :
    ExposureCut r s (endEvent (cutExposure v)) := by
  have k := fun {α : Type} (f : State → α) => congrArg f same
  have record' : v.log.openRecord = some q := (k (·.log.openRecord)).trans record
  have frame := cutExposure_frame record' (by rw [answered.render]; exact render) ((k (·.seq.finalHeld)).trans unheld)
  have e := fun {α : Type} (f : State → α) => congrArg f frame
  have ends := ends_endEvent (cutExposure v)
  obtain ⟨seq', log', meas', -, -, link', cal', -, arb', trails', -, -, -, -, -, -, -, -, render', -⟩ := fields_of_stillPart ends.still
  obtain ⟨idle, waiting⟩ := renderDropped_stand (s := cutClosing q v) rfl
  have lost : (endEvent (cutExposure v)).port.lostReports = (renderDropped (cutClosing q v)).port.lostReports :=
    (congrArg (a₁ := stillPart (endEvent (cutExposure v))) (a₂ := stillPart (cutExposure v)) (fun x : State => x.port.lostReports) ends.still).trans
      (e (·.port.lostReports))
  have closing : AbortAnswered r .accepted s (cutClosing q v) := ⟨answered.traffic, answered.queue, answered.render, answered.params,
    answered.lost, answered.locked⟩
  have tells : Tells (renderDropped (cutClosing q v)) (endEvent (cutExposure v)) :=
    Tells.trans (.of_eq (traffic_of_out (e (·.out))).1) ends.tells
  obtain ⟨kind, index, held, temperature, source, lineTime⟩ := cutRecord_kept q v
  have seq := fun {α : Type} (f : Sequencer → α) => congrArg f (seq'.trans (e (·.seq)))
  have link : (endEvent (cutExposure v)).link = { s.link with rowMap := [] } :=
    (link'.trans (e (·.link))).trans (congrArg (fun l : LinkReceiver => { l with rowMap := [] }) (k (·.link)))
  have index' : subframeIndex s = q.index := by
    unfold subframeIndex
    rw [record]
  have trails := (trails'.trans (e (·.trails)))
  have sensor : sensorTemperature v = sensorTemperature s := by
    unfold sensorTemperature
    rw [show v.params = s.params from k (·.params), show v.bridge = s.bridge from k (·.bridge), show v.temps = s.temps from k (·.temps)]
  have time : holdTime v = if s.seq.phase = .hold then s.now - s.seq.holdStart else 0 := by
    unfold holdTime
    rw [show v.seq = s.seq from k (·.seq), show v.now = s.now from k (·.now)]
  refine ⟨?_, abandonTold_of closing tells fun _ set => lost.trans set, (seq (·.takeState)).trans ((k (·.seq.takeState)).trans take),
    seq (·.phase), seq (·.abortPending), seq (·.closeAbandoned), ?_, ?_, (render'.trans (e (·.render.state))).trans idle,
    (congrArg MeasurementTimer.armed meas').trans (e (·.meas.armed)),
    ((congrArg SubframeLog.closed log').trans (e (·.log.closed))).trans (k (·.log.closed)), link, fun row => ?_,
    (cal'.trans (e (·.cal))).trans (k (·.cal)), q, cutRecord q v, record,
    (congrArg SubframeLog.openRecord log').trans (e (·.log.openRecord)), fun light => ?_, fun dark => ?_, held.trans (by rw [time]),
    temperature.trans sensor, source, fun none => ?_⟩
  · rw [← closing.traffic]
    exact (tells_renderDropped _).trans tells
  · unfold signalExpose
    rw [show (endEvent (cutExposure v)).seq.phase = .settle from seq (·.phase)]
    rfl
  · refine (arb'.trans (e (·.arb))).trans ?_
    show (⟨.ingest, (renderDropped (cutClosing q v)).arb.waiting⟩ : Arbiter) = _
    rw [waiting]
  · unfold rowState
    rw [link]
    rfl
  · rw [trails, index', ← show v.trails = s.trails from k (·.trails)]
    exact if_pos light
  · rw [trails, ← show v.trails = s.trails from k (·.trails)]
    exact if_neg (by rw [dark]; exact nofun)
  · rw [lineTime (by rw [show v.meas = s.meas from k (·.meas)]; exact none), show v.seq = s.seq from k (·.seq), show v.now = s.now from k (·.now)]

/-! #### By where the take stands -/

theorem abortStatus_cases (s : State) : (s.seq.takeState = .noTake → abortStatus s = .badState)
    ∧ (s.seq.takeState ≠ .noTake → s.seq.takeState ≠ .running → abortStatus s = .ok)
    ∧ (s.seq.takeState = .running → abortStatus s = if s.seq.phase.actsAtOnce then .ok else .accepted) := by
  unfold abortStatus
  refine ⟨fun take => by rw [take], fun noTake running => ?_, fun take => by rw [take]⟩
  split
  · contradiction
  · contradiction
  · rfl

/-- abortTake, by take state and phase (R21). -/
theorem abortTake_cases (s : State) :
    (s.seq.takeState ∈ [TakeState.noTake, .aborted] → abortTake s = s)
      ∧ (s.seq.takeState = .clearing → abortTake s = enterAborted (stopClearing s))
      ∧ (s.seq.takeState ∈ [TakeState.paused, .complete, .finishing, .finished] → abortTake s = enterAborted s)
      ∧ (s.seq.takeState = .running → s.seq.phase ∈ [Phase.stepStart, .wait] → abortTake s = enterAborted (cancelWork s))
      ∧ (s.seq.takeState = .running → s.seq.phase ∈ [Phase.expose, .hold] → abortTake s = cutExposure s)
      ∧ (s.seq.takeState = .running → s.seq.phase = .readout →
        abortTake s = { endReadout s with seq.abortPending := true, seq.closeAbandoned := true })
      ∧ (s.seq.takeState = .running → s.seq.phase = .settle → abortTake s = { s with seq.abortPending := true }) := by
  simp only [List.mem_cons, List.not_mem_nil, or_false]
  unfold abortTake
  refine ⟨fun take => ?_, fun take => by rw [take], fun take => ?_, fun take phase => ?_, fun take phase => ?_, fun take phase => ?_,
    fun take phase => ?_⟩
  · rcases take with take | take <;> rw [take]
  · rcases take with take | take | take | take <;> rw [take]
  · rcases phase with phase | phase <;> rw [take, phase]
  · rcases phase with phase | phase <;> rw [take, phase]
  · rw [take, phase]
  · generalize pending : ({ s with seq.abortPending := true } : State) = u
    rw [take, phase, ← pending]

/-- The answered state, for the abort. -/
theorem abortAnswered_of {s v : State} {r : Request} {n : Nat} {st : Status} (can : CanTake s n r) (beside : Beside (replied r st [] s) v) :
    AbortAnswered r st s v ∧ { v with port := s.port, out := s.out, lines := s.lines } = s := by
  have traffic : queuedTraffic v = queuedTraffic s ++ [r.reply st []] := beside.ends.queued.trans (List.append_assoc _ _ _).symm
  have form := beside.form
  have e := fun {α : Type} (f : State → α) => congrArg f form
  refine ⟨⟨traffic, ?_, e (·.render), e (·.params), e (·.port.lostReports), (e (·.out.locked)).trans can.locked⟩, ?_⟩
  · rw [e (·.out.queue)]
    exact List.length_append
  · rw [form]
    rfl

/-- What the plane and the render are, where no readout and no close stands. -/
theorem abortStands_plane {s : State} (h : Coherent s) (phase : s.seq.phase ∉ [Phase.hold, .readout, .settle]) :
    s.arb.waiting = .none ∧ (s.seq.takeState ≠ .clearing → s.render.state = .idle ∧ s.arb.holder = .none ∨ s.render.state = .active)
      ∧ (s.seq.takeState = .clearing → s.render.state = .idle) := by
  simp only [List.mem_cons, List.not_mem_nil, or_false, not_or] at phase
  obtain ⟨hold, readout, settle⟩ := phase
  have waiting : s.arb.waiting = .none := by
    cases waits : s.arb.waiting with
    | none => rfl
    | ingest => exact absurd (h.held.mp waits) hold
    | render => exact ((h.ingest.mp (h.behindIngest waits)).elim readout settle).elim
  refine ⟨waiting, fun clearing => ?_, fun clearing => ?_⟩
  · cases state : s.render.state with
    | idle => exact .inl ⟨rfl, h.plane_free state clearing (by simp [readout, settle])⟩
    | active => exact .inr rfl
    | pending => exact absurd ((h.pending.mp state).symm.trans waiting) nofun
  · cases state : s.render.state with
    | idle => rfl
    | active => exact absurd ((h.active.mp state).symm.trans (h.clearing.mpr clearing)) nofun
    | pending => exact absurd ((h.pending.mp state).symm.trans waiting) nofun

/-- What every abort leaves (R21). -/
theorem abort_kept {s v : State} (same : { v with port := s.port, out := s.out, lines := s.lines } = s) :
    let t := endEvent (abortTake v)
    t.temps = s.temps ∧ t.heater = s.heater ∧ t.tables = s.tables ∧ t.params = s.params ∧ t.settings = s.settings
      ∧ t.now = s.now ∧ t.fifo.entries.length ≤ s.fifo.entries.length ∧ (s.seq.takeState ≠ .clearing → t.plane = s.plane) := by
  intro t
  have k := fun {α : Type} (f : State → α) => congrArg f same
  obtain ⟨-, -, -, temps, heater, -, -, plane, -, -, -, tables, params, settings, now, -, -, entries, -⟩ := endEvent_fields (abortTake v)
  have kept : ∃ w : State, Work w (abortTake v) ∧ (w = v ∨ v.seq.takeState = .clearing ∧ w = stopClearing v) := by
    rcases abortTake_work v with work | ⟨clearing, goes⟩
    · exact ⟨v, work, .inl rfl⟩
    · exact ⟨stopClearing v, by rw [goes]; exact work_enterAborted _, .inr ⟨clearing, rfl⟩⟩
  obtain ⟨w, work, which⟩ := kept
  have rest := fun {α : Type} (f : State → α) => congrArg (a₁ := workRest (abortTake v)) (a₂ := workRest w) f work.rest
  have back : w.temps = v.temps ∧ w.heater = v.heater ∧ w.tables = v.tables ∧ w.params = v.params ∧ w.settings = v.settings
      ∧ w.now = v.now ∧ w.fifo = v.fifo ∧ (v.seq.takeState ≠ .clearing → w.plane = v.plane) := by
    rcases which with rfl | ⟨clearing, rfl⟩
    · exact ⟨rfl, rfl, rfl, rfl, rfl, rfl, rfl, fun _ => rfl⟩
    · exact ⟨rfl, rfl, rfl, rfl, rfl, rfl, rfl, fun still => absurd clearing still⟩
  obtain ⟨temps', heater', tables', params', settings', now', fifo', plane'⟩ := back
  refine ⟨(temps.trans (rest (·.temps))).trans (temps'.trans (k (·.temps))), (heater.trans (rest (·.heater))).trans (heater'.trans (k (·.heater))),
    (tables.trans (rest (·.tables))).trans (tables'.trans (k (·.tables))), (params.trans (rest (·.params))).trans (params'.trans (k (·.params))),
    (settings.trans (rest (·.settings))).trans (settings'.trans (k (·.settings))), (now.trans (rest (·.now))).trans (now'.trans (k (·.now))), ?_,
    fun take => (plane.trans (rest (·.plane))).trans ((plane' ?_).trans (k (·.plane)))⟩
  · rw [entries, work.entries, fifo', show v.fifo = s.fifo from k (·.fifo)]
  · rw [show v.seq = s.seq from k (·.seq)]
    exact take

theorem blind_readoutClosed : Blind readoutClosed := fun _ _ _ _ _ => rfl

theorem blind_endReadout : Blind endReadout := by
  intro flag sent flow lines u
  rw [endReadout_eq, endReadout_eq, blind_readoutClosed, blind_arbitrate]

theorem tells_endReadout (s : State) : Tells s (endReadout s) := by
  rw [endReadout_eq]
  exact (tells_arbitrate (readoutClosed s)).after rfl

/-- READOUT ended by an abort (R21, R55, R153). -/
theorem readoutAborted {r : Request} {s v : State} (beside : Beside (replied r .accepted [] s) v)
    (traffic : queuedTraffic v = queuedTraffic s ++ [r.reply .accepted []]) :
    let t := endEvent { endReadout v with seq.abortPending := true, seq.closeAbandoned := true }
    queuedTraffic s ++ [r.reply .accepted []] <+: queuedTraffic t ∧ t.seq.phase = .settle ∧ t.seq.abortPending = true
      ∧ t.seq.closeAbandoned = true ∧ t.link.readout = none ∧ signalReadout t = false
      ∧ ReadoutFreesBus (replied r .accepted [] s) t := by
  intro t
  obtain ⟨seq, -, -, -, -, link, -⟩ := endEvent_fields { endReadout v with seq.abortPending := true, seq.closeAbandoned := true }
  obtain ⟨-, -, -, -, -, link', phase', -⟩ := endReadout_kept v
  have phase : t.seq.phase = .settle := (congrArg Sequencer.phase seq).trans phase'
  have bus : SameBus (endReadout v) t := by
    obtain ⟨bridge, indices, queued, lost⟩ :=
      (ends_endEvent { endReadout v with seq.abortPending := true, seq.closeAbandoned := true }).sameBus
    exact ⟨bridge, indices, queued, lost⟩
  have tells : Tells v t := (tells_endReadout v).trans (.of_eq bus.queued)
  refine ⟨?_, phase, congrArg Sequencer.abortPending seq, congrArg Sequencer.closeAbandoned seq, ?_, ?_,
    (readoutFreesBus (blind_endReadout.beside beside).ends).trans bus⟩
  · rw [← traffic]
    exact tells
  · exact (congrArg LinkReceiver.readout link).trans (congrArg LinkReceiver.readout link')
  · unfold signalReadout
    rw [phase]
    rfl

/-- The state answered is a stand to abort from, and stays one when the CLEARING pass stops and when the work is cancelled. -/
theorem abortStands_of {r : Request} {s v w : State} (h : Coherent s) (answered : AbortAnswered r .ok s v)
    (same : { v with port := s.port, out := s.out, lines := s.lines } = s) (phase : s.seq.phase ∉ [Phase.hold, .readout, .settle])
    (which : w = v ∧ s.seq.takeState ≠ .clearing ∨ w = stopClearing v ∧ s.seq.takeState = .clearing
      ∨ w = cancelWork v ∧ s.seq.takeState ≠ .clearing) : AbortStands r s w := by
  have k := fun {α : Type} (f : State → α) => congrArg f same
  obtain ⟨waiting, plane, idle⟩ := abortStands_plane h phase
  have waiting' : v.arb.waiting = .none := (k (·.arb.waiting)).trans waiting
  have kept : v.log = s.log ∧ v.link = s.link ∧ v.cal = s.cal ∧ v.trails = s.trails := ⟨k (·.log), k (·.link), k (·.cal), k (·.trails)⟩
  have plane' : s.seq.takeState ≠ .clearing → v.render.state = .idle ∧ v.arb.holder = .none ∨ v.render.state = .active := by
    rw [show v.render = s.render from k (·.render), show v.arb = s.arb from k (·.arb)]
    exact plane
  obtain ⟨traffic, queue, render, params, lost, locked⟩ := answered
  rcases which with ⟨rfl, clearing⟩ | ⟨rfl, clearing⟩ | ⟨rfl, clearing⟩
  · exact ⟨⟨traffic, queue, render, params, lost, locked⟩, waiting', plane' clearing, kept⟩
  · exact ⟨⟨traffic, queue, render, params, lost, locked⟩, waiting',
      .inl ⟨(congrArg (·.state) render).trans (idle clearing), rfl⟩, kept⟩
  · exact ⟨⟨traffic, queue, render, params, lost, locked⟩, waiting', plane' clearing, kept⟩

/-- A pass that stops leaves the records before the one it has reached cleared and the others as they were (R88). -/
theorem readPixel_stopClearing (s : State) (a : Nat) : readPixel (stopClearing s) a
    = if a < min (Config.clearedRecords s.freeSeq) (s.settings.width * s.settings.height) then Pixel.cleared else readPixel s a := by
  unfold readPixel stopClearing
  rw [Memory.read_restrict_any]
  by_cases below : a < min (Config.clearedRecords s.freeSeq) (s.settings.width * s.settings.height)
  · rw [if_pos below, if_neg (by simpa using below)]
  · rw [if_neg below, if_pos (decide_eq_true (Nat.le_of_not_lt below))]

/-- What the work cancelled leaves in STEP_START and WAIT (R7, R9, R157). -/
theorem workCancelled {r : Request} {s v : State} (stands : AbortStands r s (cancelWork v)) : let t := endEvent (enterAborted (cancelWork v))
    t.seq.scriptLeft = [] ∧ t.seq.settleTimer = none ∧ t.seq.gapTimer = none
      ∧ t.bridge = { v.bridge with waitingScript := none, inFlight := v.bridge.inFlight.map InFlight.unawaited } := by
  intro t
  have ends := aborted_ends stands
  have e := fun {α : Type} (f : State → α) => congrArg f (abortedState_frame (cancelWork v))
  obtain ⟨seq, -⟩ := fields_of_stillPart ends.still
  have kept := fun {α : Type} (f : Sequencer → α) => congrArg f (seq.trans (e (·.seq)))
  exact ⟨kept (·.scriptLeft), kept (·.settleTimer), kept (·.gapTimer), ends.sameBus.bridge.trans (e (·.bridge))⟩

/-- Settles O30: by take state and phase (abortTake_cases), ABORTED at once (abortedAtOnce) or a close (exposureCut_endEvent,
readoutAborted). -/
theorem takeAbortInvalidatesTake : Obligations.TakeAbortInvalidatesTake := by
  intro s r h can empty
  obtain ⟨flag, sent, flow, same, runs⟩ := exec_form .takeAbort can (congrArg List.length empty)
  have beside := fun st => beside_answered can st [] (flag := flag) (flow := flow) same
  obtain ⟨judgedNone, judgedOther, judgedRunning⟩ := abortStatus_cases s
  refine ⟨_, runs, ?_⟩
  intro answered told aborted
  have t_eq : ∀ {st : Status}, abortStatus s = st → endEvent (takeAbort r (tookRequest flag sent flow s))
      = endEvent (abortTake (answer r st [] (tookRequest flag sent flow s))) := by
    intro st judged
    unfold takeAbort
    rw [show abortStatus (tookRequest flag sent flow s) = st from judged]
  have seen : ∀ st, { answer r st [] (tookRequest flag sent flow s) with port := s.port, out := s.out, lines := s.lines } = s := fun st =>
    (abortAnswered_of can (beside st)).2
  have seq : ∀ st, (answer r st [] (tookRequest flag sent flow s)).seq = s.seq := fun st => by
    have k := fun {α : Type} (f : State → α) => congrArg f (seen st)
    exact k (·.seq)
  have phaseless : s.seq.takeState ≠ .running → s.seq.phase ∉ [Phase.hold, .readout, .settle] := by
    intro still
    rw [h.phase.mpr still]
    decide
  have okay : s.seq.phase ∉ [Phase.hold, .readout, .settle] → ∀ {w : State}, _ → AbortStands r s w := fun phase =>
    abortStands_of h (abortAnswered_of can (beside .ok)).1 (seen .ok) phase
  have accepted := abortAnswered_of can (beside .accepted)
  have wait : ∀ {phases : List Phase}, s.seq.takeState = .running → s.seq.phase ∈ phases → phases.any Phase.actsAtOnce = false →
      abortStatus s = .accepted := by
    intro phases take phase late
    rw [judgedRunning take, if_neg]
    exact fun acts => absurd ((List.any_eq_true.mpr ⟨_, phase, acts⟩).symm.trans late) nofun
  refine ⟨?_, fun take => ?_, fun take => ?_, fun take => ?_, fun take => ?_, fun take phase => ?_, fun take phase => ?_, fun take phase => ?_,
    fun take phase => ?_⟩
  · exact abort_kept (seen (abortStatus (tookRequest flag sent flow s)))
  · rw [t_eq (judgedNone take), (abortTake_cases _).1 (by rw [seq, take]; decide)]
    exact (beside .badState).ends.endEvent
  · rw [t_eq (judgedOther (by rw [take]; exact nofun) (by rw [take]; exact nofun)), (abortTake_cases _).1 (by rw [seq, take]; decide)]
    exact (beside .ok).ends.endEvent
  · have judged : abortStatus s = .ok := judgedOther (fun not => by rw [not] at take; revert take; decide)
      (fun not => by rw [not] at take; revert take; decide)
    have still : s.seq.takeState ≠ .running := fun not => by rw [not] at take; revert take; decide
    obtain ⟨-, clearing, others, -⟩ := abortTake_cases (answer r .ok [] (tookRequest flag sent flow s))
    rw [seq] at clearing others
    show AbortedAtOnce r s _
    rw [t_eq judged]
    rcases List.mem_cons.mp take with take | take
    · rw [clearing take]
      exact abortedAtOnce (okay (phaseless still) (.inr (.inl ⟨rfl, take⟩)))
    · rw [others take]
      exact abortedAtOnce (okay (phaseless still) (.inl ⟨rfl, fun not => by rw [not] at take; revert take; decide⟩))
  · have judged : abortStatus s = .ok := judgedOther (by rw [take]; exact nofun) (by rw [take]; exact nofun)
    obtain ⟨-, clearing, -⟩ := abortTake_cases (answer r .ok [] (tookRequest flag sent flow s))
    rw [seq] at clearing
    intro reached a
    rw [t_eq judged, clearing take]
    have plane : (endEvent (enterAborted (stopClearing (answer r .ok [] (tookRequest flag sent flow s))))).plane
        = (stopClearing (answer r .ok [] (tookRequest flag sent flow s))).plane := by
      obtain ⟨-, -, -, -, -, -, -, plane, -⟩ := endEvent_fields (enterAborted (stopClearing (answer r .ok [] (tookRequest flag sent flow s))))
      exact plane.trans (congrArg (a₁ := workRest _) (a₂ := workRest _) State.plane (work_enterAborted _).rest)
    have k := fun {α : Type} (f : State → α) => congrArg f (seen .ok)
    have cleared := readPixel_stopClearing (answer r .ok [] (tookRequest flag sent flow s)) a
    unfold readPixel at cleared ⊢
    rw [plane, cleared, show (answer r .ok [] (tookRequest flag sent flow s)).plane = s.plane from k (·.plane),
      show (answer r .ok [] (tookRequest flag sent flow s)).freeSeq = s.freeSeq from k (·.freeSeq),
      show (answer r .ok [] (tookRequest flag sent flow s)).settings = s.settings from k (·.settings)]
  · have judged : abortStatus s = .ok := (judgedRunning take).trans (if_pos ((actsAtOnce_iff _).mpr phase))
    obtain ⟨-, -, -, atOnce, -⟩ := abortTake_cases (answer r .ok [] (tookRequest flag sent flow s))
    rw [seq] at atOnce
    have bridge' : (answer r .ok [] (tookRequest flag sent flow s)).bridge = s.bridge := by
      have k := fun {α : Type} (f : State → α) => congrArg f (seen .ok)
      exact k (·.bridge)
    have free : s.seq.phase ∉ [Phase.hold, .readout, .settle] := fun busy => by
      revert busy phase
      cases s.seq.phase <;> decide
    have stands := okay free (w := cancelWork (answer r .ok [] (tookRequest flag sent flow s))) (.inr (.inr ⟨rfl, by rw [take]; exact nofun⟩))
    obtain ⟨indices, settle, gap, bridge⟩ := workCancelled stands
    rw [bridge'] at bridge
    refine And.intro (show AbortedAtOnce r s _ from ?_) ?_
    · rw [t_eq judged, atOnce take phase]
      exact abortedAtOnce stands
    · rw [t_eq judged, atOnce take phase]
      exact ⟨indices, settle, gap, bridge⟩
  · obtain ⟨-, -, -, -, cuts, -⟩ := abortTake_cases (answer r .accepted [] (tookRequest flag sent flow s))
    rw [seq] at cuts
    have opened : s.log.openRecord ≠ none := h.openRecord.mpr (by
      simp only [List.mem_cons, List.not_mem_nil, or_false] at phase
      tauto)
    obtain ⟨q, record⟩ := Option.ne_none_iff_exists'.mp opened
    have render : s.render.state = .idle ∨ s.render.state = .active := by
      cases state : s.render.state with
      | idle => exact .inl rfl
      | active => exact .inr rfl
      | pending =>
        have closing := h.ingest.mp (h.behindIngest (h.pending.mp state))
        rcases closing with other | other <;> rw [other] at phase <;> revert phase <;> decide
    have unheld : s.seq.finalHeld = false := by
      cases held : s.seq.finalHeld with
      | false => rfl
      | true => exact absurd (take.symm.trans (h.finalHeld held).1) nofun
    have cut := exposureCut_endEvent accepted.1 accepted.2 record take render unheld
    rw [← cuts take phase, ← t_eq (wait take phase rfl)] at cut
    exact cut
  · obtain ⟨-, -, -, -, -, reads, -⟩ := abortTake_cases (answer r .accepted [] (tookRequest flag sent flow s))
    rw [seq] at reads
    have ended := readoutAborted (beside .accepted) accepted.1.traffic
    rw [← reads take phase, ← t_eq (wait (phases := [.readout]) take (List.mem_singleton.mpr phase) rfl)] at ended
    exact ended
  · obtain ⟨-, -, -, -, -, -, settles⟩ := abortTake_cases (answer r .accepted [] (tookRequest flag sent flow s))
    have marked : Blind fun u => { u with seq.abortPending := true } := fun _ _ _ _ _ => rfl
    rw [t_eq (wait (phases := [.settle]) take (List.mem_singleton.mpr phase) rfl), settles (by rw [seq]; exact take) (by rw [seq]; exact phase)]
    exact (marked.beside (beside .accepted)).ends.endEvent

end Sys2Proof.Machine
end

section
/-! PROOFS. Settles O40 and O41: what joins the queue, and what the lane takes next -/

namespace Sys2Proof.Machine

/-! ### O40: reports and waiting traffic -/

/-! #### The layouts of 11.2 and 11.3 -/

theorem trailLayout_bytes (r : TrailRecord) : TrailLayout r.bytes r where
  size := rfl
  subframe := holds_two rfl
  number := holds_one rfl
  regions := (number_single _).trans (packBits_value _ _ false false)
  vetoing := named_of_code (names := [false, true]) (code := boolCode) (fun x => by cases x <;> rfl) (fun x => by cases x <;> decide) rfl
  firstRow := holds_two rfl
  lastRow := holds_two rfl
  minCol := holds_two rfl
  maxCol := holds_two rfl
  flagged := holds_four rfl

theorem crcBehind_withCrc (bytes : List Byte) : CrcBehind (withCrc bytes) := by
  have short : (withCrc bytes).length - 2 = bytes.length := by
    unfold withCrc
    rw [List.length_append]
    rfl
  have before : (withCrc bytes).take bytes.length = bytes := List.take_left
  have behind : field (withCrc bytes) bytes.length 2 = bytes2 (crc16 bytes).toNat := by
    unfold field withCrc
    rw [List.drop_left]
    rfl
  rw [CrcBehind, short, before, valueAt, behind]
  exact number_bytes2 (crc16 bytes).isLt

/-- A field behind a head, where the head ends at its place. -/
theorem field_behind (head middle behind : List Byte) : field (head ++ middle ++ behind) head.length middle.length = middle := by
  rw [field, List.append_assoc, List.drop_left, List.take_left]

theorem length_flatMap_bytes2 (values : List Nat) : (values.flatMap bytes2).length = 2 * values.length := by
  induction values with
  | nil => rfl
  | cons v rest ih =>
    rw [List.flatMap_cons, List.length_append, ih]
    show 2 + 2 * rest.length = 2 * (rest.length + 1)
    omega

/-- The k-th of the values of a line stands at its two bytes. -/
theorem field_flatMap_bytes2 (behind : List Byte) : ∀ (values : List Nat) (k v : Nat), values[k]? = some v →
    field (values.flatMap bytes2 ++ behind) (2 * k) 2 = bytes2 v := by
  intro values
  induction values with
  | nil => exact fun k v at_ => absurd at_ nofun
  | cons w rest ih =>
    intro k v at_
    cases k with
    | zero =>
      obtain rfl : w = v := Option.some.inj at_
      rfl
    | succ k => exact ih k v at_

theorem startLayout_bytes (stream frameId width height : Nat) (small : stream < 256) :
    StartLayout (outStartBytes stream frameId width height) stream frameId width height where
  size := rfl
  type := rfl
  stream := (number_single _).trans (byteOf_toNat small)
  frameId := holds_two rfl
  width := holds_two rfl
  height := holds_two rfl

theorem outLineLayout_bytes (stream row : Nat) (pixels : List Nat) (small : stream < 256) :
    OutLineLayout (outLineBytes stream row pixels) stream row pixels where
  size := by
    have pixels := length_flatMap_bytes2 pixels
    simp only [outLineBytes, withCrc, List.length_append, pixels]
    show 2 + 2 + 2 + 2 * _ + 2 = _
    omega
  type := rfl
  stream := (number_single _).trans (byteOf_toNat small)
  row := holds_two rfl
  count := holds_two rfl
  pixels k v at_ := by
    refine holds_two ?_
    have head : ∀ l : List Byte, field ([0x12#8, byteOf stream] ++ bytes2 row ++ bytes2 pixels.length ++ l) (6 + 2 * k) 2 = field l (2 * k) 2 := by
      intro l
      rw [field, Nat.add_comm]
      rfl
    rw [outLineBytes, withCrc, List.append_assoc, head]
    exact field_flatMap_bytes2 _ pixels k v at_
  crc := crcBehind_withCrc _

theorem endLayout_bytes (stream lines : Nat) (truncated abandoned : Bool) (small : stream < 256) :
    EndLayout (outEndBytes stream lines truncated abandoned) stream lines truncated abandoned := by
  have pair : (linesField lines).length = 2 := by
    unfold linesField
    split <;> rfl
  obtain ⟨a, b, sent⟩ := pair_of_length pair
  have laid : outEndBytes stream lines truncated abandoned = [0x13#8, byteOf stream, a, b, packBits truncated abandoned false false] := by
    rw [outEndBytes, sent]
    rfl
  rw [laid]
  exact { size := rfl, type := rfl, stream := (number_single _).trans (byteOf_toNat small),
          lines := fun fits => (congrArg number (show _ = linesField lines from sent.symm)).trans (by
            rw [linesField, if_pos (Nat.le_of_lt_succ fits), number_bytes2 fits]),
          flags := (number_single _).trans (packBits_value _ _ false false) }

theorem stream_eq (kind : RenderKind) : (if kind = .preview then 1 else 2) = kind.stream := by cases kind <;> rfl

theorem stream_small (kind : RenderKind) : kind.stream < 256 := by cases kind <;> decide

theorem replyLayout_bytes (tag kind : Byte) (status : Status) (payload : List Byte) :
    PacketLayout (LanePacket.queued (.reply tag kind status payload)).bytes (.queued (.reply tag kind status payload)) := by
  refine ⟨?_, rfl, named_of_code namesCoded.status (fun x => by cases x <;> decide) rfl, holds_two rfl, ?_, crcBehind_withCrc _⟩
  · show (withCrc _).length = _
    simp only [withCrc, List.length_append]
    show 4 + 2 + payload.length + 2 = _
    omega
  · exact field_behind ([0x14#8, tag, kind, byteOf status.code] ++ bytes2 payload.length) payload _

theorem reportLayout_bytes (kind : ReportKind) (lostBefore : Bool) (payload : List Byte) :
    PacketLayout (LanePacket.queued (.report kind lostBefore payload)).bytes (.queued (.report kind lostBefore payload)) := by
  have code : valueAt (withCrc ([0x15#8, byteOf kind.code, byteOf (boolCode lostBefore)] ++ bytes2 payload.length ++ payload)) 1 1 = kind.code :=
    (number_single _).trans (byteOf_toNat (by cases kind <;> decide))
  refine ⟨?_, rfl, ?_, (number_single _).trans (byteOf_toNat (by cases lostBefore <;> decide)), holds_two rfl, ?_, crcBehind_withCrc _⟩
  · show (withCrc _).length = _
    simp only [withCrc, List.length_append]
    show 3 + 2 + payload.length + 2 = _
    omega
  · show 1 ≤ valueAt (withCrc _) 1 1 ∧ reportKinds[valueAt (withCrc _) 1 1 - 1]? = some kind
    rw [code]
    exact namesCoded.reportKind kind
  · exact field_behind ([0x15#8, byteOf kind.code, byteOf (boolCode lostBefore)] ++ bytes2 payload.length) payload _

theorem packetLayout_bytes (p : LanePacket) : PacketLayout p.bytes p := by
  cases p with
  | rawStart number frameId width height => exact startLayout_bytes 0 frameId width height (by decide)
  | rawLine frame entry row pixels => exact outLineLayout_bytes 0 row pixels (by decide)
  | rawEnd lines truncated => exact endLayout_bytes 0 lines truncated false (by decide)
  | render packet begun =>
    cases packet with
    | frameStart kind frameId width height =>
      show StartLayout _ (if kind = .preview then 1 else 2) _ _ _
      rw [stream_eq]
      exact startLayout_bytes kind.stream frameId width height (stream_small kind)
    | line kind row values =>
      show OutLineLayout _ (if kind = .preview then 1 else 2) _ _
      rw [stream_eq]
      exact outLineLayout_bytes kind.stream row values (stream_small kind)
    | frameEnd kind lines abandoned =>
      show EndLayout _ (if kind = .preview then 1 else 2) _ _ _
      rw [stream_eq]
      exact endLayout_bytes kind.stream lines false abandoned (stream_small kind)
  | queued packet =>
    cases packet with
    | reply tag kind status payload => exact replyLayout_bytes tag kind status payload
    | report kind lostBefore payload => exact reportLayout_bytes kind lostBefore payload

/-! #### What joins the queue, waits or is lost -/

theorem hasRoom_iff (s : State) : outQueueHasRoom s = true ↔ s.out.queue.length < 16 := decide_eq_true_iff

theorem roomy_iff (s : State) : (s.out.locked && outQueueHasRoom s) = true ↔ s.out.locked = true ∧ s.out.queue.length < 16 := by
  rw [Bool.and_eq_true, hasRoom_iff]

/-- A report of an enabled kind joins or is lost; one of a disabled kind is not formed (R166, R171, R188, R189). -/
theorem report_joins (kind : ReportKind) (payload : List Byte) (s : State) :
    let enabled := s.params.reportMask.getLsbD (kind.code - 1)
    let room := s.out.locked = true ∧ s.out.queue.length < 16
    (enabled = true → room → queueReport kind payload s = { s with
        out.queue := s.out.queue ++ [.report kind s.port.lostReports payload], port.lostReports := false })
      ∧ (enabled = true → ¬ room → queueReport kind payload s = { s with port.lostReports := true })
      ∧ (enabled = false → queueReport kind payload s = s) := by
  intro enabled room
  refine ⟨fun on joins => ?_, fun on lost => ?_, fun off => ?_⟩
  · exact (if_pos on).trans (formReport_queued joins.1 joins.2)
  · exact (if_pos on).trans (if_neg fun open_ => lost ((roomy_iff s).mp open_))
  · exact if_neg (by rw [show reportEnabled s kind = false from off]; exact Bool.false_ne_true)

theorem joinReply_room {reply : QueuedPacket} {s : State} (locked : s.out.locked = true) (room : s.out.queue.length < 16) :
    joinReply reply s = { s with out.queue := s.out.queue ++ [reply] } := if_pos ((roomy_iff s).mpr ⟨locked, room⟩)

theorem joinReply_unlocked {reply : QueuedPacket} {s : State} (locked : s.out.locked = false) : joinReply reply s = s :=
  if_neg fun open_ => absurd (locked.symm.trans ((roomy_iff s).mp open_).1) nofun

/-- A held reply takes a free entry, and waits while there is none (R175). -/
theorem heldReply_joins {s : State} {reply : QueuedPacket} (due : s.port.waiting = some (.due reply)) (locked : s.out.locked = true) :
    (s.out.queue.length < 16 → exec .waitingReplyQueued s
        = .next (endEvent { s with port.waiting := none, out.queue := s.out.queue ++ [reply] }))
      ∧ (16 ≤ s.out.queue.length → exec .waitingReplyQueued s = .next s) := by
  have goes : exec .waitingReplyQueued s
      = if outQueueHasRoom s then .next (endEvent (joinReply reply { s with port.waiting := none })) else .next s := by
    show execWaitingReplyQueued s = _
    unfold execWaitingReplyQueued
    rw [due]
  refine ⟨fun room => ?_, fun full => ?_⟩
  · rw [goes, if_pos ((hasRoom_iff s).mpr room), joinReply_room (by exact locked) (by exact room)]
  · rw [goes, if_neg fun open_ => absurd ((hasRoom_iff s).mp open_) (Nat.not_lt.mpr full)]

/-- The first relay that waits to answer, and the queue without it. -/
theorem answered_first {before after : List Relay} {q : Relay} {outcome : BusOutcome} {data : List Byte}
    (waits : q.state = .replyWaiting outcome data) (others : ∀ b ∈ before, b.isAnswered = false) :
    (before ++ q :: after).find? Relay.isAnswered = some q ∧ (before ++ q :: after).eraseP Relay.isAnswered = before ++ after := by
  have mine : q.isAnswered = true := by
    unfold Relay.isAnswered
    rw [waits]
  have not : ∀ b ∈ before, ¬ b.isAnswered = true := fun b mem yes => absurd ((others b mem).symm.trans yes) nofun
  refine ⟨?_, ?_⟩
  · rw [List.find?_append, List.find?_eq_none.mpr not, List.find?_cons_of_pos mine]
    rfl
  · rw [List.eraseP_append_right _ not, List.eraseP_cons_of_pos mine]

theorem relayReply_goes {s : State} {before after : List Relay} {q : Relay} {outcome : BusOutcome} {data : List Byte}
    (relays : s.bridge.relays = before ++ q :: after) (waits : q.state = .replyWaiting outcome data)
    (others : ∀ b ∈ before, b.isAnswered = false) : exec .relayReplyQueued s
      = if outQueueHasRoom s || !s.out.locked then .next (endEvent (joinReply (.reply q.tag q.kindByte outcome.status
          (relayPayload outcome data)) { s with bridge.relays := before ++ after })) else .next s := by
  obtain ⟨found, left⟩ := answered_first (after := after) waits others
  show execRelayReplyQueued s = _
  unfold execRelayReplyQueued
  rw [relays, found]
  dsimp only
  rw [waits, left]
  rfl

theorem trailDrain_goes {s : State} {record : TrailRecord} {rest : List TrailRecord} (queue : s.trails.queue = record :: rest) :
    exec .trailQueueDrain s = if s.out.locked && outQueueHasRoom s then
      .next (endEvent (queueReport .trail record.bytes { s with trails.queue := rest })) else .next s := by
  show execTrailQueueDrain s = _
  unfold execTrailQueueDrain
  rw [queue]

/-- Settles O40: the layouts byte for byte, and each source of the queue by its room. -/
theorem reportsAndWaitingTrafficJoinQueue : Obligations.ReportsAndWaitingTrafficJoinQueue := by
  refine ⟨trailLayout_bytes, packetLayout_bytes, report_joins, fun s reply due locked => ?_,
    fun s before after q outcome data relays waits others => ?_, fun s record rest queue => ?_⟩
  · obtain ⟨joins, stays⟩ := heldReply_joins due locked
    exact ⟨fun room => ⟨_, joins room, ends_endEvent _⟩, stays⟩
  · have goes := relayReply_goes relays waits others
    intro left kind
    refine ⟨fun locked room => ?_, fun unlocked => ?_, fun locked full => ?_⟩
    · rw [if_pos (by rw [(hasRoom_iff s).mpr room]; rfl), joinReply_room (by exact locked) (by exact room)] at goes
      exact ⟨_, goes, ends_endEvent _⟩
    · rw [if_pos (by rw [unlocked]; exact Bool.or_true _), joinReply_unlocked (by exact unlocked)] at goes
      exact ⟨_, goes, ends_endEvent _⟩
    · rw [goes, if_neg]
      rw [locked, Bool.not_true, Bool.or_false, hasRoom_iff]
      exact Nat.not_lt.mpr full
  · have goes := trailDrain_goes queue
    refine ⟨fun locked room enabled => ?_, fun shut => ?_⟩
    · rw [if_pos ((roomy_iff s).mpr ⟨locked, room⟩), (report_joins .trail record.bytes { s with trails.queue := rest }).1
        (by exact enabled) ⟨locked, room⟩] at goes
      exact ⟨_, goes, ends_endEvent _⟩
    · rw [goes, if_neg]
      rw [roomy_iff]
      rintro ⟨locked, room⟩
      rcases shut with unlocked | full
      · exact absurd (unlocked.symm.trans locked) nofun
      · exact Nat.not_lt.mpr full room

/-! ### O41: the hold, GO_OUT and the order of the sources -/

/-! #### What the sources offer -/

/-- The oldest forwarded frame has begun, is open, and has no line waiting; or there is none. -/
def RawQuiet (s : State) : Prop := ∀ g ∈ s.fifo.frames.head?, g.startBegun = true ∧ g.truncated = false ∧ g.isOpen = true
  ∧ ∀ e ∈ s.fifo.entries, ¬ (e.forward = .pending ∧ e.frame = some g.number)

section

variable {s : State} {g : ForwardedFrame} {later : List ForwardedFrame}

theorem offerRaw_start (frames : s.fifo.frames = g :: later) (waits : g.startBegun = false) :
    offerRaw s = some (.rawStart g.number g.frameId g.width g.height) := by
  unfold offerRaw
  rw [frames]
  exact if_pos (by rw [waits]; rfl)

theorem offerRaw_truncated (frames : s.fifo.frames = g :: later) (begun : g.startBegun = true) (truncated : g.truncated = true) :
    offerRaw s = some (.rawEnd g.linesSent true) := by
  unfold offerRaw
  rw [frames]
  exact (if_neg (by rw [begun]; exact Bool.false_ne_true)).trans (if_pos truncated)

/-- A frame begun and not truncated offers its oldest waiting line, or its FRAME_END once it is closed. -/
theorem offerRaw_goesOn (frames : s.fifo.frames = g :: later) (begun : g.startBegun = true) (whole : g.truncated = false) :
    (∀ e, s.fifo.entries.find? (pendingFor g.number) = some e → offerRaw s = some (.rawLine g.number e.number e.row (e.pixels.getD [])))
      ∧ (s.fifo.entries.find? (pendingFor g.number) = none →
        offerRaw s = if g.isOpen then none else some (.rawEnd g.linesSent false)) := by
  have start : ¬ (!g.startBegun) = true := by
    rw [begun]
    exact Bool.false_ne_true
  have cut : ¬ g.truncated = true := by
    rw [whole]
    exact Bool.false_ne_true
  refine ⟨fun e found => ?_, fun none_ => ?_⟩
  · unfold offerRaw
    rw [frames]
    dsimp only
    rw [if_neg start, if_neg cut, found]
  · unfold offerRaw
    rw [frames]
    dsimp only
    rw [if_neg start, if_neg cut, none_]

theorem noneWaits_iff (n : Nat) (entries : List FifoEntry) :
    entries.find? (pendingFor n) = none ↔ ∀ e ∈ entries, ¬ (e.forward = .pending ∧ e.frame = some n) := by
  rw [List.find?_eq_none]
  exact forall₂_congr fun e _ => not_congr decide_eq_true_iff

end

theorem offerRaw_none_iff (s : State) : offerRaw s = none ↔ RawQuiet s := by
  unfold RawQuiet
  cases frames : s.fifo.frames with
  | nil =>
    have offer : offerRaw s = none := by
      unfold offerRaw
      rw [frames]
    exact ⟨fun _ => nofun, fun _ => offer⟩
  | cons g later =>
    simp only [List.head?_cons, Option.mem_def, Option.some.injEq, forall_eq', ← noneWaits_iff]
    by_cases begun : g.startBegun = true
    · by_cases truncated : g.truncated = true
      · rw [offerRaw_truncated frames begun truncated, truncated]
        exact ⟨nofun, fun ⟨_, whole, _⟩ => absurd whole nofun⟩
      · have whole := Bool.eq_false_iff.mpr truncated
        obtain ⟨line, rest⟩ := offerRaw_goesOn frames begun whole
        cases found : s.fifo.entries.find? (pendingFor g.number) with
        | some e =>
          rw [line e found]
          exact ⟨nofun, fun ⟨_, _, _, none_⟩ => absurd none_ nofun⟩
        | none =>
          rw [rest found]
          cases open_ : g.isOpen with
          | true => exact ⟨fun _ => ⟨begun, whole, rfl, rfl⟩, fun _ => rfl⟩
          | false => exact ⟨nofun, fun ⟨_, _, closed, _⟩ => absurd closed nofun⟩
    · rw [offerRaw_start frames (Bool.eq_false_iff.mpr begun)]
      exact ⟨nofun, fun ⟨yes, _⟩ => absurd yes begun⟩

theorem offers_nil_iff (s : State) : offers s = [] ↔ NothingOffered s := by
  have queue : offerQueued s = none ↔ s.out.queue = [] := by
    rw [offerQueued, Option.map_eq_none_iff, List.head?_eq_none_iff]
  have render : offerRender s = none ↔ s.out.renderQueue = [] := by
    rw [offerRender, Option.map_eq_none_iff, List.head?_eq_none_iff]
  unfold offers NothingOffered
  rw [List.append_eq_nil_iff, List.append_eq_nil_iff, Option.toList_eq_nil_iff, Option.toList_eq_nil_iff, Option.toList_eq_nil_iff, queue,
    render, offerRaw_none_iff]
  exact ⟨fun ⟨⟨raw, queued⟩, rendered⟩ => ⟨queued, rendered, raw⟩, fun ⟨queued, rendered, raw⟩ => ⟨⟨raw, queued⟩, rendered⟩⟩

/-! #### No command leaves the lane idle with a packet due (R165) -/

theorem laneFree_iff (s : State) : laneFree s = true ↔ LaneIdle s := by
  unfold laneFree LaneIdle
  rw [Bool.and_eq_true, Bool.and_eq_true, Bool.not_eq_true', Option.isNone_iff_eq_none, and_assoc]

theorem beginPacket_inProgress (p : LanePacket) (s : State) : (beginPacket p s).out.inProgress = some p := by
  unfold beginPacket
  split <;> rfl

theorem choosePacket_none {s : State} (none_ : choosePacket s = none) : offers s = [] := by
  unfold choosePacket at none_
  split at none_
  · rename_i first
    rw [Bool.and_eq_true, Bool.not_eq_true', List.isEmpty_eq_false_iff] at first
    rw [offerQueued, Option.map_eq_none_iff, List.head?_eq_none_iff] at none_
    exact absurd none_ first.2
  · rw [Option.or_eq_none_iff, Option.or_eq_none_iff] at none_
    obtain ⟨raw, queued, render⟩ := none_
    rw [offers, raw, queued, render]
    rfl

/-- A lane idle at the end of an event has nothing to send. -/
theorem idle_endEvent {u : State} (idle : LaneIdle (endEvent u)) : NothingOffered (endEvent u) := by
  change LaneIdle (startFirst u) at idle
  change NothingOffered (startFirst u)
  rw [← offers_nil_iff]
  have stays : startFirst u = u → offers (startFirst u) = [] := by
    intro same
    rw [same] at idle ⊢
    by_contra due
    exact startFirst_inProgress ((laneFree_iff u).mpr idle) due (by rw [same]; exact idle.2.2)
  rcases startFirst_cases u with same | ⟨p, -, -, k, begins⟩
  · exact stays same
  · have progress := idle.2.2
    rw [begins, beginPacket_inProgress] at progress
    exact absurd progress nofun

theorem idle_endBoundary {u : State} (idle : LaneIdle (endBoundary u)) : NothingOffered (endBoundary u) := by
  change LaneIdle (runLane u) at idle
  change NothingOffered (runLane u)
  rw [← offers_nil_iff]
  rcases runLane_cases u with same | ⟨p, -, -, begins⟩
  · rw [same] at idle ⊢
    refine choosePacket_none ?_
    cases chosen : choosePacket u with
    | none => rfl
    | some p =>
      have begins : runLane u = beginPacket p u := by
        unfold runLane
        rw [if_pos ((laneFree_iff u).mpr idle), chosen]
      have progress := idle.2.2
      rw [← same, begins, beginPacket_inProgress] at progress
      exact absurd progress nofun
  · have progress := idle.2.2
    rw [begins, beginPacket_inProgress] at progress
    exact absurd progress nofun

theorem Ran.idle {c : Instr} {s t : State} (ran : Ran c s t) (before : LaneIdle s → NothingOffered s) (idle : LaneIdle t) :
    NothingOffered t := by
  cases ran with
  | powerOn | resetN => exact absurd idle.1 nofun
  | nothing | linkInLocked => exact before idle
  | event => exact idle_endEvent idle
  | boundary => exact idle_endBoundary idle

/-! #### A render's reply and its FRAME_START, available together (R134, R140, R165, log 40) -/

/-- The obligation's words for which of the two starts. -/
def RenderStarted (s : State) (reply : QueuedPacket) (kind : RenderKind) (t : State) : Prop :=
  let start := RenderPacket.frameStart kind s.render.nextId s.settings.width s.settings.height
  if Config.idleLaneChoice s.out.choices % 2 = 0
  then t.out.inProgress = some (.queued reply) ∧ t.out.queue = [] ∧ t.out.renderQueue = [start]
  else t.out.inProgress = some (.render start true) ∧ t.out.queue = [reply] ∧ t.out.renderQueue = []

/-- On an idle lane with nothing due, a reply and a render's FRAME_START are offered, and nothing else. -/
theorem twoOffered {s u : State} {reply : QueuedPacket} {start : RenderPacket} (quiet : NothingOffered s) (fifo : u.fifo = s.fifo)
    (queue : u.out.queue = [reply]) (render : u.out.renderQueue = [start]) : offers u = [.queued reply, .render start true] := by
  have raw : offerRaw u = none := by
    rw [offerRaw_none_iff, RawQuiet, fifo]
    exact quiet.2.2
  rw [offers, raw, offerQueued, offerRender, queue, render]
  rfl

theorem renderStarts {s : State} {r : Request} {n : Nat} (can : CanTake s n r) (kind : RenderKind) (idle : LaneIdle s) (quiet : NothingOffered s)
    (free : s.arb.holder = .none) (flag : Bool) (sent : List LaneItem) (flow : Option FlowSymbol) :
    RenderStarted s (r.reply .accepted (bytes2 s.render.nextId)) kind (endEvent (acceptRender kind r (tookRequest flag sent flow s))) := by
  have answered : answer r .accepted (bytes2 s.render.nextId) (tookRequest flag sent flow s)
      = { tookRequest flag sent flow s with out.queue := s.out.queue ++ [r.reply .accepted (bytes2 s.render.nextId)] } :=
    answer_queued (s := tookRequest flag sent flow s) can.locked can.room r .accepted _
  have goes : acceptRender kind r (tookRequest flag sent flow s) = grantRender (openRender kind { tookRequest flag sent flow s with
      out.queue := s.out.queue ++ [r.reply .accepted (bytes2 s.render.nextId)] }) := by
    unfold acceptRender
    rw [show (tookRequest flag sent flow s).render = s.render from rfl, answered]
    exact if_pos free
  have queue := quiet.1
  have renders := quiet.2.1
  have offered := twoOffered (u := acceptRender kind r (tookRequest flag sent flow s))
    (reply := r.reply .accepted (bytes2 s.render.nextId)) (start := .frameStart kind s.render.nextId s.settings.width s.settings.height) quiet
    (by rw [goes]; rfl) (by rw [goes]; exact congrArg (· ++ _) queue) (by rw [goes]; exact congrArg (· ++ _) renders)
  have lane : laneFree (acceptRender kind r (tookRequest flag sent flow s)) = true := by
    rw [laneFree_iff, goes]
    exact idle
  have starts := startFirst_of_two_offers lane offered
  have choices : (acceptRender kind r (tookRequest flag sent flow s)).out.choices = s.out.choices := by
    rw [goes]
    rfl
  have queue' : (acceptRender kind r (tookRequest flag sent flow s)).out.queue = [r.reply .accepted (bytes2 s.render.nextId)] := by
    rw [goes]
    exact congrArg (· ++ _) queue
  have renders' : (acceptRender kind r (tookRequest flag sent flow s)).out.renderQueue
      = [.frameStart kind s.render.nextId s.settings.width s.settings.height] := by
    rw [goes]
    exact congrArg (· ++ _) renders
  unfold RenderStarted
  dsimp only
  rw [choices] at starts
  have out : (endEvent (acceptRender kind r (tookRequest flag sent flow s))).out
      = (startFirst (acceptRender kind r (tookRequest flag sent flow s))).out := rfl
  rw [out, starts]
  split
  · exact ⟨rfl, congrArg List.tail queue', renders'⟩
  · exact ⟨rfl, queue', congrArg List.tail renders'⟩

/-! #### GO_OUT: the next packet (R163, R164) -/

theorem runLane_of {s : State} {p : LanePacket} (free : laneFree s = true) (chosen : choosePacket s = some p) :
    runLane s = beginPacket p s := by
  unfold runLane
  rw [if_pos free, chosen]

theorem choosePacket_raw {s : State} {p : LanePacket} (offered : offerRaw s = some p) (turn : s.out.queue = [] ∨ s.out.rawRun ≠ 32) :
    choosePacket s = some p := by
  have goes : ¬ (decide (s.out.rawRun = Config.rawRunLimit) && !s.out.queue.isEmpty) = true := by
    rw [Bool.and_eq_true, Bool.not_eq_true', List.isEmpty_eq_false_iff, decide_eq_true_iff]
    rintro ⟨full, due⟩
    exact turn.elim due fun short => short full
  rw [choosePacket, if_neg goes, offered]
  rfl

theorem choosePacket_queued {s : State} {q : QueuedPacket} {rest : List QueuedPacket} (queue : s.out.queue = q :: rest)
    (turn : s.out.rawRun = 32 ∨ RawQuiet s) : choosePacket s = some (.queued q) := by
  have offered : offerQueued s = some (.queued q) := by
    rw [offerQueued, queue]
    rfl
  unfold choosePacket
  split
  · exact offered
  · rename_i goes
    rcases turn with full | quiet
    · exact absurd (by rw [queue, decide_eq_true (show s.out.rawRun = Config.rawRunLimit from full)]; rfl) goes
    · rw [(offerRaw_none_iff s).mpr quiet, offered]
      rfl

theorem choosePacket_render {s : State} (queue : s.out.queue = []) (quiet : RawQuiet s) : choosePacket s = offerRender s := by
  unfold choosePacket
  rw [if_neg (by rw [queue]; exact fun both => absurd ((Bool.and_eq_true _ _).mp both).2 nofun), (offerRaw_none_iff s).mpr quiet, offerQueued,
    queue]
  rfl

/-- What the next packet is, and what its beginning leaves, on a lane released from the hold. -/
theorem goOut_next {s t : State} (locked : s.out.locked = true) (lane : s.out.inProgress = none)
    (ends : t = endBoundary { s with out.held := false }) {p : LanePacket} (chosen : choosePacket { s with out.held := false } = some p) :
    t.out = (beginPacket p { s with out.held := false }).out ∧ t.fifo = (beginPacket p { s with out.held := false }).fifo := by
  have starts : runLane { s with out.held := false } = beginPacket p { s with out.held := false } :=
    runLane_of ((laneFree_iff _).mpr ⟨locked, rfl, lane⟩) chosen
  rw [ends, ← starts]
  exact ⟨rfl, rfl⟩

/-- The oldest of the lines that wait. -/
theorem find_oldest {n : Nat} {before after : List FifoEntry} {e : FifoEntry} (waits : e.forward = .pending ∧ e.frame = some n)
    (others : ∀ b ∈ before, ¬ (b.forward = .pending ∧ b.frame = some n)) : (before ++ e :: after).find? (pendingFor n) = some e := by
  have mine : pendingFor n e = true := decide_eq_true waits
  rw [List.find?_append, (noneWaits_iff n before).mpr others, List.find?_cons_of_pos mine]
  rfl

/-- The packet in progress, and the raw-run count that its beginning leaves (R164). -/
def Started (s t : State) (p : LanePacket) (run : Nat) : Prop :=
  t.out.inProgress = some p ∧ t.out.rawRun = run ∧ t.out.sent = s.out.sent

/-- A RAW packet has started, the others wait. -/
def RawNext (s t : State) (p : LanePacket) : Prop :=
  Started s t p (min 32 (s.out.rawRun + 1)) ∧ t.out.queue = s.out.queue ∧ t.out.renderQueue = s.out.renderQueue

theorem rawNext_of {s t : State} {p : LanePacket} (offered : offerRaw s = some p)
    (out : t.out = (beginPacket p { s with out.held := false }).out) : RawNext s t p := by
  unfold RawNext Started
  rw [out]
  cases p with
  | rawStart | rawLine | rawEnd => exact ⟨⟨rfl, rfl, rfl⟩, rfl, rfl⟩
  | queued q => exact absurd offered offerRaw_not_queued
  | render q live => exact absurd offered offerRaw_not_render

/-- A packet in progress goes on. -/
theorem goOut_busy {s t : State} (ends : t = endBoundary { s with out.held := false }) (busy : s.out.inProgress ≠ none) : t.out = { s.out with held := false } := by
  have runs : runLane { s with out.held := false } = { s with out.held := false } :=
    if_neg fun free => busy ((laneFree_iff { s with out.held := false }).mp free).2.2
  rw [ends]
  exact congrArg (·.out) runs

theorem goOut_quiet {s t : State} (ends : t = endBoundary { s with out.held := false }) (queue : s.out.queue = []) (quiet : RawQuiet s) (render : s.out.renderQueue = []) :
    t.out = { s.out with held := false } := by
  have offered : offerRender { s with out.held := false } = none :=
    congrArg (fun q : List RenderPacket => q.head?.map (LanePacket.render · true)) render
  have nothing := (choosePacket_render (s := { s with out.held := false }) queue quiet).trans offered
  have runs : runLane { s with out.held := false } = { s with out.held := false } := by
    unfold runLane
    rw [nothing]
    exact ite_self _
  rw [ends]
  exact congrArg (·.out) runs

section

variable {s t : State} (locked : s.out.locked = true) (ends : t = endBoundary { s with out.held := false }) (lane : s.out.inProgress = none)

include locked ends lane

theorem goOut_queued {q : QueuedPacket} {rest : List QueuedPacket} (queue : s.out.queue = q :: rest) (turn : s.out.rawRun = 32 ∨ RawQuiet s) :
    Started s t (.queued q) 0 ∧ t.out.queue = rest ∧ t.out.renderQueue = s.out.renderQueue ∧ t.fifo = s.fifo := by
  obtain ⟨out, fifo⟩ := goOut_next locked lane ends (choosePacket_queued (s := { s with out.held := false }) queue turn)
  unfold Started
  rw [out, fifo]
  exact ⟨⟨rfl, rfl, rfl⟩, congrArg List.tail queue, rfl, rfl⟩

theorem goOut_raw {p : LanePacket} (offered : offerRaw s = some p) (turn : s.out.queue = [] ∨ s.out.rawRun ≠ 32) :
    RawNext s t p ∧ t.fifo = (beginPacket p { s with out.held := false }).fifo := by
  obtain ⟨out, fifo⟩ := goOut_next locked lane ends (choosePacket_raw (s := { s with out.held := false }) offered turn)
  exact ⟨rawNext_of offered out, fifo⟩

theorem goOut_render {p : RenderPacket} {rest : List RenderPacket} (queue : s.out.queue = []) (quiet : RawQuiet s)
    (render : s.out.renderQueue = p :: rest) :
    Started s t (.render p true) 0 ∧ t.out.renderQueue = rest ∧ t.fifo = s.fifo := by
  have offered : offerRender { s with out.held := false } = some (.render p true) :=
    congrArg (fun q : List RenderPacket => q.head?.map (LanePacket.render · true)) render
  have chosen := (choosePacket_render (s := { s with out.held := false }) queue quiet).trans offered
  obtain ⟨out, fifo⟩ := goOut_next locked lane ends chosen
  unfold Started
  rw [out, fifo]
  cases p <;> exact ⟨⟨rfl, rfl, rfl⟩, congrArg List.tail render, rfl⟩

end

/-- The beginning of a forwarded frame's FRAME_START marks it. -/
theorem rawStart_marks {s : State} {n frameId width height : Nat} {f : ForwardedFrame}
    (mem : f ∈ (beginPacket (.rawStart n frameId width height) s).fifo.frames) (number : f.number = n) : f.startBegun = true := by
  obtain ⟨f', -, rfl⟩ := List.mem_map.mp mem
  by_cases same : f'.number = n
  · rw [if_pos (decide_eq_true same)]
  · rw [if_neg (by simpa using same)] at number
    exact absurd number same

theorem goOut_locked {s : State} (locked : s.out.locked = true) : exec .goOut s = .next (endBoundary { s with out.held := false }) :=
  if_pos locked

theorem holdOut_locked {s : State} (locked : s.out.locked = true) : exec .holdOut s = .next (endEvent { s with out.held := true }) :=
  if_pos locked

/-- Settles O41: by what a command does before its event ends (Ran.idle), the two packets of a render request, and R164. -/
theorem laneServesSourcesInOrder : Obligations.LaneServesSourcesInOrder := by
  refine ⟨fun c s t before runs idle => (ran_of_exec runs).idle before idle, fun s r idle quiet empty unit free => ?_, fun s =>
    ⟨fun unlocked => ?_, fun locked => ?_, fun locked => ?_⟩⟩
  · intro reply started
    refine ⟨fun can take => ?_, fun can take => ?_⟩
    · obtain ⟨flag, sent, flow, same, runs⟩ := exec_form .renderPreview can (congrArg List.length empty)
      have goes : renderPreview r (tookRequest flag sent flow s) = acceptRender .preview r (tookRequest flag sent flow s) := by
        unfold renderPreview
        simp only [List.mem_cons, List.not_mem_nil, or_false, not_or] at take
        obtain ⟨aborted, noTake, clearing, finishing⟩ := take
        split
        · contradiction
        · contradiction
        · contradiction
        · contradiction
        · exact if_pos unit
      rw [goes] at runs
      exact ⟨_, runs, renderStarts can .preview idle quiet free flag sent flow⟩
    · obtain ⟨flag, sent, flow, same, runs⟩ := exec_form .renderRepeat can (congrArg List.length empty)
      have goes : renderRepeat r (tookRequest flag sent flow s) = acceptRender .final r (tookRequest flag sent flow s) := by
        unfold renderRepeat
        rw [show (tookRequest flag sent flow s).seq.takeState = .finished from take]
        exact if_pos unit
      rw [goes] at runs
      exact ⟨_, runs, renderStarts can .final idle quiet free flag sent flow⟩
  · exact ⟨if_neg (by rw [unlocked]; exact Bool.false_ne_true), if_neg (by rw [unlocked]; exact Bool.false_ne_true)⟩
  · have still : startFirst { s with out.held := true } = { s with out.held := true } :=
      startFirst_of_not_free (laneFree_of_held rfl)
    exact ⟨_, holdOut_locked locked, ends_endEvent _, congrArg (·.out) still, congrArg (·.fifo) still⟩
  · refine ⟨_, goOut_locked locked, ends_endBoundary _, goOut_busy rfl, fun lane =>
      ⟨fun q rest queue turn => goOut_queued locked rfl lane queue turn, fun turn g later frames => ⟨fun waits => ?_, fun begun truncated => ?_,
        fun begun whole => ⟨fun before e after entries mine others => ?_, fun none_ closed => ?_⟩⟩,
      fun queue quiet p rest render => goOut_render locked rfl lane queue quiet render,
      fun queue quiet render => goOut_quiet rfl queue quiet render⟩⟩
    · obtain ⟨next, fifo⟩ := goOut_raw locked rfl lane (offerRaw_start frames waits) turn
      refine ⟨next, fun f mem number => ?_⟩
      rw [fifo] at mem
      exact rawStart_marks mem number
    · obtain ⟨next, fifo⟩ := goOut_raw locked rfl lane (offerRaw_truncated frames begun truncated) turn
      exact ⟨next, (congrArg LineFifo.frames fifo).trans (congrArg List.tail frames)⟩
    · exact goOut_raw locked rfl lane ((offerRaw_goesOn frames begun whole).1 e (by rw [entries]; exact find_oldest mine others)) turn
    · have offered : offerRaw s = some (.rawEnd g.linesSent false) := by
        rw [(offerRaw_goesOn frames begun whole).2 ((noneWaits_iff _ _).mpr none_), if_neg (by rw [closed]; exact Bool.false_ne_true)]
      obtain ⟨next, fifo⟩ := goOut_raw locked rfl lane offered turn
      exact ⟨next, (congrArg LineFifo.frames fifo).trans (congrArg List.tail frames)⟩

end Sys2Proof.Machine
end

section
/-! PROOFS. Settles O39: PART_RESET -/

namespace Sys2Proof.Machine

/-! ### O39: PART_RESET -/

/-! #### Steps 1 to 3: the port emptied, GO_REQ handed over, the reply queued -/

/-- What becomes of a HOLD_REQ flag at PART_RESET: GO_REQ on a lane without a packet, or behind the packet in progress (R168, R174). -/
structure FlowReset (s : State) (sent : List LaneItem) (flow : Option FlowSymbol) : Prop where
  atOnce : s.port.holdReqSent = true → s.out.inProgress = none → sent = .symbol .goReq :: s.out.sent
  behind : s.port.holdReqSent = true → s.out.inProgress ≠ none → sent = s.out.sent ∧ flow = some .goReq
  clear : s.port.holdReqSent = false → sent = s.out.sent ∧ flow = s.out.flowWaiting
  begun : sent.reverse.filterMap LaneItem.packet = s.out.sent.reverse.filterMap LaneItem.packet

/-- The port empty, the reply the only packet queued, and the flow symbols as the flag asks. -/
def portReset (r : Request) (sent : List LaneItem) (flow : Option FlowSymbol) (s : State) : State :=
  { s with
    port := { requests := [], holdReqSent := false, waiting := none, lostReports := false },
    out := { s.out with queue := [r.reply .ok []], sent := sent, flowWaiting := flow } }

/-- The port without its requests and its queue, the flag's symbol still to be handed over. -/
def portEmptied (s : State) : State :=
  { s with
    port := { requests := [], holdReqSent := false, waiting := none, lostReports := false }, out.queue := [] }

theorem resetPort_form (r : Request) {s : State} (locked : s.out.locked = true) :
    ∃ sent flow, resetPort r s = portReset r sent flow s ∧ FlowReset s sent flow := by
  have goes : resetPort r s = answer r .ok [] (if s.port.holdReqSent then handFlow .goReq (portEmptied s) else portEmptied s) := rfl
  have joins : ∀ (sent : List LaneItem) (flow : Option FlowSymbol),
      answer r .ok [] { portEmptied s with out.sent := sent, out.flowWaiting := flow } = portReset r sent flow s := fun sent flow =>
    answer_queued (s := { portEmptied s with out.sent := sent, out.flowWaiting := flow }) locked (show 0 < 16 by decide) r .ok []
  by_cases flag : s.port.holdReqSent = true
  · rw [if_pos flag] at goes
    cases lane : s.out.inProgress with
    | none =>
      refine ⟨.symbol .goReq :: s.out.sent, s.out.flowWaiting, ?_, fun _ _ => rfl, fun _ busy => absurd lane busy,
        fun clear => absurd (flag.symm.trans clear) nofun, ?_⟩
      · rw [goes, ← joins]
        congr 1
        unfold handFlow
        rw [if_pos (by exact locked), show (portEmptied s).out.inProgress = none from lane]
        rfl
      · rw [List.reverse_cons, List.filterMap_append]
        exact List.append_nil _
    | some p =>
      refine ⟨s.out.sent, some .goReq, ?_, fun _ idle => absurd (lane.symm.trans idle) nofun, fun _ _ => ⟨rfl, rfl⟩,
        fun clear => absurd (flag.symm.trans clear) nofun, rfl⟩
      rw [goes, ← joins]
      congr 1
      unfold handFlow
      rw [if_pos (by exact locked), show (portEmptied s).out.inProgress = some p from lane]
      rfl
  · rw [if_neg flag] at goes
    exact ⟨s.out.sent, s.out.flowWaiting, goes.trans (joins s.out.sent s.out.flowWaiting), fun yes => absurd yes flag,
      fun yes => absurd yes flag, fun _ => ⟨rfl, rfl⟩, rfl⟩

/-! #### The render closed (R104, R130, R142, R145) -/

/-- The render packets that are left: of an ACTIVE render what has not begun is withdrawn, and its FRAME_END follows once its
FRAME_START has begun. -/
def droppedQueue (s : State) : List RenderPacket :=
  if s.render.state = .active
    then s.out.renderQueue.filter RenderPacket.isFrameEnd ++ (if s.render.startBegun
      then [.frameEnd s.render.kind (s.render.linesSent + boolCode (lineInProgress s)) true] else [])
    else s.out.renderQueue

/-- The packet in progress; one of an ACTIVE render is one of no render in hand. -/
def droppedLane (s : State) : Option LanePacket :=
  if s.render.state = .active then s.out.inProgress.map LanePacket.detach else s.out.inProgress

/-- The report of a render in hand (R142), where its kind is enabled. -/
def renderReport (s : State) : List QueuedPacket :=
  if s.render.state ≠ .idle ∧ s.params.reportMask.getLsbD 4 then [.report .renderAbandoned false [byteOf s.render.kind.code, 3#8]] else []

/-- The report of a take state that changes (R190 step 5), where its kind is enabled. -/
def takeReport (s : State) : List QueuedPacket :=
  if s.seq.takeState ≠ .noTake ∧ s.params.reportMask.getLsbD 2 then [.report .takeState false [0#8, 0#8, 0#8, 0#8, 0#8]] else []

/-- With room, and no report lost, a report of an enabled kind joins the queue, and one of a disabled kind is not formed. -/
theorem queueReport_fresh (k : ReportKind) (p : List Byte) {s : State} (locked : s.out.locked = true) (room : s.out.queue.length < 16)
    (lost : s.port.lostReports = false) : queueReport k p s = { s with
      out.queue := s.out.queue ++ if s.params.reportMask.getLsbD (k.code - 1) then [.report k false p] else [] } := by
  obtain ⟨joins, -, off⟩ := report_joins k p s
  cases enabled : s.params.reportMask.getLsbD (k.code - 1) with
  | true =>
    rw [joins enabled ⟨locked, room⟩, if_pos rfl, ← lost]
  | false =>
    rw [off enabled, if_neg Bool.false_ne_true, List.append_nil]

theorem afterAbandonment_reset (final : Bool) {s : State} (unheld : s.seq.finalHeld = false) :
    afterAbandonment final .partReset s = s := by
  unfold afterAbandonment
  rw [if_neg (by rw [Bool.and_eq_true]; exact fun both => absurd both.2 (by decide))]
  exact handHeldFinal_unheld unheld

theorem releasePlane_unclaimed {s : State} (waits : s.arb.waiting = .none) : releasePlane s = { s with arb.holder := .none } := by
  unfold releasePlane
  rw [waits]

/-- The Render Unit with no render in hand, and the frame id counter at 0. -/
def renderOff (queue : List QueuedPacket) (s : State) : State :=
  { s with
    seq.finalHeld := false, arb := Arbiter.reset, render := { s.render with state := .idle, nextId := 0 },
    out := { s.out with queue := queue, renderQueue := droppedQueue s, inProgress := droppedLane s } }

theorem withdrawn_reset {s : State} (active : s.render.state = .active) : withdrawFrame .partReset s
    = { s with out.renderQueue := droppedQueue s, out.inProgress := droppedLane s } := by
  unfold withdrawFrame droppedQueue droppedLane
  rw [if_pos active, if_pos active]
  dsimp only
  rw [decide_eq_true (show AbandonReason.partReset ≠ .linkDown from nofun), Bool.and_true]
  cases lineInProgress s <;> rfl

/-- No FINAL request held and no claim waiting. -/
def unclaimed (s : State) : State := { s with seq.finalHeld := false, arb.waiting := .none }

/-- The Render Unit IDLE, and what it had handed over withdrawn. -/
def unitDropped (s : State) : State :=
  { unclaimed s with render.state := .idle, out.renderQueue := droppedQueue s, out.inProgress := droppedLane s }

theorem dropped_of_not_active {s : State} (other : s.render.state ≠ .active) :
    droppedQueue s = s.out.renderQueue ∧ droppedLane s = s.out.inProgress := ⟨if_neg other, if_neg other⟩

/-- An abandonment at PART_RESET: nothing, or the packets withdrawn and the report (R142, R145). -/
theorem abandonRender_reset (s : State) : { abandonRender .partReset (unclaimed s) with render.nextId := 0, arb := Arbiter.reset }
    = if s.render.state = .idle then { unclaimed s with render.nextId := 0, arb := Arbiter.reset }
      else { queueReport .renderAbandoned [byteOf s.render.kind.code, 3#8] (unitDropped s) with render.nextId := 0, arb := Arbiter.reset } := by
  have frame := queueReport_frame .renderAbandoned [byteOf s.render.kind.code, 3#8] (unitDropped s)
  have e := fun {α : Type} (f : State → α) => congrArg f frame
  have unheld : (queueReport .renderAbandoned [byteOf s.render.kind.code, 3#8] (unitDropped s)).seq.finalHeld = false := e (·.seq.finalHeld)
  have waits : (queueReport .renderAbandoned [byteOf s.render.kind.code, 3#8] (unitDropped s)).arb.waiting = .none := e (·.arb.waiting)
  unfold abandonRender
  cases state : s.render.state with
  | idle =>
    rw [show (unclaimed s).render.state = .idle from state, if_pos rfl]
  | pending =>
    obtain ⟨queue, lane⟩ := dropped_of_not_active (s := s) (by rw [state]; exact nofun)
    have same : ({ unclaimed s with render.state := .idle, arb.waiting := .none } : State) = unitDropped s := by
      unfold unitDropped
      rw [queue, lane]
      rfl
    rw [show (unclaimed s).render.state = .pending from state, if_neg (by exact nofun)]
    dsimp only
    rw [same]
    exact congrArg (fun x : State => { x with render.nextId := 0, arb := Arbiter.reset }) (afterAbandonment_reset _ unheld)
  | active =>
    have same : ({ withdrawFrame .partReset (unclaimed s) with render.state := .idle } : State) = unitDropped s := by
      rw [withdrawn_reset (s := unclaimed s) state]
      rfl
    rw [show (unclaimed s).render.state = .active from state, if_neg (by exact nofun)]
    dsimp only
    rw [same]
    have released := releasePlane_unclaimed waits
    have after := afterAbandonment_reset (isSequencerFinal (unclaimed s)) (s := releasePlane (queueReport .renderAbandoned
      [byteOf s.render.kind.code, 3#8] (unitDropped s))) (by rw [released]; exact unheld)
    rw [released] at after
    exact (congrArg (fun x : State => { x with render.nextId := 0, arb := Arbiter.reset })
      ((congrArg (afterAbandonment _ .partReset) released).trans after)).trans rfl

theorem resetRender_form {s : State} (locked : s.out.locked = true) (room : s.out.queue.length < 16) (lost : s.port.lostReports = false) :
    resetRender s = renderOff (s.out.queue ++ renderReport s) s := by
  have goes : resetRender s = { abandonRender .partReset (unclaimed s) with render.nextId := 0, arb := Arbiter.reset } := rfl
  rw [goes, abandonRender_reset]
  by_cases idle : s.render.state = .idle
  · obtain ⟨queue, lane⟩ := dropped_of_not_active (s := s) (by rw [idle]; exact nofun)
    have none_ : renderReport s = [] := if_neg fun both => both.1 idle
    rw [if_pos idle, renderOff, queue, lane, none_, List.append_nil, ← idle]
    rfl
  · have report : renderReport s = if s.params.reportMask.getLsbD 4 then [.report .renderAbandoned false [byteOf s.render.kind.code, 3#8]] else [] :=
      if_congr (and_iff_right idle) rfl rfl
    rw [if_neg idle, queueReport_fresh .renderAbandoned _ (s := unitDropped s) locked room lost, renderOff, report]
    rfl

/-! #### The blocks, the take state and the lines (R27, R190) -/

/-- Everything but the lines at the end of PART_RESET, from the free values and the flow symbols it took. -/
def afterReset (r : Request) (plane : Memory Pixel) (k n : Nat) (sent : List LaneItem) (flow : Option FlowSymbol) (s : State) : State :=
  { s with
    seq := Sequencer.reset, log := SubframeLog.empty, meas := MeasurementTimer.reset, heater.duty := 0,
    link := { LinkReceiver.reset with locked := s.link.locked }, fifo.entries := [], fifo.frames := [], cal := Calibration.reset,
    plane := plane, arb := Arbiter.reset, trails := TrailDetector.reset, render := { s.render with state := .idle, nextId := 0 },
    bridge := resetBridge k s.bridge, freeSeq := n,
    port := { requests := [], holdReqSent := false, waiting := none, lostReports := false },
    out := { s.out with
      held := false, rawRun := 0, queue := r.reply .ok [] :: (renderReport s ++ takeReport s), renderQueue := droppedQueue s,
      inProgress := droppedLane s, sent := sent, flowWaiting := flow } }

theorem renderReport_length (s : State) : (renderReport s).length ≤ 1 := by
  unfold renderReport
  split
  · exact Nat.le_refl 1
  · exact Nat.zero_le 1

theorem outside_driveLine (u : State) (l : LineNo) (x : LineState) : (driveLine u l x).outside = x.outside := by
  have rest := driveLine_rest u l x
  have e := fun {α : Type} (f : LineState → α) => congrArg f rest
  exact e (·.outside)

/-- The take state enters NO_TAKE, reported where it changes (R1, R190). -/
theorem resetTake_form (r : Request) (plane : Memory Pixel) (k n : Nat) (sent : List LaneItem) (flow : Option FlowSymbol) {s : State}
    (locked : s.out.locked = true) : ∃ lines : LineBank, (∀ l, (lines.get l).outside = (s.lines.get l).outside)
      ∧ resetTake { afterReset r plane k n sent flow s with
          seq := { Sequencer.reset with takeState := s.seq.takeState }, out.queue := r.reply .ok [] :: renderReport s }
        = { afterReset r plane k n sent flow s with lines := lines } := by
  by_cases take : s.seq.takeState = .noTake
  · have none_ : takeReport s = [] := if_neg fun both => both.1 take
    refine ⟨s.lines, fun _ => rfl, ?_⟩
    unfold resetTake afterReset
    rw [take, none_, List.append_nil]
    rfl
  · have report : takeReport s = if s.params.reportMask.getLsbD 2 then [.report .takeState false [0#8, 0#8, 0#8, 0#8, 0#8]] else [] :=
      if_congr (and_iff_right take) rfl rfl
    have room : (r.reply .ok [] :: renderReport s).length < 16 := by
      have := renderReport_length s
      rw [List.length_cons]
      omega
    have fresh := queueReport_fresh .takeState [0#8, 0#8, 0#8, 0#8, 0#8]
      (s := { afterReset r plane k n sent flow s with out.queue := r.reply .ok [] :: renderReport s }) locked room rfl
    have goes : resetTake { afterReset r plane k n sent flow s with
          seq := { Sequencer.reset with takeState := s.seq.takeState }, out.queue := r.reply .ok [] :: renderReport s }
        = driveLines (queueReport .takeState [0#8, 0#8, 0#8, 0#8, 0#8]
          { afterReset r plane k n sent flow s with out.queue := r.reply .ok [] :: renderReport s }) := by
      have zeros : byteOf 0 :: byteOf 0 :: byteOf 0 :: bytes2 0 = [0#8, 0#8, 0#8, 0#8, 0#8] := by decide
      unfold resetTake
      rw [if_neg (by exact take), ← zeros]
      rfl
    rw [goes, fresh]
    refine ⟨_, fun l => ?_, congrArg (fun q : List QueuedPacket => driveLines { afterReset r plane k n sent flow s with
      out.queue := r.reply .ok [] :: q }) (congrArg (renderReport s ++ ·) report.symm)⟩
    rw [LineBank.get_map]
    exact outside_driveLine _ l (s.lines.get l)

theorem partReset_form (r : Request) {s : State} (locked : s.out.locked = true) : ∃ sent flow plane k n lines,
    partReset r s = resetLines { afterReset r plane k n sent flow s with lines := lines } ∧ FlowReset s sent flow
      ∧ (∀ l, (lines.get l).outside = (s.lines.get l).outside)
      ∧ (s.arb.holder ≠ .clearing → plane = s.plane) ∧ (s.arb.holder = .clearing → plane = (stopClearing s).plane) := by
  obtain ⟨sent, flow, port, flows⟩ := resetPort_form r locked
  have ends : ∀ (plane : Memory Pixel) (n : Nat) (holder : Holder), stopPass (portReset r sent flow s)
      = { portReset r sent flow s with plane := plane, freeSeq := n, arb.holder := holder } →
      ∃ lines : LineBank, (∀ l, (lines.get l).outside = (s.lines.get l).outside)
        ∧ partReset r s = resetLines { afterReset r plane n (n + 1) sent flow s with lines := lines } := by
    intro plane n holder stopped
    have gone := resetRender_form (s := { portReset r sent flow s with plane := plane, freeSeq := n, arb.holder := holder }) locked
      (show 1 < 16 by decide) rfl
    obtain ⟨lines, outside, take⟩ := resetTake_form r plane n (n + 1) sent flow locked
    refine ⟨lines, outside, ?_⟩
    unfold partReset
    rw [port, stopped, gone, ← take]
    rfl
  by_cases holder : s.arb.holder = .clearing
  · obtain ⟨lines, outside, whole⟩ := ends (stopClearing s).plane (s.freeSeq + 1) .none (if_pos holder)
    exact ⟨sent, flow, _, _, _, lines, whole, flows, outside, fun other => absurd holder other, fun _ => rfl⟩
  · obtain ⟨lines, outside, whole⟩ := ends s.plane s.freeSeq s.arb.holder (if_neg holder)
    exact ⟨sent, flow, _, _, _, lines, whole, flows, outside, fun _ => rfl, fun clearing => absurd clearing holder⟩

/-- A line restarted, at the end of the event (R27). -/
theorem resetLine_end {u : State} (l : LineNo) : let t := endEvent (resetLines u)
    (t.lines.get l).user = false ∧ (t.lines.get l).debounceTimer = none ∧ (t.lines.get l).minTimer = none
      ∧ match (lineSetup t l).use with
        | .output source _ => (t.lines.get l).driven = sourceLevel t (t.lines.get l) source
        | .input _ _ => (t.lines.get l).accepted = (u.lines.get l).outside := by
  intro t
  have tables : t.tables = u.tables := by
    obtain ⟨-, -, -, -, -, -, -, -, -, -, -, tables, -⟩ := endEvent_fields (resetLines u)
    exact tables
  have level : ∀ x source, sourceLevel t x source = sourceLevel u x source := sourceLevel_endEvent (resetLines u)
  have own : (resetLines u).lines.get l = restartLine u l { u.lines.get l with user := false } :=
    (LineBank.get_map _ _ _).trans (congrArg (restartLine u l) (LineBank.get_map _ _ _))
  have line : t.lines.get l = driveLine (resetLines u) l (restartLine u l { u.lines.get l with user := false }) := by
    show (endEvent (resetLines u)).lines.get l = _
    rw [lines_endEvent, LineBank.get_map, own]
  rw [lineSetup_congr tables]
  cases use : (lineSetup u l).use with
  | output source minPulse =>
    have restarted : restartLine u l { u.lines.get l with user := false }
        = { u.lines.get l with
            user := false, driven := sourceLevel u { u.lines.get l with user := false } source, minTimer := none, debounceTimer := none } := by
      unfold restartLine
      rw [use]
    have settled : t.lines.get l = restartLine u l { u.lines.get l with user := false } := by
      refine line.trans (driveLine_settled (s := resetLines u) use ?_)
      rw [restarted]
      cases source <;> rfl
    rw [settled, restarted]
    refine ⟨rfl, rfl, rfl, ?_⟩
    dsimp only
    rw [level]
    cases source <;> rfl
  | input function debounce =>
    have restarted : restartLine u l { u.lines.get l with user := false }
        = { u.lines.get l with user := false, accepted := (u.lines.get l).outside, minTimer := none, debounceTimer := none } := by
      unfold restartLine
      rw [use]
    have still : ∀ x, driveLine (resetLines u) l x = x := by
      intro x
      unfold driveLine
      rw [show (lineSetup (resetLines u) l).use = .input function debounce from use]
    rw [line, still, restarted]
    exact ⟨rfl, rfl, rfl, rfl⟩

/-! #### The lane behind it (R165, log 40) -/

/-- What the beginning of a reply, a report or a render packet leaves alone. -/
structure LaneKept (s t : State) : Prop where
  sent : t.out.sent = s.out.sent
  flow : t.out.flowWaiting = s.out.flowWaiting
  fifo : t.fifo = s.fifo
  nextId : t.render.nextId = s.render.nextId
  rawRun : s.out.rawRun = 0 → t.out.rawRun = 0

theorem laneKept_queued (q : QueuedPacket) (s : State) : LaneKept s (beginPacket (.queued q) s) := ⟨rfl, rfl, rfl, rfl, fun _ => rfl⟩

theorem laneKept_render (p : RenderPacket) (live : Bool) (s : State) : LaneKept s (beginPacket (.render p live) s) := by
  cases p <;> exact ⟨rfl, rfl, rfl, rfl, fun _ => rfl⟩

theorem begin_render_queue (p : RenderPacket) (live : Bool) (s : State) :
    (beginPacket (.render p live) s).out.renderQueue = s.out.renderQueue.tail := by
  cases p <;> rfl

/-- A lane with a reply due, no RAW packet, and the render packets of renderQueue. -/
theorem lane_afterReset {v : State} {reply : QueuedPacket} {rest : List QueuedPacket} (locked : v.out.locked = true) (held : v.out.held = false)
    (frames : v.fifo.frames = []) (queue : v.out.queue = reply :: rest) : LaneKept v (startFirst v)
      ∧ (∀ p, v.out.inProgress = some p → (startFirst v).out.inProgress = some p ∧ (startFirst v).out.renderQueue = v.out.renderQueue)
      ∧ (v.out.inProgress = none → v.out.renderQueue = [] →
        (startFirst v).out.inProgress = some (.queued reply) ∧ (startFirst v).out.renderQueue = [])
      ∧ (v.out.inProgress = none → ∀ p behind, v.out.renderQueue = p :: behind →
        if Config.idleLaneChoice v.out.choices % 2 = 0
        then (startFirst v).out.inProgress = some (.queued reply) ∧ (startFirst v).out.renderQueue = v.out.renderQueue
        else (startFirst v).out.inProgress = some (.render p true) ∧ (startFirst v).out.renderQueue = behind) := by
  have raw : offerRaw v = none := by
    unfold offerRaw
    rw [frames]
  have offered : offers v = .queued reply :: (v.out.renderQueue.head?.map fun p => LanePacket.render p true).toList := by
    rw [offers, raw, offerQueued, offerRender, queue]
    rfl
  cases lane : v.out.inProgress with
  | some p =>
    have busy : laneFree v = false := Bool.eq_false_iff.mpr fun free => absurd (lane.symm.trans (laneFree_inProgress free)) nofun
    rw [startFirst_of_not_free busy]
    exact ⟨⟨rfl, rfl, rfl, rfl, id⟩, fun q at_ => ⟨lane.trans at_, rfl⟩, nofun, nofun⟩
  | none =>
    have free : laneFree v = true := (laneFree_iff v).mpr ⟨locked, held, lane⟩
    cases renders : v.out.renderQueue with
    | nil =>
      rw [renders] at offered
      rw [startFirst_of_one_offer free offered]
      exact ⟨laneKept_queued reply v, nofun, fun _ _ => ⟨rfl, renders⟩, fun _ _ _ => nofun⟩
    | cons p behind =>
      rw [renders] at offered
      rw [startFirst_of_two_offers free offered]
      by_cases first : Config.idleLaneChoice v.out.choices % 2 = 0
      · rw [if_pos first]
        refine ⟨⟨rfl, rfl, rfl, rfl, fun _ => rfl⟩, nofun, fun _ => nofun, fun _ q later at_ => ?_⟩
        rw [if_pos first]
        exact ⟨rfl, renders⟩
      · rw [if_neg first]
        have kept := laneKept_render p true { v with out.choices := v.out.choices + 1 }
        refine ⟨⟨kept.sent, kept.flow, kept.fifo, kept.nextId, kept.rawRun⟩, nofun, fun _ => nofun, fun _ q later at_ => ?_⟩
        obtain ⟨rfl, rfl⟩ := List.cons.inj at_
        rw [if_neg first, beginPacket_inProgress, begin_render_queue]
        exact ⟨rfl, congrArg List.tail renders⟩

theorem queuedPart_droppedLane (s : State) :
    (droppedLane s).toList.filterMap LanePacket.queuedPart = s.out.inProgress.toList.filterMap LanePacket.queuedPart := by
  unfold droppedLane
  split
  · cases s.out.inProgress with
    | none => rfl
    | some p =>
      rw [Option.map_some, Option.toList_some, Option.toList_some, List.filterMap_cons, List.filterMap_cons, (queuedPart_detach p).1]
  · rfl

/-- What stood on the bus, cut by a stop condition before its last action (R146, log 36). -/
theorem resetBridge_bus (k : Nat) (b : SensorBridge) :
    (∀ f, b.inFlight = some f → ∃ j ≤ f.actions.length - 1,
        (resetBridge k b).bus = { speed := f.speed, actions := f.actions.take j ++ [.stop] } :: b.bus)
      ∧ (∀ speed, b.inFlight = none → b.train = some speed → ∃ j ≤ 9,
        (resetBridge k b).bus = { speed := speed, actions := (ninePulses speed).actions.take j ++ [.stop] } :: b.bus)
      ∧ (b.inFlight = none → b.train = none → (resetBridge k b).bus = b.bus) := by
  refine ⟨fun f flight => ?_, fun speed idle train => ?_, fun idle still => ?_⟩
  · refine ⟨min (Config.cutActions k) (f.actions.length - 1), Nat.min_le_right _ _, ?_⟩
    unfold resetBridge runInHand
    rw [flight]
    rfl
  · refine ⟨min (Config.cutActions k) 9, Nat.min_le_right _ _, ?_⟩
    unfold resetBridge runInHand
    rw [idle, train]
    rfl
  · unfold resetBridge runInHand
    rw [idle, still]
    rfl

/-- Settles O39: PART_RESET in one form (partReset_form), the lane and the lines at the end of its event. -/
theorem partResetLeavesResetState : Obligations.PartResetLeavesResetState := by
  intro s r head kind empty locked clears
  obtain ⟨sent, flow, plane, k, n, lines, whole, flows, outside, planeKept, planeCut⟩ := partReset_form r locked
  have runs : exec .partReset s = .next (endEvent (partReset r s)) := by
    show execPartReset s = _
    unfold execPartReset
    cases requests : s.port.requests with
    | nil => exact absurd head (by rw [requests]; exact nofun)
    | cons first later =>
      obtain rfl : first = r := by
        rw [requests] at head
        exact Option.some.inj head
      exact if_pos (by rw [empty, Bool.and_eq_true]; exact ⟨decide_eq_true kind, rfl⟩)
  rw [whole] at runs
  obtain ⟨seq, log, meas, temps, heater, link, cal, plane', arb, trails, bridge, tables, params, settings, now, -, -, entries, state, locked', held⟩ :=
    endEvent_fields (resetLines { afterReset r plane k n sent flow s with lines := lines })
  obtain ⟨kept, busy, alone, two⟩ := lane_afterReset (v := resetLines { afterReset r plane k n sent flow s with lines := lines }) locked rfl rfl rfl
  obtain ⟨cutFlight, cutTrain, uncut⟩ := resetBridge_bus k s.bridge
  refine ⟨_, runs, seq, log, meas, cal, trails, ?_, arb, fun f flight => ?_, fun speed idle train => ?_, fun idle still => ?_,
    fun flag idle => ?_, fun flag lane => ?_, fun flag => ?_, link, entries, congrArg LineFifo.frames kept.fifo, state, kept.nextId, heater, temps, ?_,
    locked'.trans locked, held, kept.rawRun rfl, ?_, tables, params, settings, now, fun other => ?_, fun clearing => ?_, fun l => ?_, ?_⟩
  · exact bridge.trans (congrArg (fun b : SensorBridge => { SensorBridge.reset with bus := b.bus }) bridge.symm)
  · obtain ⟨j, few, bus⟩ := cutFlight f flight
    exact ⟨j, few, (congrArg SensorBridge.bus bridge).trans bus⟩
  · obtain ⟨j, few, bus⟩ := cutTrain speed idle train
    exact ⟨j, few, (congrArg SensorBridge.bus bridge).trans bus⟩
  · exact (congrArg SensorBridge.bus bridge).trans (uncut idle still)
  · exact kept.sent.trans (flows.atOnce flag idle)
  · obtain ⟨same, waits⟩ := flows.behind flag lane
    exact ⟨kept.sent.trans same, kept.flow.trans waits⟩
  · obtain ⟨same, still⟩ := flows.clear flag
    exact ⟨kept.sent.trans same, kept.flow.trans still⟩
  · exact port_endEvent _
  · intro left begins
    have lane : ∀ p, s.out.inProgress = some p → droppedLane s = some (if s.render.state = .active then p.detach else p) := by
      intro p at_
      unfold droppedLane
      rw [at_]
      split <;> rfl
    have idle : s.out.inProgress = none → droppedLane s = none := by
      intro none_
      unfold droppedLane
      rw [none_]
      split <;> rfl
    exact ⟨fun p at_ => busy _ (lane p at_), fun none_ nothing => alone (idle none_) nothing,
      fun none_ p behind at_ => two (idle none_) p behind at_⟩
  · exact plane'.trans (planeKept other)
  · intro reached a
    rw [← readPixel_stopClearing]
    unfold readPixel
    rw [plane', show (resetLines { afterReset r plane k n sent flow s with lines := lines }).plane = plane from rfl, planeCut clearing]
  · obtain ⟨user, debounce, pulse, level⟩ := resetLine_end (u := { afterReset r plane k n sent flow s with lines := lines }) l
    refine ⟨user, debounce, pulse, ?_⟩
    rw [← outside l]
    exact level
  · rw [queuedTraffic_endEvent]
    have begun : (begunPackets (resetLines { afterReset r plane k n sent flow s with lines := lines })).filterMap LanePacket.queuedPart
        = (begunPackets s).filterMap LanePacket.queuedPart := by
      show (sent.reverse.filterMap LaneItem.packet ++ (droppedLane s).toList).filterMap LanePacket.queuedPart = _
      rw [flows.begun, List.filterMap_append, queuedPart_droppedLane, ← List.filterMap_append]
      rfl
    unfold queuedTraffic
    rw [begun]
    rfl

end Sys2Proof.Machine
end

section
/-! PROOFS. Settles O51: one entry through ingest, sample by sample, and the Trail Detector -/

namespace Sys2Proof.Machine

/-! ### O51: the Trail Detector -/

/-! #### A trail that closes (R123 to R125, R128) -/

theorem closeTrail_small {t : OpenTrail} {s : State} (small : t.extent < s.params.minExtent) : closeTrail t s = s := if_pos small

theorem onRecord_onRecord (f g : SubframeRecord → SubframeRecord) (s : State) : onRecord f (onRecord g s) = onRecord (fun q => f (g q)) s := by
  unfold onRecord
  simp only [Option.map_map]
  rfl

theorem closeTrail_late {t : OpenTrail} {s : State} (large : s.params.minExtent ≤ t.extent) (late : 255 < s.trails.counter) :
    closeTrail t s = onRecord (fun q => { q with trails := q.trails + 1, vetoFull := true, trailQueueFull := true }) s := by
  unfold closeTrail
  rw [if_neg (Nat.not_lt.mpr large)]
  dsimp only
  rw [if_neg (Nat.not_le.mpr late), onRecord_onRecord]

/-- The box of a trail. -/
def OpenTrail.box (t : OpenTrail) : TrailBox := { firstRow := t.firstRow, lastRow := t.lastRow, minCol := t.minCol, maxCol := t.maxCol }

/-- A numbered record, offered to the veto list and to the Trail Queue. -/
def trailNumbered (t : OpenTrail) (s : State) : State :=
  { s with
    trails := { s.trails with
      counter := s.trails.counter + 1,
      current.boxes := s.trails.current.boxes ++ (if decide (s.trails.current.boxes.length < 16) then [t.box] else []),
      queue := s.trails.queue ++ (if decide (s.trails.queue.length < 32) && s.params.reportMask.getLsbD 1 then [{
        subframe := subframeIndex s, number := s.trails.counter, box := t.box, flagged := t.flagged, sky := t.sky,
        ground := t.ground, vetoing := decide (s.trails.current.boxes.length < 16) }] else []) },
    log.openRecord := s.log.openRecord.map fun q => { q with
      trails := q.trails + 1, vetoFull := q.vetoFull || !decide (s.trails.current.boxes.length < 16),
      trailQueueFull := q.trailQueueFull || !decide (s.trails.queue.length < 32) } }

theorem subframeIndex_onRecord {f : SubframeRecord → SubframeRecord} (index : ∀ q, (f q).index = q.index) (s : State) :
    subframeIndex (onRecord f s) = subframeIndex s := by
  unfold subframeIndex onRecord
  cases s.log.openRecord with
  | none => rfl
  | some q => exact index q

/-- The offer to the Trail Queue, in one form. -/
theorem offerToQueue_eq (record : TrailRecord) (s : State) : offerToQueue record s = onRecord
    (fun q => { q with trailQueueFull := q.trailQueueFull || !decide (s.trails.queue.length < 32) })
    { s with trails.queue := s.trails.queue
      ++ if decide (s.trails.queue.length < 32) && s.params.reportMask.getLsbD 1 then [record] else [] } := by
  unfold offerToQueue onRecord
  by_cases room : s.trails.queue.length < 32
  · rw [if_pos (by exact room), decide_eq_true room, Bool.true_and]
    have same : s.log.openRecord.map (fun q : SubframeRecord => { q with trailQueueFull := q.trailQueueFull || !true }) = s.log.openRecord := by
      simp only [Bool.not_true, Bool.or_false]
      exact Option.map_id'
    rw [same]
    show (if s.params.reportMask.getLsbD 1 = true then _ else _) = _
    split
    · rfl
    · rw [List.append_nil]
  · rw [if_neg (by exact room), decide_eq_false room, Bool.false_and, if_neg Bool.false_ne_true, List.append_nil]
    simp only [Bool.not_false, Bool.or_true]

/-- The offer to the veto list, in one form. -/
theorem listed_eq (box : TrailBox) (s : State) (u : State) (same : u.trails.current = s.trails.current) :
    (if decide (s.trails.current.boxes.length < 16) then { u with trails.current.boxes := s.trails.current.boxes ++ [box] }
      else onRecord (fun q => { q with vetoFull := true }) u)
      = onRecord (fun q => { q with vetoFull := q.vetoFull || !decide (s.trails.current.boxes.length < 16) }) { u with
        trails.current.boxes := s.trails.current.boxes ++ if decide (s.trails.current.boxes.length < 16) then [box] else [] } := by
  unfold onRecord
  cases decide (s.trails.current.boxes.length < 16) with
  | true =>
    have kept : u.log.openRecord.map (fun q : SubframeRecord => { q with vetoFull := q.vetoFull || !true }) = u.log.openRecord := by
      simp only [Bool.not_true, Bool.or_false]
      exact Option.map_id'
    rw [kept]
    rfl
  | false =>
    rw [if_neg Bool.false_ne_true, if_neg Bool.false_ne_true, List.append_nil, ← same]
    simp only [Bool.not_false, Bool.or_true]

/-- One more trail in the open record. -/
def trailCounted (s : State) : State := onRecord (fun q => { q with trails := q.trails + 1 }) s

theorem closeTrail_numbered {t : OpenTrail} {s : State} (large : s.params.minExtent ≤ t.extent) (early : s.trails.counter ≤ 255) :
    closeTrail t s = trailNumbered t s := by
  have index : subframeIndex (trailCounted s) = subframeIndex s := by
    refine subframeIndex_onRecord ?_ s
    exact fun _ => rfl
  have listed := listed_eq t.box s { trailCounted s with trails.counter := s.trails.counter + 1 } rfl
  have goes : closeTrail t s = recordTrail t (trailCounted s) :=
    (if_neg (Nat.not_lt.mpr large)).trans (if_pos early)
  rw [goes]
  unfold recordTrail
  dsimp only
  rw [index, offerToQueue_eq]
  refine (congrArg (fun u : State => onRecord (fun q => { q with
    trailQueueFull := q.trailQueueFull || !decide (u.trails.queue.length < 32) }) { u with
      trails.queue := u.trails.queue ++ if decide (u.trails.queue.length < 32) && u.params.reportMask.getLsbD 1 then [{
        subframe := subframeIndex s, number := s.trails.counter, box := t.box, flagged := t.flagged, sky := t.sky,
        ground := t.ground, vetoing := decide (s.trails.current.boxes.length < 16) }] else [] }) listed).trans ?_
  unfold trailNumbered trailCounted onRecord
  dsimp only
  rw [Option.map_map, Option.map_map]
  rfl

/-! #### The rows of a segment (R118 to R121) -/

section

variable {row : Nat} {g : Segment} {s : State}

/-- A segment that matches no open trail opens one, where one can be opened (R119, R121). -/
theorem takeSegment_opens (missed : ∀ t ∈ s.trails.openTrails, matchesTrail s.params row g t = false) (room : s.trails.openTrails.length < 16) :
    takeSegment row g s = { s with trails.openTrails := s.trails.openTrails ++ [g.asTrail row] } := by
  have none_ : s.trails.openTrails.filter (matchesTrail s.params row g) = [] :=
    List.filter_eq_nil_iff.mpr fun t mem yes => absurd ((missed t mem).symm.trans yes) nofun
  unfold takeSegment
  dsimp only
  rw [none_]
  exact if_pos room

theorem takeSegment_unattributed (missed : ∀ t ∈ s.trails.openTrails, matchesTrail s.params row g t = false)
    (full : 16 ≤ s.trails.openTrails.length) :
    takeSegment row g s = onRecord (fun q => { q with unattributed := min 4095 (q.unattributed + 1) }) s := by
  have none_ : s.trails.openTrails.filter (matchesTrail s.params row g) = [] :=
    List.filter_eq_nil_iff.mpr fun t mem yes => absurd ((missed t mem).symm.trans yes) nofun
  unfold takeSegment
  dsimp only
  rw [none_]
  exact if_neg (Nat.not_lt.mpr full)

/-- A segment that matches joins the oldest trail it matches, the others merged into it (R119, R120). -/
theorem takeSegment_joins {before after : List OpenTrail} {t : OpenTrail} (trails : s.trails.openTrails = before ++ t :: after)
    (missed : ∀ u ∈ before, matchesTrail s.params row g u = false) (matched : matchesTrail s.params row g t = true) :
    takeSegment row g s = { s with
      trails.openTrails := before ++ (t :: after.filter (matchesTrail s.params row g)).foldl (foldTrail row) (g.asTrail row)
        :: after.filter (fun u => !matchesTrail s.params row g u) } := by
  have hits : s.trails.openTrails.filter (matchesTrail s.params row g) = t :: after.filter (matchesTrail s.params row g) := by
    rw [trails, List.filter_append, List.filter_cons_of_pos matched,
      List.filter_eq_nil_iff.mpr fun u mem yes => absurd ((missed u mem).symm.trans yes) nofun, List.nil_append]
  unfold takeSegment
  dsimp only
  rw [hits, trails]
  dsimp only
  rw [replaceMatches_first _ _ matched missed]

end

/-! #### What the detector may do to the state -/

/-- The record as the detector's row work may change it: its trails, its unattributed segments and the two full marks. -/
def RecordDetected (q q' : SubframeRecord) : Prop :=
  q' = { q with
    trails := q'.trails, unattributed := q'.unattributed, vetoFull := q'.vetoFull, trailQueueFull := q'.trailQueueFull }

theorem RecordDetected.trans {q q' q'' : SubframeRecord} (h : RecordDetected q q') (h' : RecordDetected q' q'') : RecordDetected q q'' := by
  unfold RecordDetected at h h'
  have e := fun {α : Type} (f : SubframeRecord → α) => congrArg f h
  unfold RecordDetected
  conv_lhs => rw [h']
  conv_lhs => rw [h]

/-- The detector has changed the trails and such counts of the open record, and nothing else. -/
structure Detected (s t : State) : Prop where
  form : t = { s with trails := t.trails, log.openRecord := t.log.openRecord }
  record : ∀ q, s.log.openRecord = some q → ∃ q', t.log.openRecord = some q' ∧ RecordDetected q q'
  previous : t.trails.previous = s.trails.previous
  index : t.trails.current.index = s.trails.current.index
  boxes : s.trails.current.boxes <+: t.trails.current.boxes
  queue : s.trails.queue <+: t.trails.queue

theorem Detected.refl (s : State) : Detected s s :=
  ⟨rfl, fun q open_ => ⟨q, open_, rfl⟩, rfl, rfl, List.prefix_rfl, List.prefix_rfl⟩

theorem Detected.trans {s t u : State} (h : Detected s t) (h' : Detected t u) : Detected s u := by
  refine ⟨?_, fun q open_ => ?_, h'.previous.trans h.previous, h'.index.trans h.index, h.boxes.trans h'.boxes, h.queue.trans h'.queue⟩
  · conv_lhs => rw [h'.form, h.form]
  · obtain ⟨q', open', kept⟩ := h.record q open_
    obtain ⟨q'', open'', kept'⟩ := h'.record q' open'
    exact ⟨q'', open'', kept.trans kept'⟩

theorem detected_onRecord {f : SubframeRecord → SubframeRecord} (kept : ∀ q, RecordDetected q (f q)) (s : State) : Detected s (onRecord f s) :=
  ⟨rfl, fun q open_ => ⟨f q, congrArg (Option.map f) open_, kept q⟩, rfl, rfl, List.prefix_rfl, List.prefix_rfl⟩

theorem detected_closeTrail (t : OpenTrail) (s : State) : Detected s (closeTrail t s) := by
  by_cases small : t.extent < s.params.minExtent
  · rw [closeTrail_small small]
    exact .refl s
  · by_cases early : s.trails.counter ≤ 255
    · rw [closeTrail_numbered (Nat.not_lt.mp small) early]
      exact ⟨rfl, fun q open_ => ⟨_, congrArg (Option.map _) open_, rfl⟩, rfl, rfl, List.prefix_append _ _, List.prefix_append _ _⟩
    · rw [closeTrail_late (Nat.not_lt.mp small) (Nat.not_le.mp early)]
      refine detected_onRecord ?_ s
      exact fun _ => rfl

theorem detected_closeTrails (ts : List OpenTrail) : ∀ s : State, Detected s (closeTrails ts s) := by
  induction ts with
  | nil => exact Detected.refl
  | cons t rest ih => exact fun s => (detected_closeTrail t s).trans (ih _)

theorem detected_openTrails (l : List OpenTrail) (s : State) : Detected s { s with trails.openTrails := l } :=
  ⟨rfl, fun q open_ => ⟨q, open_, rfl⟩, rfl, rfl, List.prefix_rfl, List.prefix_rfl⟩

theorem detected_takeSegment (row : Nat) (g : Segment) (s : State) : Detected s (takeSegment row g s) := by
  unfold takeSegment
  dsimp only
  split
  · split
    · exact detected_openTrails _ s
    · refine detected_onRecord ?_ s
      exact fun _ => rfl
  · exact detected_openTrails _ s

theorem detected_detectRow (row : Nat) (flags : List (Nat × Region)) (s : State) : Detected s (detectRow row flags s) := by
  have segments : ∀ (gs : List Segment) (u : State), Detected u (gs.foldl (fun u g => takeSegment row g u) u) := by
    intro gs
    induction gs with
    | nil => exact Detected.refl
    | cons g rest ih => exact fun u => (detected_takeSegment row g u).trans (ih _)
  exact ((detected_openTrails _ s).trans (detected_closeTrails _ _)).trans (segments _ _)

/-! #### The detector reads neither the plane, nor the cursor, nor the rows -/

/-- The state with another plane, another defect cursor and another row-visited map. -/
def besides (plane : Memory Pixel) (cursor : Nat) (rows : Memory RowState) (s : State) : State :=
  { s with plane := plane, cal.cursor := cursor, link.rowMap := rows }

section

variable (plane : Memory Pixel) (cursor : Nat) (rows : Memory RowState)

theorem closeTrail_besides (t : OpenTrail) (s : State) :
    closeTrail t (besides plane cursor rows s) = besides plane cursor rows (closeTrail t s) := by
  by_cases small : t.extent < s.params.minExtent
  · rw [closeTrail_small small, closeTrail_small (by exact small)]
  · by_cases early : s.trails.counter ≤ 255
    · rw [closeTrail_numbered (Nat.not_lt.mp small) early, closeTrail_numbered (by exact Nat.not_lt.mp small) (by exact early)]
      rfl
    · rw [closeTrail_late (Nat.not_lt.mp small) (Nat.not_le.mp early),
        closeTrail_late (by exact Nat.not_lt.mp small) (by exact Nat.not_le.mp early)]
      rfl

theorem closeTrails_besides (ts : List OpenTrail) : ∀ s : State,
    closeTrails ts (besides plane cursor rows s) = besides plane cursor rows (closeTrails ts s) := by
  induction ts with
  | nil => exact fun _ => rfl
  | cons t rest ih =>
    intro s
    exact (congrArg (closeTrails rest) (closeTrail_besides plane cursor rows t s)).trans (ih _)

theorem takeSegment_besides (row : Nat) (g : Segment) (s : State) :
    takeSegment row g (besides plane cursor rows s) = besides plane cursor rows (takeSegment row g s) := by
  have blocks : (besides plane cursor rows s).trails = s.trails ∧ (besides plane cursor rows s).params = s.params := ⟨rfl, rfl⟩
  unfold takeSegment
  dsimp only
  rw [blocks.1, blocks.2]
  split
  · split
    · rfl
    · rfl
  · rfl

theorem detectRow_besides (row : Nat) (flags : List (Nat × Region)) (s : State) :
    detectRow row flags (besides plane cursor rows s) = besides plane cursor rows (detectRow row flags s) := by
  have segments : ∀ (gs : List Segment) (u : State), gs.foldl (fun u g => takeSegment row g u) (besides plane cursor rows u)
      = besides plane cursor rows (gs.foldl (fun u g => takeSegment row g u) u) := by
    intro gs
    induction gs with
    | nil => exact fun _ => rfl
    | cons g rest ih =>
      intro u
      rw [List.foldl_cons, takeSegment_besides, ih]
      rfl
  unfold detectRow closeStale
  dsimp only
  rw [← segments]
  exact congrArg (fun u => List.foldl (fun u g => takeSegment row g u) u _) (closeTrails_besides plane cursor rows
    (s.trails.openTrails.filter fun t => !reaches s.params row t)
    { s with trails.openTrails := s.trails.openTrails.filter fun t => reaches s.params row t })

end

/-! #### The obligation's words for the detector -/

theorem detectRow_eq (row : Nat) (flags : List (Nat × Region)) (s : State) :
    let stale := fun t : OpenTrail => decide (t.lastRow + 1 + s.params.gapRows < row)
    let columns := flags.filter fun f => match f.2 with
      | .sky => s.settings.sky.trailDetect
      | .ground => s.settings.ground.trailDetect
    let groups := columns.splitBy fun a b => decide (b.1 ≤ a.1 + s.params.gapCols + 1)
    let segments := (groups.map spanOf).filter fun g => decide (s.params.segMin ≤ g.right - g.left + 1)
    detectRow row flags s = segments.foldl (fun u g => takeSegment row g u)
      ((s.trails.openTrails.filter stale).foldl (fun u t => closeTrail t u)
        { s with trails.openTrails := s.trails.openTrails.filter fun t => !stale t }) := by
  intro stale columns groups segments
  have reached : reaches s.params row = fun t => !stale t := by
    funext t
    show decide (row ≤ t.lastRow + 1 + s.params.gapRows) = !decide (t.lastRow + 1 + s.params.gapRows < row)
    rw [← decide_not]
    exact decide_eq_decide.mpr (Nat.not_lt).symm
  have passed : (fun t => !reaches s.params row t) = stale := by
    rw [reached]
    funext t
    exact Bool.not_not _
  have detects : (flags.filter fun f => (policyOf s.settings f.2).trailDetect) = columns := by
    refine List.filter_congr fun f _ => ?_
    cases f.2 <;> rfl
  unfold detectRow closeStale keptSegments
  dsimp only
  rw [passed, detects, formSegments_eq]
  show _ = List.foldl _ (List.foldl _ { s with trails.openTrails := s.trails.openTrails.filter fun t => !stale t } _) _
  rw [← reached]
  rfl

/-- What becomes of one segment. -/
theorem takeSegment_eq (row : Nat) (g : Segment) (s : State) :
    let hit := fun t : OpenTrail => decide (row ≤ t.lastRow + 1 + s.params.gapRows ∧ t.spanLeft ≤ g.right + s.params.margin
      ∧ g.left ≤ t.spanRight + s.params.margin)
    ((∀ t ∈ s.trails.openTrails, hit t = false) →
      (s.trails.openTrails.length < 16 → takeSegment row g s = { s with trails.openTrails := s.trails.openTrails ++ [g.asTrail row] })
      ∧ (16 ≤ s.trails.openTrails.length → takeSegment row g s = { s with
        log.openRecord := s.log.openRecord.map fun q => { q with unattributed := min 4095 (q.unattributed + 1) } }))
    ∧ ∀ before t after, s.trails.openTrails = before ++ t :: after → (∀ u ∈ before, hit u = false) → hit t = true →
      takeSegment row g s = { s with
        trails.openTrails := before ++ (t :: after.filter hit).foldl (foldTrail row) (g.asTrail row) :: after.filter (fun u => !hit u) } := by
  intro hit
  have same : matchesTrail s.params row g = hit := funext (matchesTrail_eq s.params row g)
  rw [← same]
  exact ⟨fun missed => ⟨takeSegment_opens missed, takeSegment_unattributed missed⟩,
    fun before t after trails missed matched => takeSegment_joins trails missed matched⟩

/-! ### O51: one row through the Calibration Unit and the Accumulator -/

/-! #### The defect cursor (R68, R69) -/

/-- The entries that the cursor has not passed, before a column of a row: those behind the column, and those passed do not touch
it or any column behind it. -/
structure DefectsAt (s : State) (row column : Nat) (ahead : List Defect) : Prop where
  behind : ∀ d ∈ ahead, row < d.row ∨ d.row = row ∧ column ≤ d.column
  passed : ∃ gone, defectsAhead s = gone ++ ahead ∧ ∀ d ∈ gone, ¬ (d.row = row ∧ column ≤ d.column)

section

variable {s : State} {row column : Nat} {ahead : List Defect} (sorted : (defectsAhead s).Pairwise fun p e => p.less e = true)

/-- An ignored entry says nothing of a pixel of the frame. -/
theorem ignored_elsewhere {d : Defect} (inside : row < s.settings.height) (within : column < s.settings.width)
    (ignored : defectIgnored s.settings.width s.settings.height d = true) : ¬ (d.row = row ∧ d.column = column) := by
  rintro ⟨rfl, rfl⟩
  unfold defectIgnored at ignored
  rw [Bool.or_eq_true, decide_eq_true_iff, decide_eq_true_iff] at ignored
  omega

theorem less_iff {p e : Defect} : p.less e = true ↔ p.row < e.row ∨ p.row = e.row ∧ p.column < e.column := decide_eq_true_iff

/-- What the entries say of the pixel at the cursor: it is the first entry that is not ignored that says it. -/
theorem defectAt_ahead (at_ : DefectsAt s row column ahead) (inside : row < s.settings.height) (within : column < s.settings.width) :
    defectAt s row column = ((ahead.dropWhile (defectIgnored s.settings.width s.settings.height)).find?
      fun d => decide (d.row = row ∧ d.column = column)).map Defect.method := by
  obtain ⟨gone, whole, others⟩ := at_.passed
  have before : gone.find? (fun d => decide (d.row = row ∧ d.column = column)) = none :=
    List.find?_eq_none.mpr fun d mem here => others d mem ((of_decide_eq_true here).imp_right fun same => Nat.le_of_eq same.symm)
  have ignored : (ahead.takeWhile (defectIgnored s.settings.width s.settings.height)).find?
      (fun d => decide (d.row = row ∧ d.column = column)) = none :=
    List.find?_eq_none.mpr fun d mem here => ignored_elsewhere inside within (List.mem_takeWhile_imp mem) (of_decide_eq_true here)
  have split := List.takeWhile_append_dropWhile (p := defectIgnored s.settings.width s.settings.height) (l := ahead)
  unfold defectAt
  rw [if_pos inside, show s.tables.defects.seen.drop s.cal.cursor = gone ++ ahead from whole, List.find?_append, before, Option.none_or]
  conv_lhs => rw [← split, List.find?_append, ignored, Option.none_or]

include sorted

/-- Behind an entry at the pixel none says anything of it, and the cursor passes it. -/
theorem defectAt_hit (at_ : DefectsAt s row column ahead) (inside : row < s.settings.height) (within : column < s.settings.width)
    {d : Defect} {rest : List Defect} (head : ahead.dropWhile (defectIgnored s.settings.width s.settings.height) = d :: rest)
    (here : d.row = row ∧ d.column = column) : defectAt s row column = some d.method ∧ DefectsAt s row (column + 1) rest := by
  have split := List.takeWhile_append_dropWhile (p := defectIgnored s.settings.width s.settings.height) (l := ahead)
  rw [head] at split
  obtain ⟨gone, whole, others⟩ := at_.passed
  have order := sorted
  rw [whole, ← split] at order
  obtain ⟨-, order, -⟩ := List.pairwise_append.mp order
  obtain ⟨-, tail, earlier⟩ := List.pairwise_append.mp order
  have later : ∀ e ∈ rest, d.less e = true := (List.pairwise_cons.mp tail).1
  refine ⟨?_, ⟨fun e mem => ?_, gone ++ ahead.takeWhile (defectIgnored s.settings.width s.settings.height) ++ [d], ?_, fun e mem => ?_⟩⟩
  · rw [defectAt_ahead at_ inside within, head, List.find?_cons_of_pos (by exact decide_eq_true here)]
    rfl
  · have := less_iff.mp (later e mem)
    omega
  · rw [whole, List.append_assoc, List.append_assoc]
    exact congrArg (gone ++ ·) (split.symm.trans rfl)
  · rcases List.mem_append.mp mem with before | last
    · rcases List.mem_append.mp before with passed | skipped
      · have := others e passed
        omega
      · have := less_iff.mp (earlier e skipped d (List.mem_cons_self ..))
        omega
    · rw [List.mem_singleton.mp last]
      omega

/-- Where the first entry that is not ignored is of another pixel, none says anything of this one. -/
theorem defectAt_miss (at_ : DefectsAt s row column ahead) (inside : row < s.settings.height) (within : column < s.settings.width)
    (missed : ∀ d rest, ahead.dropWhile (defectIgnored s.settings.width s.settings.height) = d :: rest → ¬ (d.row = row ∧ d.column = column)) :
    defectAt s row column = none ∧ DefectsAt s row (column + 1) ahead := by
  have split := List.takeWhile_append_dropWhile (p := defectIgnored s.settings.width s.settings.height) (l := ahead)
  obtain ⟨gone, whole, others⟩ := at_.passed
  have elsewhere : ∀ e ∈ ahead, ¬ (e.row = row ∧ e.column = column) := by
    intro e mem
    rw [← split] at mem
    rcases List.mem_append.mp mem with ignored | later
    · exact ignored_elsewhere inside within (List.mem_takeWhile_imp ignored)
    · cases head : ahead.dropWhile (defectIgnored s.settings.width s.settings.height) with
      | nil =>
        rw [head] at later
        exact absurd later (List.not_mem_nil)
      | cons d rest =>
        rw [head] at later split
        have order := sorted
        rw [whole, ← split] at order
        obtain ⟨-, order, -⟩ := List.pairwise_append.mp order
        obtain ⟨-, tail, -⟩ := List.pairwise_append.mp order
        have first := at_.behind d (by rw [← split]; exact List.mem_append_right _ (List.mem_cons_self ..))
        have other := missed d rest head
        rcases List.mem_cons.mp later with rfl | behind
        · exact other
        · have := less_iff.mp ((List.pairwise_cons.mp tail).1 e behind)
          omega
  refine ⟨?_, ⟨fun e mem => ?_, gone, whole, fun e mem => ?_⟩⟩
  · have unsaid : (gone ++ ahead).find? (fun d => decide (d.row = row ∧ d.column = column)) = none := by
      refine List.find?_eq_none.mpr fun e mem here => ?_
      rcases List.mem_append.mp mem with passed | left
      · have := others e passed
        have := of_decide_eq_true here
        omega
      · exact elsewhere e left (of_decide_eq_true here)
    unfold defectAt
    rw [if_pos inside, show s.tables.defects.seen.drop s.cal.cursor = gone ++ ahead from whole, unsaid]
    rfl
  · have := at_.behind e mem
    have := elsewhere e mem
    omega
  · have := others e mem
    omega

end

/-- At the first column of a row the cursor has passed the rows before it. -/
theorem defectsAt_start {s : State} (sorted : (defectsAhead s).Pairwise fun p e => p.less e = true) (row : Nat) :
    DefectsAt s row 0 ((defectsAhead s).dropWhile fun d => decide (d.row < row)) := by
  have split := List.takeWhile_append_dropWhile (p := fun d : Defect => decide (d.row < row)) (l := defectsAhead s)
  refine ⟨fun d mem => ?_, (defectsAhead s).takeWhile fun d => decide (d.row < row), split.symm, fun d mem => ?_⟩
  · cases left : (defectsAhead s).dropWhile fun d => decide (d.row < row) with
    | nil =>
      rw [left] at mem
      exact absurd mem List.not_mem_nil
    | cons first rest =>
      have here : ¬ first.row < row := by
        have head := List.dropWhile_get_zero_not (fun d : Defect => decide (d.row < row)) (defectsAhead s) (by rw [left]; exact Nat.succ_pos _)
        simpa [left] using head
      rw [left] at mem split
      rw [← split] at sorted
      obtain ⟨-, tail, -⟩ := List.pairwise_append.mp sorted
      rcases List.mem_cons.mp mem with rfl | behind
      · omega
      · have := less_iff.mp ((List.pairwise_cons.mp tail).1 d behind)
        omega
  · have before := List.mem_takeWhile_imp mem
    have := of_decide_eq_true before
    omega

/-- A lost row's entries are passed together. -/
theorem defects_behind_row {s : State} (sorted : (defectsAhead s).Pairwise fun p e => p.less e = true) (row : Nat) :
    ∀ d ∈ (defectsAhead s).dropWhile (fun d => decide (d.row ≤ row)), row < d.row := by
  have start := defectsAt_start sorted (row + 1)
  have same : (fun d : Defect => decide (d.row < row + 1)) = fun d => decide (d.row ≤ row) := by
    funext d
    exact decide_eq_decide.mpr Nat.lt_succ_iff
  rw [same] at start
  intro d mem
  have := start.behind d mem
  omega

/-! #### The substituted value (R70) -/

theorem substituteValue_eq {pixels : List Nat} {column : Nat} (long : 256 ≤ pixels.length) (within : column < pixels.length) :
    substituteValue pixels column = neighbourMean pixels column := by
  have one : ∀ a : Nat, (2 * ([a].sum) + [a].length) / (2 * [a].length) = a := by
    intro a
    simp only [List.sum_singleton, List.length_singleton]
    omega
  unfold substituteValue neighbourMean
  by_cases left : 2 ≤ column
  · have before : pixels[column - 2]? = some pixels[column - 2] := List.getElem?_eq_getElem (by omega)
    rw [if_pos left, if_pos left, before]
    cases pixels[column + 2]? with
    | none => exact (one _).symm
    | some b =>
      dsimp only
      show (roundDiv _ 2).toNat = (2 * ([pixels[column - 2], b].sum) + 2) / 4
      unfold roundDiv
      rw [if_pos (by omega), List.sum_cons, List.sum_singleton]
      omega
  · have after : pixels[column + 2]? = some pixels[column + 2] := List.getElem?_eq_getElem (by omega)
    rw [if_neg left, if_neg left, after]
    exact (one _).symm

/-! #### One sample (R65, R70 to R74) -/

/-- The sample is taken out as excluded (R71, R72). -/
def excludedSample (w : RowWork) : RowWork := { w with record := { w.record with excluded := w.record.excluded + 1 } }

/-- The sample goes to its dark fields or to the Accumulator, by the subframe's kind. -/
def takenSample (s : State) (row column x : Nat) (w : RowWork) : RowWork :=
  match w.record.kind with
  | .dark => darkSample s (pixelAt s row column) x w
  | .light => lightSample s row column (pixelAt s row column) x w

theorem regionStage_eq (s : State) (row column x : Nat) (w : RowWork) : regionStage s row column x w
    = if (pixelPolicy s.settings row column).mode = .exclude then excludedSample w else takenSample s row column x w := rfl

/-- Every sample is taken out or taken, whatever the defects say. -/
theorem sampleStep_cases (s : State) (row : Nat) (pixels : List Nat) (w : RowWork) (sample : Nat × Nat) :
    ∃ ahead, sampleStep s row pixels w sample = excludedSample { w with defects := ahead }
      ∨ ∃ x, sampleStep s row pixels w sample = takenSample s row sample.2 x { w with defects := ahead } := by
  have stage : ∀ x ahead, ∃ ahead', regionStage s row sample.2 x { w with defects := ahead } = excludedSample { w with defects := ahead' }
      ∨ ∃ x', regionStage s row sample.2 x { w with defects := ahead } = takenSample s row sample.2 x' { w with defects := ahead' } := by
    intro x ahead
    rw [regionStage_eq]
    split
    · exact ⟨ahead, .inl rfl⟩
    · exact ⟨ahead, .inr ⟨x, rfl⟩⟩
  unfold sampleStep
  dsimp only
  split
  · rename_i d rest _
    split
    · split
      · exact ⟨rest, .inl rfl⟩
      · exact stage _ rest
    · exact stage _ w.defects
  · exact stage _ w.defects

section

variable {s : State} {row : Nat} {pixels : List Nat} (sorted : (defectsAhead s).Pairwise fun p e => p.less e = true)
  (inside : row < s.settings.height) (long : 256 ≤ s.settings.width) (length : pixels.length = s.settings.width)

include sorted inside long length

/-- What the stages of 4.1 make of a sample: what passedSample says (R65, R70 to R72). -/
theorem sampleStep_passed {w : RowWork} {column x : Nat} (at_ : DefectsAt s row column w.defects) (sample : pixels[column]? = some x) :
    ∃ ahead, DefectsAt s row (column + 1) ahead
      ∧ (passedSample s row pixels column = none → sampleStep s row pixels w (x, column) = excludedSample { w with defects := ahead })
      ∧ ∀ v, passedSample s row pixels column = some v →
        sampleStep s row pixels w (x, column) = takenSample s row column v { w with defects := ahead } := by
  have within : column < s.settings.width := by
    rw [← length]
    exact (List.getElem?_eq_some_iff.mp sample).1
  have substitute := substituteValue_eq (pixels := pixels) (column := column) (by omega) (by omega)
  -- a sample that no entry takes out, with the value the defect stage gives it
  have stage : ∀ {y : Nat} {ahead : List Defect}, DefectsAt s row (column + 1) ahead →
      sampleStep s row pixels w (x, column) = regionStage s row column y { w with defects := ahead } →
      passedSample s row pixels column = (if (pixelPolicy s.settings row column).mode = .exclude then none else some y) →
      ∃ ahead, DefectsAt s row (column + 1) ahead
        ∧ (passedSample s row pixels column = none → sampleStep s row pixels w (x, column) = excludedSample { w with defects := ahead })
        ∧ ∀ v, passedSample s row pixels column = some v →
          sampleStep s row pixels w (x, column) = takenSample s row column v { w with defects := ahead } := by
    intro y ahead next goes passed
    rw [regionStage_eq] at goes
    refine ⟨ahead, next, fun none_ => ?_, fun v taken => ?_⟩
    · rw [goes, if_pos]
      by_contra other
      rw [none_, if_neg other] at passed
      exact absurd passed nofun
    · by_cases out : (pixelPolicy s.settings row column).mode = .exclude
      · rw [taken, if_pos out] at passed
        exact absurd passed nofun
      · rw [taken, if_neg out] at passed
        rw [goes, if_neg out, Option.some.inj passed]
  have misses : (∀ d rest, w.defects.dropWhile (defectIgnored s.settings.width s.settings.height) = d :: rest →
      ¬ (d.row = row ∧ d.column = column)) → sampleStep s row pixels w (x, column) = regionStage s row column x w := by
    intro missed
    unfold sampleStep
    dsimp only
    split
    · rename_i d rest head
      exact if_neg (missed d rest head)
    · rfl
  by_cases hit : ∃ d rest, w.defects.dropWhile (defectIgnored s.settings.width s.settings.height) = d :: rest
      ∧ d.row = row ∧ d.column = column
  · obtain ⟨d, rest, head, here⟩ := hit
    obtain ⟨said, next⟩ := defectAt_hit sorted at_ inside within head here
    cases method : d.method with
    | exclude =>
      have out : passedSample s row pixels column = none := if_pos (.inl (by rw [said, method]))
      refine ⟨rest, next, fun _ => ?_, fun v taken => absurd (out.symm.trans taken) nofun⟩
      unfold sampleStep
      dsimp only
      rw [head]
      dsimp only
      rw [if_pos here, method]
      rfl
    | substitute =>
      refine stage (y := neighbourMean pixels column) next ?_ ?_
      · rw [← substitute]
        unfold sampleStep
        dsimp only
        rw [head]
        dsimp only
        rw [if_pos here, method]
      · unfold passedSample
        rw [said, method]
        refine if_congr (or_iff_right nofun) rfl (if_pos rfl)
  · have missed : ∀ d rest, w.defects.dropWhile (defectIgnored s.settings.width s.settings.height) = d :: rest →
        ¬ (d.row = row ∧ d.column = column) := fun d rest head here => hit ⟨d, rest, head, here⟩
    obtain ⟨unsaid, next⟩ := defectAt_miss sorted at_ inside within missed
    refine stage (y := x) (ahead := w.defects) next (misses missed) ?_
    unfold passedSample
    rw [unsaid]
    exact if_congr (or_iff_right nofun) rfl ((if_neg nofun).trans sample)

end

/-! #### What a row's samples leave alone, whatever the defects say (R74, R84, R86, R95) -/

/-- A light visit does not touch the dark fields (R74). -/
def DarkKept (px px' : Pixel) : Prop := px'.darkN = px.darkN ∧ px'.darkSum = px.darkSum

theorem darkKept_commitPending (vetoed : Nat → Bool) (px : Pixel) : DarkKept px (commitPending vetoed px) := by
  unfold commitPending
  split <;> exact ⟨rfl, rfl⟩

theorem darkKept_welford (px : Pixel) (y : Int) : DarkKept px (welford px y) := by
  unfold welford
  split <;> exact ⟨rfl, rfl⟩

theorem darkKept_holdCandidate (subframe : Nat) (y : Int) (px : Pixel) : DarkKept px (holdCandidate subframe y px) := by
  unfold holdCandidate
  split <;> exact ⟨rfl, rfl⟩

theorem darkKept_fadePeak (p : Policy) (px : Pixel) : DarkKept px (fadePeak p px) := by
  rw [fadePeak_eq]
  exact ⟨rfl, rfl⟩

theorem DarkKept.trans {a b c : Pixel} (h : DarkKept a b) (h' : DarkKept b c) : DarkKept a c := ⟨h'.1.trans h.1, h'.2.trans h.2⟩

theorem darkKept_visitLight (p : Policy) (vetoed : Nat → Bool) (subframe : Nat) (px : Pixel) (sample : Option Int) :
    DarkKept px (visitLight p vetoed subframe px sample).pixel := by
  have settled := (darkKept_commitPending vetoed px).trans (darkKept_fadePeak p (commitPending vetoed px))
  unfold visitLight
  split
  · cases sample with
    | none => exact settled.trans (DarkKept.trans ⟨rfl, rfl⟩ (darkKept_holdCandidate subframe 16383 (countSaturated _)))
    | some y => exact settled.trans ((darkKept_welford _ y).trans (darkKept_holdCandidate subframe y _))
  · cases sample with
    | none => exact ⟨rfl, rfl⟩
    | some y =>
      unfold visitMeanReject
      dsimp only
      split
      · exact ⟨rfl, rfl⟩
      · exact darkKept_welford px y

/-- A light sample adds one to one of three counts, and to outliers as its visit says (R95). -/
theorem tallyLight_eq (v : Visit) (q : SubframeRecord) : tallyLight v q = { q with
    admitted := q.admitted + boolCode (decide (v.tally = .admitted)), rejected := q.rejected + boolCode (decide (v.tally = .rejected)),
    saturated := q.saturated + boolCode (decide (v.tally = .saturated)), outliers := q.outliers + boolCode v.outlier } := by
  unfold tallyLight
  cases v.tally <;> cases v.outlier <;> rfl

/-- So many samples of a row have been counted, and no record of another row, no count of the other kind and no dark field of a
light record has moved. -/
structure RowKept (s : State) (row : Nat) (q : SubframeRecord) (counted : Nat) (w : RowWork) : Prop where
  wf : Memory.wf Pixel.cleared w.plane = true
  elsewhere : ∀ a, a / s.settings.width ≠ row → Memory.read Pixel.cleared w.plane a = readPixel s a
  dark : q.kind = .dark → ∀ a, Memory.read Pixel.cleared w.plane a = { readPixel s a with
    darkN := (Memory.read Pixel.cleared w.plane a).darkN, darkSum := (Memory.read Pixel.cleared w.plane a).darkSum }
  light : q.kind = .light → ∀ a, DarkKept (readPixel s a) (Memory.read Pixel.cleared w.plane a)
  untallied : w.record.untallied = q.untallied
  counts : w.record.admitted + w.record.rejected + w.record.saturated + w.record.excluded
    = q.admitted + q.rejected + q.saturated + q.excluded + counted
  darkCounts : q.kind = .dark →
    w.record.rejected = q.rejected ∧ w.record.outliers = q.outliers ∧ w.record.clamped = q.clamped

section

variable {s : State} {row : Nat} {q : SubframeRecord} {counted : Nat} {w : RowWork}

theorem RowKept.kind (h : RowKept s row q counted w) : w.record.kind = q.kind := by
  have e := fun {α : Type} (f : SubframeRecord → α) => congrArg f h.untallied
  exact e (·.kind)

theorem RowKept.index (h : RowKept s row q counted w) : w.record.index = q.index := by
  have e := fun {α : Type} (f : SubframeRecord → α) => congrArg f h.untallied
  exact e (·.index)

theorem RowKept.excluded (h : RowKept s row q counted w) (ahead : List Defect) :
    RowKept s row q (counted + 1) (excludedSample { w with defects := ahead }) where
  wf := h.wf
  elsewhere := h.elsewhere
  dark := h.dark
  light := h.light
  untallied := h.untallied
  counts := by
    have := h.counts
    show w.record.admitted + w.record.rejected + w.record.saturated + (w.record.excluded + 1) = _
    omega
  darkCounts := h.darkCounts

theorem pixelAt_row {column : Nat} (within : column < s.settings.width) : pixelAt s row column / s.settings.width = row := by
  unfold pixelAt
  rw [Nat.add_comm, Nat.add_mul_div_right _ _ (by omega), Nat.div_eq_of_lt within, Nat.zero_add]

theorem darkSample_eq (s : State) (a x : Nat) (w : RowWork) : darkSample s a x w
    = if s.params.satLevel ≤ x then { w with record := { w.record with saturated := w.record.saturated + 1 } }
      else { w with
        plane := Memory.write Pixel.cleared w.plane a (sumDark s.params.blackLevel x (Memory.read Pixel.cleared w.plane a)),
        record := { w.record with admitted := w.record.admitted + 1 } } := rfl

theorem RowKept.darkTaken (h : RowKept s row q counted w) (kind : q.kind = .dark) {column : Nat} (within : column < s.settings.width) (x : Nat) :
    RowKept s row q (counted + 1) (darkSample s (pixelAt s row column) x w) := by
  have total := h.counts
  rw [darkSample_eq]
  split
  · refine { h with counts := ?_ }
    show w.record.admitted + w.record.rejected + (w.record.saturated + 1) + w.record.excluded = _
    omega
  · refine { h with
      wf := Memory.wf_write h.wf _ _, elsewhere := fun a other => ?_, dark := fun _ a => ?_, light := fun light => absurd (kind.symm.trans light) nofun,
      counts := ?_ }
    · rw [Memory.read_write h.wf, if_neg]
      · exact h.elsewhere a other
      · rintro rfl
        exact other (pixelAt_row within)
    · rw [Memory.read_write h.wf]
      split
      · rename_i here
        rw [here]
        have same := h.dark kind (pixelAt s row column)
        have e := fun {α : Type} (f : Pixel → α) => congrArg f same
        unfold sumDark
        rw [same]
      · exact h.dark kind a
    · show w.record.admitted + 1 + w.record.rejected + w.record.saturated + w.record.excluded = _
      omega

/-- The visit that a light sample makes to its record as the row has left it. -/
def visitHere (s : State) (row column x : Nat) (w : RowWork) : Visit :=
  visitLight (pixelPolicy s.settings row column) (isVetoed s.settings s.trails (pixelPolicy s.settings row column) row column)
    w.record.index (Memory.read Pixel.cleared w.plane (pixelAt s row column))
    (if s.params.satLevel ≤ x then none
      else some (calibratedSample s.params.blackLevel s.cal.scale (Memory.read Pixel.cleared w.plane (pixelAt s row column)) x))

/-- Whether the calibrated sample met its limit (R83). -/
def clampsHere (s : State) (row column x : Nat) (w : RowWork) : Bool :=
  !decide (s.params.satLevel ≤ x)
    && decide (unclampedSample s.params.blackLevel s.cal.scale (Memory.read Pixel.cleared w.plane (pixelAt s row column)) x
      ≠ calibratedSample s.params.blackLevel s.cal.scale (Memory.read Pixel.cleared w.plane (pixelAt s row column)) x)

theorem lightSample_eq (s : State) (row column x : Nat) (w : RowWork) : lightSample s row column (pixelAt s row column) x w
    = { w with
        plane := Memory.write Pixel.cleared w.plane (pixelAt s row column) (visitHere s row column x w).pixel,
        record := tallyLight (visitHere s row column x w)
          { w.record with clamped := w.record.clamped + if clampsHere s row column x w then 1 else 0 },
        flags := if (visitHere s row column x w).flagged then (column, regionOf s.settings row column) :: w.flags else w.flags } := by
  unfold lightSample visitHere clampsHere
  simp only [decide_eq_true_eq]

theorem RowKept.lightTaken (h : RowKept s row q counted w) (kind : q.kind = .light) {column : Nat} (within : column < s.settings.width) (x : Nat) :
    RowKept s row q (counted + 1) (lightSample s row column (pixelAt s row column) x w) := by
  have total := h.counts
  rw [lightSample_eq]
  generalize visit : visitHere s row column x w = v
  have kept : DarkKept (Memory.read Pixel.cleared w.plane (pixelAt s row column)) v.pixel := by
    rw [← visit]
    exact darkKept_visitLight _ _ _ _ _
  refine { wf := Memory.wf_write h.wf _ _, elsewhere := fun a other => ?_, dark := fun dark => absurd (kind.symm.trans dark) nofun,
           light := fun _ a => ?_, untallied := ?_, counts := ?_, darkCounts := fun dark => absurd (kind.symm.trans dark) nofun }
  · rw [Memory.read_write h.wf, if_neg]
    · exact h.elsewhere a other
    · rintro rfl
      exact other (pixelAt_row within)
  · rw [Memory.read_write h.wf]
    split
    · rename_i here
      rw [here]
      exact (h.light kind _).trans kept
    · exact h.light kind a
  · rw [untallied_tallyLight]
    exact h.untallied
  · rw [tallyLight_eq]
    show w.record.admitted + boolCode _ + (w.record.rejected + boolCode _) + (w.record.saturated + boolCode _) + w.record.excluded = _
    cases v.tally <;> simp [boolCode] <;> omega

/-- One sample, whichever way it goes. -/
theorem RowKept.sample (h : RowKept s row q counted w) {sample : Nat × Nat} (within : sample.2 < s.settings.width) (pixels : List Nat) :
    RowKept s row q (counted + 1) (sampleStep s row pixels w sample) := by
  obtain ⟨ahead, out | ⟨x, taken⟩⟩ := sampleStep_cases s row pixels w sample
  · rw [out]
    exact h.excluded ahead
  · have moved : RowKept s row q counted { w with defects := ahead } :=
      ⟨h.wf, h.elsewhere, h.dark, h.light, h.untallied, h.counts, h.darkCounts⟩
    rw [taken]
    unfold takenSample
    cases kind : q.kind with
    | dark =>
      rw [show ({ w with defects := ahead } : RowWork).record.kind = .dark from h.kind.trans kind]
      exact moved.darkTaken kind within x
    | light =>
      rw [show ({ w with defects := ahead } : RowWork).record.kind = .light from h.kind.trans kind]
      exact moved.lightTaken kind within x

end

/-- The row after so many of its samples. -/
def rowAfter (s : State) (row : Nat) (pixels : List Nat) (start : RowWork) (n : Nat) : RowWork :=
  (pixels.zipIdx.take n).foldl (sampleStep s row pixels) start

theorem rowAfter_succ {s : State} {row : Nat} {pixels : List Nat} {start : RowWork} {n x : Nat} (at_ : pixels[n]? = some x) :
    rowAfter s row pixels start (n + 1) = sampleStep s row pixels (rowAfter s row pixels start n) (x, n) := by
  have next : pixels.zipIdx[n]? = some (x, n) := by
    rw [List.getElem?_zipIdx, at_, Nat.zero_add]
    rfl
  unfold rowAfter
  rw [List.take_add_one, next, List.foldl_append]
  rfl

theorem rowAfter_all (s : State) (row : Nat) (pixels : List Nat) (start : RowWork) :
    rowAfter s row pixels start pixels.length = pixels.zipIdx.foldl (sampleStep s row pixels) start := by
  unfold rowAfter
  rw [List.take_of_length_le (Nat.le_of_eq List.length_zipIdx)]

theorem rowKept_after {s : State} {row : Nat} {pixels : List Nat} {q : SubframeRecord} {start : RowWork} (begins : RowKept s row q 0 start)
    (length : pixels.length = s.settings.width) : ∀ n ≤ pixels.length, RowKept s row q n (rowAfter s row pixels start n) := by
  intro n
  induction n with
  | zero => exact fun _ => begins
  | succ n ih =>
    intro within
    rw [rowAfter_succ (List.getElem?_eq_getElem within)]
    exact (ih (by omega)).sample (by show n < _; omega) pixels

/-! #### What a row's samples do, with the entries of DEFECTS in order (R65, R69 to R74, R82 to R84) -/

/-- A count over the columns up to the next one. -/
theorem countP_range_succ (k : Nat) (p : Nat → Bool) (n : Nat) :
    k + (List.range (n + 1)).countP p = k + (List.range n).countP p + boolCode (p n) := by
  rw [List.range_succ, List.countP_append, List.countP_singleton, Nat.add_assoc]
  cases p n <;> rfl

/-- The samples of the first columns that a stage takes out (R71, R72). -/
def rowExcluded (s : State) (row : Nat) (pixels : List Nat) (n : Nat) : Nat :=
  (List.range n).countP fun c => decide (passedSample s row pixels c = none)

/-- A dark sample that is summed (R73, R74). -/
def summedSample (s : State) (row : Nat) (pixels : List Nat) (column : Nat) : Option Nat :=
  (passedSample s row pixels column).filter fun x => decide (x < s.params.satLevel)

/-- The record of a pixel behind a dark sample (R74). -/
def darkAfter (s : State) (row : Nat) (pixels : List Nat) (column : Nat) : Pixel :=
  match summedSample s row pixels column with
  | none => readPixel s (pixelAt s row column)
  | some x => { readPixel s (pixelAt s row column) with
      darkN := (readPixel s (pixelAt s row column)).darkN + 1,
      darkSum := (readPixel s (pixelAt s row column)).darkSum + ((x : Int) - s.params.blackLevel) }

/-- The open record behind the first columns of a dark row. -/
def darkCounted (s : State) (row : Nat) (pixels : List Nat) (q : SubframeRecord) (n : Nat) : SubframeRecord :=
  { q with
    excluded := q.excluded + rowExcluded s row pixels n,
    saturated := q.saturated + (List.range n).countP fun c => (passedSample s row pixels c).any fun x => decide (s.params.satLevel ≤ x),
    admitted := q.admitted + (List.range n).countP fun c => (summedSample s row pixels c).isSome }

/-- The visit of a light sample, where it reaches the Accumulator. -/
def rowVisit (s : State) (row : Nat) (pixels : List Nat) (q : SubframeRecord) (column : Nat) : Option Visit :=
  (passedSample s row pixels column).map (lightVisit s q.index row column)

/-- A light sample is clamped (R83). -/
def rowClamps (s : State) (row : Nat) (pixels : List Nat) (column : Nat) : Bool :=
  (passedSample s row pixels column).any fun x =>
    decide (x < s.params.satLevel)
      && (decide (unclampedValue s row column x < -4096) || decide (16383 < unclampedValue s row column x))

def rowTallied (s : State) (row : Nat) (pixels : List Nat) (q : SubframeRecord) (n : Nat) (k : Tally) : Nat :=
  (List.range n).countP fun c => (rowVisit s row pixels q c).any fun v => decide (v.tally = k)

/-- The open record behind the first columns of a light row, before the detector. -/
def lightCounted (s : State) (row : Nat) (pixels : List Nat) (q : SubframeRecord) (n : Nat) : SubframeRecord :=
  { q with
    admitted := q.admitted + rowTallied s row pixels q n .admitted, rejected := q.rejected + rowTallied s row pixels q n .rejected,
    saturated := q.saturated + rowTallied s row pixels q n .saturated, excluded := q.excluded + rowExcluded s row pixels n,
    outliers := q.outliers + (List.range n).countP fun c => (rowVisit s row pixels q c).any Visit.outlier,
    clamped := q.clamped + (List.range n).countP (rowClamps s row pixels) }

/-- The flagged columns of a light row with their regions (R95, R115). -/
def rowFlagged (s : State) (row : Nat) (pixels : List Nat) (q : SubframeRecord) (n : Nat) : List (Nat × Region) :=
  ((List.range n).filter fun c => (rowVisit s row pixels q c).any Visit.flagged).map fun c => (c, regionOf s.settings row c)

def lightAfter (s : State) (row : Nat) (pixels : List Nat) (q : SubframeRecord) (column : Nat) : Pixel :=
  ((rowVisit s row pixels q column).map Visit.pixel).getD (readPixel s (pixelAt s row column))

/-- The plane behind the first columns of a row: their records are as after says, and those of the columns that follow as they were. -/
structure PlaneAt (s : State) (row n : Nat) (after : Nat → Pixel) (plane : Memory Pixel) : Prop where
  wf : Memory.wf Pixel.cleared plane = true
  done : ∀ c < n, Memory.read Pixel.cleared plane (pixelAt s row c) = after c
  left : ∀ c, n ≤ c → Memory.read Pixel.cleared plane (pixelAt s row c) = readPixel s (pixelAt s row c)

theorem pixelAt_inj {s : State} {row c k : Nat} (same : pixelAt s row c = pixelAt s row k) : c = k := Nat.add_left_cancel same

section

variable {s : State} {row n : Nat} {after : Nat → Pixel} {plane : Memory Pixel}

/-- A column whose record stays as it was. -/
theorem PlaneAt.stays (h : PlaneAt s row n after plane) (same : after n = readPixel s (pixelAt s row n)) : PlaneAt s row (n + 1) after plane where
  wf := h.wf
  done c within := by
    rcases Nat.lt_succ_iff_lt_or_eq.mp within with before | rfl
    · exact h.done c before
    · rw [same]
      exact h.left c (Nat.le_refl c)
  left c behind := h.left c (by omega)

/-- A column whose record is written. -/
theorem PlaneAt.writes (h : PlaneAt s row n after plane) :
    PlaneAt s row (n + 1) after (Memory.write Pixel.cleared plane (pixelAt s row n) (after n)) where
  wf := Memory.wf_write h.wf _ _
  done c within := by
    rw [Memory.read_write h.wf]
    rcases Nat.lt_succ_iff_lt_or_eq.mp within with before | rfl
    · rw [if_neg fun same => absurd (pixelAt_inj same) (by omega)]
      exact h.done c before
    · exact if_pos rfl
  left c behind := by
    rw [Memory.read_write h.wf, if_neg fun same => absurd (pixelAt_inj same) (by omega)]
    exact h.left c (by omega)

end

/-- What the first columns of a row have done. -/
structure RowAt (s : State) (row n : Nat) (after : Nat → Pixel) (record : SubframeRecord) (flagged : List (Nat × Region)) (w : RowWork) :
    Prop where
  defects : DefectsAt s row n w.defects
  plane : PlaneAt s row n after w.plane
  record : w.record = record
  flags : w.flags = flagged.reverse

section

variable {s : State} {row n : Nat} {pixels : List Nat} {q : SubframeRecord} {w : RowWork}

/-- A dark sample more. -/
theorem RowAt.darkSample (kind : q.kind = .dark) {ahead : List Defect} (next : DefectsAt s row (n + 1) ahead)
    (h : RowAt s row n (darkAfter s row pixels) (darkCounted s row pixels q n) [] w) {v : Nat} (passed : passedSample s row pixels n = some v) :
    RowAt s row (n + 1) (darkAfter s row pixels) (darkCounted s row pixels q (n + 1)) [] (takenSample s row n v { w with defects := ahead }) := by
  obtain ⟨-, plane, record, flags⟩ := h
  have here : takenSample s row n v { w with defects := ahead } = Machine.darkSample s (pixelAt s row n) v { w with defects := ahead } := by
    unfold takenSample
    rw [show ({ w with defects := ahead } : RowWork).record.kind = .dark from (congrArg SubframeRecord.kind record).trans kind]
  have counted : darkCounted s row pixels q (n + 1) = { darkCounted s row pixels q n with
      saturated := (darkCounted s row pixels q n).saturated + boolCode (decide (s.params.satLevel ≤ v)),
      admitted := (darkCounted s row pixels q n).admitted + boolCode (decide (v < s.params.satLevel)) } := by
    have kept : (summedSample s row pixels n).isSome = decide (v < s.params.satLevel) := by
      unfold summedSample
      rw [passed, Option.filter_some]
      split <;> simp_all
    unfold darkCounted rowExcluded
    rw [countP_range_succ, countP_range_succ, countP_range_succ, kept, passed]
    rfl
  rw [here, darkSample_eq, counted]
  by_cases full : s.params.satLevel ≤ v
  · have unsummed : summedSample s row pixels n = none := by
      unfold summedSample
      rw [passed, Option.filter_some, if_neg (by simpa using full)]
    rw [if_pos full, decide_eq_true full, decide_eq_false (Nat.not_lt.mpr full)]
    refine ⟨next, plane.stays (by unfold darkAfter; rw [unsummed]), ?_, flags⟩
    rw [← record]
    rfl
  · have summed : summedSample s row pixels n = some v := by
      unfold summedSample
      rw [passed, Option.filter_some, if_pos (by simpa using full)]
    have written : darkAfter s row pixels n
        = sumDark s.params.blackLevel v (Memory.read Pixel.cleared w.plane (pixelAt s row n)) := by
      unfold darkAfter
      rw [summed, plane.left n (Nat.le_refl n)]
      rfl
    have writes := plane.writes
    rw [written] at writes
    rw [if_neg full, decide_eq_false full, decide_eq_true (Nat.not_le.mp full)]
    refine ⟨next, writes, ?_, flags⟩
    rw [← record]
    rfl

/-- A sample taken out, in a dark row. -/
theorem RowAt.darkExcluded {ahead : List Defect} (next : DefectsAt s row (n + 1) ahead)
    (h : RowAt s row n (darkAfter s row pixels) (darkCounted s row pixels q n) [] w) (passed : passedSample s row pixels n = none) :
    RowAt s row (n + 1) (darkAfter s row pixels) (darkCounted s row pixels q (n + 1)) [] (excludedSample { w with defects := ahead }) := by
  obtain ⟨-, plane, record, flags⟩ := h
  have unsummed : summedSample s row pixels n = none := by
    unfold summedSample
    rw [passed]
    rfl
  refine ⟨next, plane.stays (by unfold darkAfter; rw [unsummed]), ?_, flags⟩
  unfold excludedSample
  rw [show ({ w with defects := ahead } : RowWork).record = darkCounted s row pixels q n from record]
  unfold darkCounted rowExcluded
  rw [countP_range_succ, countP_range_succ, countP_range_succ, unsummed, passed]
  rfl

/-- The visit here is the one of the record as it was before the row. -/
theorem visitHere_eq (plane : PlaneAt s row n (lightAfter s row pixels q) w.plane) (index : w.record.index = q.index) (v : Nat) :
    visitHere s row n v w = lightVisit s q.index row n v := by
  unfold visitHere lightVisit
  rw [plane.left n (Nat.le_refl n), index]
  rfl

theorem clampInt_ne (y : Int) : decide (y ≠ clampInt (-4096) 16383 y) = (decide (y < -4096) || decide (16383 < y)) := by
  rw [← Bool.decide_or]
  refine decide_eq_decide.mpr ?_
  unfold clampInt
  omega

theorem clampsHere_eq (plane : PlaneAt s row n (lightAfter s row pixels q) w.plane) {v : Nat} (passed : passedSample s row pixels n = some v) :
    clampsHere s row n v w = rowClamps s row pixels n := by
  unfold clampsHere rowClamps
  rw [plane.left n (Nat.le_refl n), passed, Option.any_some, ← decide_not]
  exact congrArg₂ (· && ·) (decide_eq_decide.mpr Nat.not_le) (clampInt_ne _)

/-- A light sample more. -/
theorem RowAt.lightSample (kind : q.kind = .light) {ahead : List Defect} (next : DefectsAt s row (n + 1) ahead)
    (h : RowAt s row n (lightAfter s row pixels q) (lightCounted s row pixels q n) (rowFlagged s row pixels q n) w) {v : Nat}
    (passed : passedSample s row pixels n = some v) :
    RowAt s row (n + 1) (lightAfter s row pixels q) (lightCounted s row pixels q (n + 1)) (rowFlagged s row pixels q (n + 1))
      (takenSample s row n v { w with defects := ahead }) := by
  obtain ⟨-, plane, record, flags⟩ := h
  have here : takenSample s row n v { w with defects := ahead } = Machine.lightSample s row n (pixelAt s row n) v { w with defects := ahead } := by
    unfold takenSample
    rw [show ({ w with defects := ahead } : RowWork).record.kind = .light from (congrArg SubframeRecord.kind record).trans kind]
  have visits : rowVisit s row pixels q n = some (lightVisit s q.index row n v) := by
    unfold rowVisit
    rw [passed]
    rfl
  have index : w.record.index = q.index := by
    rw [record]
    rfl
  have visit := visitHere_eq (w := { w with defects := ahead }) plane index v
  have clamps := clampsHere_eq (w := { w with defects := ahead }) plane passed
  have writes := plane.writes
  rw [show lightAfter s row pixels q n = (lightVisit s q.index row n v).pixel by unfold lightAfter; rw [visits]; rfl] at writes
  rw [here, lightSample_eq, visit, clamps]
  refine ⟨next, writes, ?_, ?_⟩
  · rw [tallyLight_eq, show ({ w with defects := ahead } : RowWork).record = lightCounted s row pixels q n from record]
    unfold lightCounted rowTallied rowExcluded
    simp only [countP_range_succ, visits, passed, Option.any_some]
    cases rowClamps s row pixels n <;> rfl
  · unfold rowFlagged at flags ⊢
    rw [List.range_succ, List.filter_append, List.map_append, List.reverse_append, ← flags]
    have last : List.filter (fun c => (rowVisit s row pixels q c).any Visit.flagged) [n]
        = if (lightVisit s q.index row n v).flagged then [n] else [] := by
      rw [List.filter_singleton, visits, Option.any_some]
      cases (lightVisit s q.index row n v).flagged <;> rfl
    rw [last]
    generalize (lightVisit s q.index row n v).flagged = flagged
    cases flagged <;> rfl

/-- A sample taken out, in a light row. -/
theorem RowAt.lightExcluded {ahead : List Defect} (next : DefectsAt s row (n + 1) ahead)
    (h : RowAt s row n (lightAfter s row pixels q) (lightCounted s row pixels q n) (rowFlagged s row pixels q n) w)
    (passed : passedSample s row pixels n = none) :
    RowAt s row (n + 1) (lightAfter s row pixels q) (lightCounted s row pixels q (n + 1)) (rowFlagged s row pixels q (n + 1))
      (excludedSample { w with defects := ahead }) := by
  obtain ⟨-, plane, record, flags⟩ := h
  have unvisited : rowVisit s row pixels q n = none := by
    unfold rowVisit
    rw [passed]
    rfl
  have unclamped : rowClamps s row pixels n = false := by
    unfold rowClamps
    rw [passed]
    rfl
  refine ⟨next, plane.stays (by unfold lightAfter; rw [unvisited]; rfl), ?_, ?_⟩
  · unfold excludedSample
    rw [show ({ w with defects := ahead } : RowWork).record = lightCounted s row pixels q n from record]
    unfold lightCounted rowTallied rowExcluded
    simp only [countP_range_succ, unvisited, unclamped, passed, Option.any_none]
    rfl
  · unfold rowFlagged at flags ⊢
    rw [List.range_succ, List.filter_append, List.map_append, List.reverse_append, ← flags]
    have last : List.filter (fun c => (rowVisit s row pixels q c).any Visit.flagged) [n] = [] := by
      rw [List.filter_singleton, unvisited, Option.any_none]
      rfl
    rw [last]
    rfl

end

section

variable {s : State} {row : Nat} {pixels : List Nat} {q : SubframeRecord} {start : RowWork}
  (sorted : (defectsAhead s).Pairwise fun p e => p.less e = true) (inside : row < s.settings.height) (long : 256 ≤ s.settings.width)
  (length : pixels.length = s.settings.width)

include sorted inside long length

/-- A dark row, sample by sample. -/
theorem darkRow_after (kind : q.kind = .dark) (begins : RowAt s row 0 (darkAfter s row pixels) (darkCounted s row pixels q 0) [] start) :
    ∀ n ≤ pixels.length, RowAt s row n (darkAfter s row pixels) (darkCounted s row pixels q n) [] (rowAfter s row pixels start n) := by
  intro n
  induction n with
  | zero => exact fun _ => begins
  | succ n ih =>
    intro within
    have here := ih (by omega)
    obtain ⟨ahead, next, out, taken⟩ :=
      sampleStep_passed sorted inside long length here.defects (List.getElem?_eq_getElem (l := pixels) (i := n) within)
    rw [rowAfter_succ (List.getElem?_eq_getElem within)]
    cases passed : passedSample s row pixels n with
    | none =>
      rw [out passed]
      exact here.darkExcluded next passed
    | some v =>
      rw [taken v passed]
      exact here.darkSample kind next passed

/-- A light row, sample by sample. -/
theorem lightRow_after (kind : q.kind = .light)
    (begins : RowAt s row 0 (lightAfter s row pixels q) (lightCounted s row pixels q 0) (rowFlagged s row pixels q 0) start) :
    ∀ n ≤ pixels.length, RowAt s row n (lightAfter s row pixels q) (lightCounted s row pixels q n) (rowFlagged s row pixels q n)
      (rowAfter s row pixels start n) := by
  intro n
  induction n with
  | zero => exact fun _ => begins
  | succ n ih =>
    intro within
    have here := ih (by omega)
    obtain ⟨ahead, next, out, taken⟩ :=
      sampleStep_passed sorted inside long length here.defects (List.getElem?_eq_getElem (l := pixels) (i := n) within)
    rw [rowAfter_succ (List.getElem?_eq_getElem within)]
    cases passed : passedSample s row pixels n with
    | none =>
      rw [out passed]
      exact here.lightExcluded next passed
    | some v =>
      rw [taken v passed]
      exact here.lightSample kind next passed

end

/-! #### One entry through ingest (R54, R59, R69) -/

/-- What an entry leaves of its row's map. -/
def rowIngested (s : State) (row : Nat) : Memory RowState := Memory.write .unseen s.link.rowMap row .ingested

/-- The cursor before such a tail of DEFECTS. -/
def cursorBefore (s : State) (ahead : List Defect) : Nat := s.tables.defects.seen.length - ahead.length

/-- The open record r in the place of the one there is. -/
def withRecord (r : SubframeRecord) (s : State) : State := { s with log.openRecord := some r }

/-- The work of a GOOD row begins so. -/
def rowStart (s : State) (row : Nat) (q : SubframeRecord) : RowWork :=
  { plane := s.plane, record := q, defects := (defectsAhead s).dropWhile fun d => decide (d.row < row), flags := [] }

/-- The work of a GOOD row, done. -/
def rowDone (s : State) (row : Nat) (pixels : List Nat) (q : SubframeRecord) : RowWork :=
  pixels.zipIdx.foldl (sampleStep s row pixels) (rowStart s row q)

section

variable {s : State} {e : FifoEntry} {q : SubframeRecord} (open_ : s.log.openRecord = some q)

include open_

theorem withRecord_self : withRecord q s = s := by
  unfold withRecord
  rw [← open_]

theorem ingestEntryRow_good {pixels : List Nat} (samples : e.pixels = some pixels) :
    ingestEntryRow e s = setRow e.row .ingested (ingestGood e.row pixels q s) := by
  unfold ingestEntryRow
  rw [open_, samples]

theorem ingestEntryRow_marker (samples : e.pixels = none) : ingestEntryRow e s = setRow e.row .ingested (ingestMarker e.row q s) := by
  unfold ingestEntryRow
  rw [open_, samples]

theorem ingestEntryRow_goodDark {pixels : List Nat} (samples : e.pixels = some pixels) (kind : q.kind = .dark) :
    ingestEntryRow e s = besides (rowDone s e.row pixels q).plane (cursorBefore s (rowDone s e.row pixels q).defects) (rowIngested s e.row)
      (withRecord (rowDone s e.row pixels q).record s) := by
  rw [ingestEntryRow_good open_ samples]
  unfold ingestGood
  rw [kind]
  rfl

theorem ingestEntryRow_goodLight {pixels : List Nat} (samples : e.pixels = some pixels) (kind : q.kind = .light) :
    ingestEntryRow e s = besides (rowDone s e.row pixels q).plane (cursorBefore s (rowDone s e.row pixels q).defects) (rowIngested s e.row)
      (detectRow e.row (rowDone s e.row pixels q).flags.reverse (withRecord (rowDone s e.row pixels q).record s)) := by
  have detected := detectRow_besides (rowDone s e.row pixels q).plane (cursorBefore s (rowDone s e.row pixels q).defects) s.link.rowMap
    e.row (rowDone s e.row pixels q).flags.reverse (withRecord (rowDone s e.row pixels q).record s)
  rw [ingestEntryRow_good open_ samples]
  unfold ingestGood
  rw [kind]
  exact congrArg (setRow e.row .ingested) detected

theorem ingestEntryRow_markerDark (samples : e.pixels = none) (kind : q.kind = .dark) :
    ingestEntryRow e s = besides s.plane (cursorBefore s ((defectsAhead s).dropWhile fun d => decide (d.row ≤ e.row))) (rowIngested s e.row) s := by
  rw [ingestEntryRow_marker open_ samples]
  unfold ingestMarker
  rw [kind]
  rfl

theorem ingestEntryRow_markerLight (samples : e.pixels = none) (kind : q.kind = .light) :
    ingestEntryRow e s = besides (commitRows (fun r => decide (r = e.row)) s).plane
      (cursorBefore s ((defectsAhead s).dropWhile fun d => decide (d.row ≤ e.row))) (rowIngested s e.row) (detectRow e.row [] s) := by
  have detected := detectRow_besides (commitRows (fun r => decide (r = e.row)) s).plane
    (cursorBefore s ((defectsAhead s).dropWhile fun d => decide (d.row ≤ e.row))) s.link.rowMap e.row [] s
  rw [ingestEntryRow_marker open_ samples]
  unfold ingestMarker
  rw [kind]
  exact congrArg (setRow e.row .ingested) detected

end

/-- An entry taken, with what it leaves: the plane, the defects ahead of the cursor, the counts before the detector, and the state of
the detector. -/
structure Taken (s : State) (e : FifoEntry) (q : SubframeRecord) (plane : Memory Pixel) (ahead : List Defect) (r : SubframeRecord)
    (d : State) : Prop where
  shape : ingestEntryRow e s = besides plane (cursorBefore s ahead) (rowIngested s e.row) d
  detected : Detected (withRecord r s) d
  dark : q.kind = .dark → d = withRecord r s
  kept : RowKept s e.row q (if e.pixels = none then 0 else s.settings.width) { plane := plane, record := r, defects := ahead, flags := [] }

/-- What an entry says of its row in full, where the tables are sound and the row lies in the frame. -/
structure RowSaid (s : State) (e : FifoEntry) (q : SubframeRecord) (plane : Memory Pixel) (ahead : List Defect) (r : SubframeRecord)
    (d : State) : Prop where
  behind : ∀ x ∈ s.tables.defects.seen.drop (cursorBefore s ahead), e.row < x.row ∨ s.settings.width ≤ x.column
  goodDark : ∀ pixels, e.pixels = some pixels → q.kind = .dark →
    (∀ c < s.settings.width, Memory.read Pixel.cleared plane (pixelAt s e.row c) = darkAfter s e.row pixels c)
      ∧ r = darkCounted s e.row pixels q s.settings.width
  goodLight : ∀ pixels, e.pixels = some pixels → q.kind = .light →
    (∀ c < s.settings.width, Memory.read Pixel.cleared plane (pixelAt s e.row c) = lightAfter s e.row pixels q c)
      ∧ d = detectRow e.row (rowFlagged s e.row pixels q s.settings.width) (withRecord (lightCounted s e.row pixels q s.settings.width) s)
  markerDark : e.pixels = none → q.kind = .dark → plane = s.plane ∧ r = q
  markerLight : e.pixels = none → q.kind = .light →
    plane = (commitRows (fun k => decide (k = e.row)) s).plane ∧ d = detectRow e.row [] s

theorem commitRecord_cleared (visit : Nat → Bool) (set : TakeSettings) (det : TrailDetector) (a : Nat) :
    commitRecord visit set det a Pixel.cleared = Pixel.cleared := by
  unfold commitRecord commitOnly commitPending
  split
  · dsimp only
    split <;> rfl
  · rfl

section

variable {s : State} {e : FifoEntry} {q : SubframeRecord} (memory : MemoryWf s)

include memory

theorem rowKept_start (row : Nat) (q : SubframeRecord) : RowKept s row q 0 (rowStart s row q) where
  wf := memory.plane
  elsewhere _ _ := rfl
  dark _ _ := rfl
  light _ _ := ⟨rfl, rfl⟩
  untallied := rfl
  counts := rfl
  darkCounts _ := ⟨rfl, rfl, rfl⟩

theorem rowKept_done {pixels : List Nat} (length : pixels.length = s.settings.width) (row : Nat) :
    RowKept s row q s.settings.width (rowDone s row pixels q) := by
  have kept := rowKept_after (rowKept_start memory row q) length pixels.length (Nat.le_refl _)
  rw [rowAfter_all, length] at kept
  exact kept

/-- A record after the commit-only visits. -/
theorem read_commitRows (visit : Nat → Bool) (a : Nat) :
    Memory.read Pixel.cleared (commitRows visit s).plane a = commitRecord visit s.settings s.trails a (readPixel s a) :=
  Memory.read_update (commitRecord_cleared visit s.settings s.trails) memory.plane a

/-- The commit-only visits of a lost row leave the other rows and every dark field alone (R74, R102). -/
theorem rowKept_committed (row : Nat) (kind : q.kind = .light) : RowKept s row q 0
    { plane := (commitRows (fun k => decide (k = row)) s).plane, record := q, defects := [], flags := [] } where
  wf := Memory.wf_update _ memory.plane
  elsewhere a other := by
    show Memory.read Pixel.cleared (commitRows (fun k => decide (k = row)) s).plane a = _
    rw [read_commitRows memory]
    refine if_neg fun picked => other ?_
    exact of_decide_eq_true (Bool.and_eq_true .. ▸ picked).2
  dark dark := absurd (kind.symm.trans dark) nofun
  light _ a := by
    show DarkKept _ (Memory.read Pixel.cleared (commitRows (fun k => decide (k = row)) s).plane a)
    rw [read_commitRows memory]
    unfold commitRecord commitOnly
    dsimp only
    split
    · split
      · exact darkKept_commitPending _ _
      · exact ⟨rfl, rfl⟩
    · exact ⟨rfl, rfl⟩
  untallied := rfl
  counts := rfl
  darkCounts dark := absurd (kind.symm.trans dark) nofun

end

/-- The entries of DEFECTS ahead of the cursor lie in order (R67, R178). -/
theorem defectsAhead_sorted {s : State} (sound : Tables.Sound s.tables) : (defectsAhead s).Pairwise fun p e => p.less e = true := by
  refine List.Pairwise.sublist (List.drop_sublist ..) ?_
  unfold Table.seen
  split
  · exact List.Pairwise.nil
  · exact sound.defects.2.2

/-- The cursor stands before a tail of DEFECTS. -/
theorem drop_cursorBefore {s : State} {gone ahead : List Defect} (whole : defectsAhead s = gone ++ ahead) :
    s.tables.defects.seen.drop (cursorBefore s ahead) = ahead := by
  have tail : ahead <:+ s.tables.defects.seen :=
    (List.suffix_append gone ahead).trans (whole ▸ List.drop_suffix s.cal.cursor s.tables.defects.seen)
  exact (List.suffix_iff_eq_drop.mp tail).symm

section

variable {s : State} {e : FifoEntry} {q : SubframeRecord} {pixels : List Nat}

/-- The row's work before its first sample. -/
theorem planeAt_start (memory : MemoryWf s) (row : Nat) (after : Nat → Pixel) : PlaneAt s row 0 after s.plane where
  wf := memory.plane
  done _ within := absurd within (Nat.not_lt_zero _)
  left _ _ := rfl

theorem rowDone_dark (memory : MemoryWf s) (sound : Tables.Sound s.tables) (inside : e.row < s.settings.height) (long : 256 ≤ s.settings.width)
    (length : pixels.length = s.settings.width) (kind : q.kind = .dark) :
    RowAt s e.row s.settings.width (darkAfter s e.row pixels) (darkCounted s e.row pixels q s.settings.width) [] (rowDone s e.row pixels q) := by
  have sorted := defectsAhead_sorted sound
  have done := darkRow_after sorted inside long length kind
    (start := rowStart s e.row q) ⟨defectsAt_start sorted e.row, planeAt_start memory e.row _, rfl, rfl⟩ pixels.length (Nat.le_refl _)
  rw [rowAfter_all, length] at done
  exact done

theorem rowDone_light (memory : MemoryWf s) (sound : Tables.Sound s.tables) (inside : e.row < s.settings.height) (long : 256 ≤ s.settings.width)
    (length : pixels.length = s.settings.width) (kind : q.kind = .light) :
    RowAt s e.row s.settings.width (lightAfter s e.row pixels q) (lightCounted s e.row pixels q s.settings.width)
      (rowFlagged s e.row pixels q s.settings.width) (rowDone s e.row pixels q) := by
  have sorted := defectsAhead_sorted sound
  have done := lightRow_after sorted inside long length kind
    (start := rowStart s e.row q) ⟨defectsAt_start sorted e.row, planeAt_start memory e.row _, rfl, rfl⟩ pixels.length (Nat.le_refl _)
  rw [rowAfter_all, length] at done
  exact done

end

theorem isPeak_iff (m : Mode) : m.isPeak = true ↔ m ∈ [Mode.peak, .peakFade] := by
  cases m <;> simp [Mode.isPeak]

/-- A record of the frame after the commit-only visits of some rows (R57, R102). -/
theorem read_commitRows_at {u : State} (memory : MemoryWf u) (visit : Nat → Bool) {row column : Nat} (inside : row < u.settings.height)
    (within : column < u.settings.width) : Memory.read Pixel.cleared (commitRows visit u).plane (pixelAt u row column)
      = if visit row then commitOnly u.settings u.trails row column (readPixel u (pixelAt u row column))
        else readPixel u (pixelAt u row column) := by
  have place : pixelAt u row column % u.settings.width = column := by
    unfold pixelAt
    rw [Nat.mul_comm, Nat.mul_add_mod, Nat.mod_eq_of_lt within]
  rw [read_commitRows memory]
  unfold commitRecord
  rw [pixelAt_row within, place, decide_eq_true inside, Bool.true_and]

/-- The entries behind a lost row. -/
theorem behind_marker {s : State} (sound : Tables.Sound s.tables) (row : Nat) :
    ∀ x ∈ s.tables.defects.seen.drop (cursorBefore s ((defectsAhead s).dropWhile fun d => decide (d.row ≤ row))),
      row < x.row ∨ s.settings.width ≤ x.column := by
  intro x mem
  rw [drop_cursorBefore List.takeWhile_append_dropWhile.symm] at mem
  exact .inl (defects_behind_row (defectsAhead_sorted sound) row x mem)

section

variable {s : State} {e : FifoEntry} {q : SubframeRecord} (memory : MemoryWf s) (open_ : s.log.openRecord = some q)

include memory open_

/-- A GOOD row of a dark subframe (R74). -/
theorem taken_goodDark {pixels : List Nat} (samples : e.pixels = some pixels) (length : pixels.length = s.settings.width) (kind : q.kind = .dark) :
    ∃ plane ahead r d, Taken s e q plane ahead r d
      ∧ (256 ≤ s.settings.width → e.row < s.settings.height → Tables.Sound s.tables → RowSaid s e q plane ahead r d) := by
  have kept := rowKept_done (q := q) memory length e.row
  refine ⟨_, _, _, _, ⟨ingestEntryRow_goodDark open_ samples kind, .refl _, fun _ => rfl, ?_⟩, fun long inside sound => ?_⟩
  · rw [if_neg (by rw [samples]; nofun)]
    exact ⟨kept.wf, kept.elsewhere, kept.dark, kept.light, kept.untallied, kept.counts, kept.darkCounts⟩
  · have done := rowDone_dark memory sound inside long length kind
    obtain ⟨gone, whole, -⟩ := done.defects.passed
    refine ⟨fun x mem => ?_, fun other same _ => ?_, fun _ _ light => absurd (kind.symm.trans light) nofun,
      fun none_ => absurd (samples.symm.trans none_) nofun, fun none_ => absurd (samples.symm.trans none_) nofun⟩
    · rw [drop_cursorBefore whole] at mem
      exact (done.defects.behind x mem).imp_right And.right
    · obtain rfl := Option.some.inj (samples.symm.trans same)
      exact ⟨done.plane.done, done.record⟩

/-- A GOOD row of a light subframe (R84, R95, R115). -/
theorem taken_goodLight {pixels : List Nat} (samples : e.pixels = some pixels) (length : pixels.length = s.settings.width) (kind : q.kind = .light) :
    ∃ plane ahead r d, Taken s e q plane ahead r d
      ∧ (256 ≤ s.settings.width → e.row < s.settings.height → Tables.Sound s.tables → RowSaid s e q plane ahead r d) := by
  have kept := rowKept_done (q := q) memory length e.row
  refine ⟨_, _, _, _, ⟨ingestEntryRow_goodLight open_ samples kind, detected_detectRow _ _ _, fun dark => absurd (kind.symm.trans dark) nofun, ?_⟩,
    fun long inside sound => ?_⟩
  · rw [if_neg (by rw [samples]; nofun)]
    exact ⟨kept.wf, kept.elsewhere, kept.dark, kept.light, kept.untallied, kept.counts, kept.darkCounts⟩
  · have done := rowDone_light memory sound inside long length kind
    obtain ⟨gone, whole, -⟩ := done.defects.passed
    refine ⟨fun x mem => ?_, fun _ _ dark => absurd (kind.symm.trans dark) nofun, fun other same _ => ?_,
      fun none_ => absurd (samples.symm.trans none_) nofun, fun none_ => absurd (samples.symm.trans none_) nofun⟩
    · rw [drop_cursorBefore whole] at mem
      exact (done.defects.behind x mem).imp_right And.right
    · obtain rfl := Option.some.inj (samples.symm.trans same)
      refine ⟨done.plane.done, ?_⟩
      rw [done.flags, done.record, List.reverse_reverse]

/-- A lost-row marker (R59, R69, R102). -/
theorem taken_marker (samples : e.pixels = none) : ∃ plane ahead r d, Taken s e q plane ahead r d
    ∧ (256 ≤ s.settings.width → e.row < s.settings.height → Tables.Sound s.tables → RowSaid s e q plane ahead r d) := by
  have sampled : ∀ {pixels : List Nat} {P : Prop}, e.pixels = some pixels → P := fun some_ => absurd (samples.symm.trans some_) nofun
  have self := withRecord_self open_
  cases kind : q.kind with
  | dark =>
    have start := rowKept_start memory e.row q
    refine ⟨s.plane, _, q, s, ⟨ingestEntryRow_markerDark open_ samples kind, ?_, fun _ => self.symm, ?_⟩, fun _ _ sound =>
      ⟨behind_marker sound e.row, fun _ => sampled, fun _ => sampled, fun _ _ => ⟨rfl, rfl⟩,
        fun _ light => absurd (kind.symm.trans light) nofun⟩⟩
    · rw [self]
      exact .refl s
    · rw [if_pos samples]
      exact ⟨start.wf, start.elsewhere, start.dark, start.light, start.untallied, start.counts, start.darkCounts⟩
  | light =>
    have committed := rowKept_committed memory e.row kind
    refine ⟨_, _, q, _, ⟨ingestEntryRow_markerLight open_ samples kind, ?_, fun dark => absurd (kind.symm.trans dark) nofun, ?_⟩, fun _ _ sound =>
      ⟨behind_marker sound e.row, fun _ => sampled, fun _ => sampled, fun _ dark => absurd (kind.symm.trans dark) nofun,
        fun _ _ => ⟨rfl, rfl⟩⟩⟩
    · rw [self]
      exact detected_detectRow _ _ _
    · rw [if_pos samples]
      exact ⟨committed.wf, committed.elsewhere, committed.dark, committed.light, committed.untallied, committed.counts, committed.darkCounts⟩

theorem exists_taken (length : ∀ pixels, e.pixels = some pixels → pixels.length = s.settings.width) :
    ∃ plane ahead r d, Taken s e q plane ahead r d
      ∧ (256 ≤ s.settings.width → e.row < s.settings.height → Tables.Sound s.tables → RowSaid s e q plane ahead r d) := by
  cases samples : e.pixels with
  | none => exact taken_marker memory open_ samples
  | some pixels =>
    cases kind : q.kind with
    | dark => exact taken_goodDark memory open_ samples (length pixels samples) kind
    | light => exact taken_goodLight memory open_ samples (length pixels samples) kind

end

/-! #### What INGEST_ENTRY leaves -/

section

variable {s : State} {e : FifoEntry} {q r : SubframeRecord} {plane : Memory Pixel} {ahead : List Defect} {d : State}

/-- The state behind INGEST_ENTRY. -/
def entryIngested (s : State) : State := endEvent (ingestNext s)

theorem ingestNext_eq (next : nextIngest s = some e) : ingestNext s
    = freeEntries (onEntries (fun f => decide (f.number = e.number)) (fun f => { f with ingestDone := true }) (ingestEntryRow e s)) := by
  unfold ingestNext
  rw [next]

/-- The blocks that one entry moves. -/
theorem entryIngested_blocks (taken : Taken s e q plane ahead r d) (next : nextIngest s = some e) :
    (entryIngested s).log = d.log ∧ (entryIngested s).trails = d.trails ∧ (entryIngested s).plane = plane
      ∧ (entryIngested s).cal.cursor = cursorBefore s ahead ∧ (entryIngested s).link.rowMap = rowIngested s e.row := by
  obtain ⟨-, log, -, -, -, link, cal, plane', -, trails, -⟩ := endEvent_fields (ingestNext s)
  have moved := ingestNext_eq next
  rw [taken.shape] at moved
  have m := fun {α : Type} (f : State → α) => congrArg f moved
  exact ⟨log.trans (m State.log), trails.trans (m State.trails), plane'.trans (m State.plane),
    (congrArg Calibration.cursor cal).trans (m fun t => t.cal.cursor), (congrArg LinkReceiver.rowMap link).trans (m fun t => t.link.rowMap)⟩

/-- The entry is done, and what is finished leaves (R59, R60). -/
theorem entryIngested_entries (next : nextIngest s = some e) : (entryIngested s).fifo.entries
    = (s.fifo.entries.map fun f => if f.number = e.number then { f with ingestDone := true } else f).dropWhile
      fun f => f.ingestDone && decide (f.forward ≠ .pending) := by
  obtain ⟨-, -, -, -, -, -, -, -, -, -, -, -, -, -, -, -, -, entries, -⟩ := endEvent_fields (ingestNext s)
  refine entries.trans ?_
  rw [ingestNext_eq next]
  unfold freeEntries onEntries
  dsimp only
  rw [ingestEntryRow_entries]
  simp only [decide_eq_true_eq]
  rfl

/-- The rest of the part stays as it is. -/
theorem entryIngested_rest (s : State) : (entryIngested s).seq = s.seq ∧ (entryIngested s).arb = s.arb ∧ (entryIngested s).bridge = s.bridge
    ∧ (entryIngested s).tables = s.tables ∧ (entryIngested s).settings = s.settings := by
  obtain ⟨seq, -, -, -, -, -, -, -, arb, -, bridge, tables, -, settings, -⟩ := endEvent_fields (ingestNext s)
  obtain ⟨seq', arb', bridge', -, -, -, tables', -, settings', -⟩ := fields_of_ingestRest (ingestRest_ingestNext s)
  exact ⟨seq.trans seq', arb.trans arb', bridge.trans bridge', tables.trans tables', settings.trans settings'⟩

theorem Taken.log (taken : Taken s e q plane ahead r d) {q' : SubframeRecord} (now : d.log.openRecord = some q') :
    d.log = { s.log with openRecord := some q' } := by
  rw [← now, taken.detected.form]
  rfl

/-- The record that an entry leaves counts its row's samples as the row's work did. -/
theorem Taken.counts (taken : Taken s e q plane ahead r d) {q' : SubframeRecord} (detected : RecordDetected r q') :
    q'.lost = q.lost ∧ q'.extraLines = q.extraLines ∧ q'.index = q.index ∧ q'.kind = q.kind
      ∧ q'.admitted + q'.rejected + q'.saturated + q'.excluded = q.admitted + q.rejected + q.saturated + q.excluded
        + (if e.pixels = none then 0 else s.settings.width) := by
  have m := fun {α : Type} (f : SubframeRecord → α) => congrArg f detected
  have u := fun {α : Type} (f : SubframeRecord → α) => congrArg f taken.kept.untallied
  have total := taken.kept.counts
  refine ⟨(m (·.lost)).trans (u (·.lost)), (m (·.extraLines)).trans (u (·.extraLines)), (m (·.index)).trans (u (·.index)),
    (m (·.kind)).trans (u (·.kind)), ?_⟩
  rw [m (·.admitted), m (·.rejected), m (·.saturated), m (·.excluded)]
  exact total

/-- In a dark subframe the detector takes nothing. -/
theorem Taken.darkRecord (taken : Taken s e q plane ahead r d) (kind : q.kind = .dark) {q' : SubframeRecord}
    (now : d.log.openRecord = some q') : q' = r ∧ d.trails = s.trails := by
  have same := taken.dark kind
  rw [same] at now ⊢
  exact ⟨(Option.some.inj now).symm, rfl⟩

theorem rowState_rowIngested (memory : MemoryWf s) {t : State} (rows : t.link.rowMap = rowIngested s e.row) :
    rowState t e.row = .ingested ∧ ∀ k, k ≠ e.row → rowState t k = rowState s k := by
  have read : ∀ k, rowState t k = if k = e.row then .ingested else rowState s k := by
    intro k
    unfold rowState
    rw [rows]
    exact Memory.read_write memory.rowMap _ _ _
  exact ⟨(read _).trans (if_pos rfl), fun k other => (read k).trans (if_neg other)⟩

/-- A record of the lost row after its commit-only visit (R97, R102). -/
theorem read_commitRow (memory : MemoryWf s) {row c : Nat} (inside : row < s.settings.height) (within : c < s.settings.width) :
    Memory.read Pixel.cleared (commitRows (fun k => decide (k = row)) s).plane (pixelAt s row c)
      = if (pixelPolicy s.settings row c).mode = .peak ∨ (pixelPolicy s.settings row c).mode = .peakFade then
          { readPixel s (pixelAt s row c) with
            peak := settledPeak (isVetoed s.settings s.trails (pixelPolicy s.settings row c) row c) (readPixel s (pixelAt s row c)),
            pending := none }
        else readPixel s (pixelAt s row c) := by
  have peaks : (pixelPolicy s.settings row c).mode.isPeak = true
      ↔ (pixelPolicy s.settings row c).mode = .peak ∨ (pixelPolicy s.settings row c).mode = .peakFade := by
    rw [isPeak_iff, List.mem_pair]
  rw [read_commitRows_at memory _ inside within, if_pos (decide_eq_true rfl)]
  exact if_congr peaks (commitPending_eq _ _) rfl

end

/-- The trail that a segment joins, in the obligation's words (R119, R120). -/
theorem joined_eq (row : Nat) (g : Segment) (hits : List OpenTrail) : hits.foldl (foldTrail row) (g.asTrail row)
    = let fed := hits.filter fun u => decide (u.lastRow = row)
      { firstRow := hits.foldl (fun k u => min k u.firstRow) row, lastRow := row,
        minCol := hits.foldl (fun k u => min k u.minCol) g.left, maxCol := hits.foldl (fun k u => max k u.maxCol) g.right,
        spanLeft := fed.foldl (fun k u => min k u.spanLeft) g.left, spanRight := fed.foldl (fun k u => max k u.spanRight) g.right,
        flagged := g.flagged + (hits.map OpenTrail.flagged).sum, sky := g.sky || hits.any OpenTrail.sky,
        ground := g.ground || hits.any OpenTrail.ground } :=
  foldl_foldTrail row hits (g.asTrail row) rfl

/-- Settles O51: each way an entry can go leaves its row's work beside what the detector makes of the state (Taken, RowSaid). -/
theorem ingestCountsEverySample : Obligations.IngestCountsEverySample := by
  unfold Obligations.IngestCountsEverySample
  refine ⟨?_, detectRow_eq, fun row g s => ?_, fun t s => ⟨closeTrail_small, closeTrail_late, closeTrail_numbered⟩⟩
  · intro s before after e q memory holder _ entries subframe left oldest open_ length
    have next : nextIngest s = some e := nextIngest_eq_some.mpr ⟨subframe, left, before, after, entries, oldest⟩
    obtain ⟨plane, ahead, r, d, taken, said⟩ := exists_taken memory open_ length
    obtain ⟨q', now, detected⟩ := taken.detected.record r rfl
    obtain ⟨log, trails, plane', cursor, rows⟩ := entryIngested_blocks taken next
    obtain ⟨lost, extra, index, kind, counts⟩ := taken.counts detected
    obtain ⟨here, others⟩ := rowState_rowIngested memory rows
    obtain ⟨seq, arb, bridge, tables, settings⟩ := entryIngested_rest s
    have read : ∀ a, readPixel (entryIngested s) a = Memory.read Pixel.cleared plane a := fun a =>
      congrArg (fun m => Memory.read Pixel.cleared m a) plane'
    refine ⟨entryIngested s, q', if_pos holder, log.trans (taken.log now), lost, extra, index, kind, counts, fun dark => ?_, here, others,
      fun a other => ?_, fun dark a => ?_, fun light a => ?_, entryIngested_entries next, seq, arb, bridge, tables, settings,
      fun long inside sound => ?_⟩
    · obtain ⟨rejected, outliers, clamped⟩ := taken.kept.darkCounts dark
      obtain ⟨rfl, same⟩ := taken.darkRecord dark now
      exact ⟨rejected, outliers, clamped, trails.trans same⟩
    · rw [read]
      exact taken.kept.elsewhere a other
    · rw [read]
      exact taken.kept.dark dark a
    · rw [read]
      exact taken.kept.light light a
    · have row := said long inside sound
      refine ⟨?_, fun pixels samples => ⟨fun dark => ?_, fun light => ?_⟩, fun samples => ⟨fun dark => ?_, fun light => ?_⟩⟩
      · rw [cursor]
        exact row.behind
      · obtain ⟨done, counted⟩ := row.goodDark pixels samples dark
        exact ⟨fun c within => (read _).trans (done c within), (taken.darkRecord dark now).1.trans counted⟩
      · obtain ⟨done, found⟩ := row.goodLight pixels samples light
        exact ⟨fun c within => (read _).trans (done c within), trails.trans (congrArg State.trails found), log.trans (congrArg State.log found)⟩
      · obtain ⟨same, counted⟩ := row.markerDark samples dark
        exact ⟨plane'.trans same, (taken.darkRecord dark now).1.trans counted⟩
      · obtain ⟨same, found⟩ := row.markerLight samples light
        have committed : ∀ a, readPixel (entryIngested s) a = readPixel (commitRows (fun k => decide (k = e.row)) s) a := 
          fun a => (read a).trans (congrArg (fun m => Memory.read Pixel.cleared m a) same)
        exact ⟨fun c within => (committed _).trans (read_commitRow memory inside within), trails.trans (congrArg State.trails found),
          log.trans (congrArg State.log found)⟩
  · obtain ⟨missed, joins⟩ := takeSegment_eq row g s
    refine ⟨missed, fun before t after trails first matched => ?_⟩
    have joined := joins before t after trails first matched
    rw [joined_eq] at joined
    exact joined

end Sys2Proof.Machine
end

section
/-! PROOFS. Settles O52: the close of a subframe and what comes next -/

namespace Sys2Proof.Machine

/-! ### O52: the close of a subframe -/

/-! #### A queue with no room stays so to the end of the event (R166, R171) -/

/-- No report finds room any more, and the lost-reports flag is set. -/
def Shut (s : State) : Prop := ¬ (s.out.locked = true ∧ s.out.queue.length < 16) ∧ s.port.lostReports = true

/-- What stays shut. -/
def Shuts (s t : State) : Prop := Shut s → Shut t

theorem Shuts.refl (s : State) : Shuts s s := id

theorem Shuts.trans {s t u : State} (h : Shuts s t) (h' : Shuts t u) : Shuts s u := h' ∘ h

theorem formReport_shut {k : ReportKind} {p : List Byte} {s : State} (full : ¬ (s.out.locked = true ∧ s.out.queue.length < 16)) :
    formReport k p s = { s with port.lostReports := true } := if_neg (mt (roomy_iff s).mp full)

theorem shuts_queueReport (k : ReportKind) (p : List Byte) (s : State) : Shuts s (queueReport k p s) := by
  intro shut
  unfold queueReport
  split
  · rw [formReport_shut shut.1]
    exact ⟨shut.1, rfl⟩
  · exact shut

/-- A report of an enabled kind that finds no room shuts the queue. -/
theorem shut_queueReport {k : ReportKind} {p : List Byte} {s : State} (enabled : reportEnabled s k = true)
    (full : ¬ (s.out.locked = true ∧ s.out.queue.length < 16)) : Shut (queueReport k p s) := by
  have formed : queueReport k p s = formReport k p s := if_pos enabled
  rw [formed, formReport_shut full]
  exact ⟨full, rfl⟩

theorem shuts_reportClaimEnd (t : Transaction) (o : BusOutcome) (s : State) : Shuts s (reportClaimEnd t o s) := by
  unfold reportClaimEnd reportScriptEnd
  split
  · split
    · exact .refl s
    · exact shuts_queueReport _ _ s
  · exact .refl s

theorem shuts_handScripts (indices : List Nat) : ∀ s : State, Shuts s (handScripts indices s) := by
  induction indices with
  | nil => exact fun _ => id
  | cons index rest ih =>
    intro s
    have told : ∀ code, Shuts s (handScripts rest (reportScript s.seq.step index code 0 s)) := fun code =>
      (shuts_queueReport _ _ s).trans (ih _)
    unfold handScripts
    split
    · exact told _
    · split
      · exact told _
      · split
        · exact told _
        · exact id

theorem shuts_failWaiting (s : State) : Shuts s (failWaiting s) := by
  unfold failWaiting
  dsimp only
  split
  · exact fun shut => shuts_handScripts _ _
      (shuts_reportClaimEnd _ .busStuck { s with bridge.waitingPoll := none, bridge.waitingScript := none } shut)
  · exact fun shut => shuts_handScripts _ _ shut

theorem shuts_startTransaction (t : Transaction) (s : State) : Shuts s (startTransaction t s) := by
  unfold startTransaction
  dsimp only
  split
  · exact id
  · exact id
  · unfold enterFault
    exact fun shut => shuts_failWaiting _ (shuts_queueReport _ _ _ (shuts_reportClaimEnd t .busStuck
      { sendRun (recoveryRun s.params.bridgeSpeed) { s with freeSeq := s.freeSeq + 1 } with bridge.state := .fault, bridge.inFlight := none } shut))

theorem shuts_selectClaim (fuel : Nat) : ∀ s : State, Shuts s (selectClaim fuel s) := by
  induction fuel with
  | zero => exact fun _ => id
  | succ fuel ih =>
    intro s
    unfold selectClaim
    split
    · exact id
    split
    · dsimp only
      split
      · exact shuts_startTransaction _ { s with bridge.waitingPoll := none }
      · exact ih { s with bridge.waitingPoll := none }
    split
    · exact id
    split
    · dsimp only
      split
      · exact shuts_startTransaction _ { s with bridge.waitingScript := none }
      · exact fun shut => ih _ (shuts_handScripts _ _ (shuts_reportClaimEnd _ .blocked { s with bridge.waitingScript := none } shut))
    · split
      · exact id
      · split
        · exact shuts_startTransaction _ s
        · exact ih (endRelay Relay.isWaiting .blocked [] s)

theorem shuts_arbitrate (s : State) : Shuts s (arbitrate s) := shuts_selectClaim _ s

theorem shuts_enterExpose (s : State) : Shuts s (enterExpose s) := by
  unfold enterExpose
  split
  · exact id
  · unfold schedulePoll claimPoll
    split
    · exact id
    · dsimp only
      split
      · split
        · exact id
        · split
          · exact id
          · exact fun shut => shuts_arbitrate _ shut
      · exact id

theorem shuts_enterWait (s : State) : Shuts s (enterWait s) := by
  unfold enterWait
  split
  · exact id
  · split
    · exact id
    · split
      · exact shuts_enterExpose { s with seq.phase := .wait, seq.gapTimer := none }
      · exact id

theorem shuts_enterStepStart (settles : Bool) (s : State) : Shuts s (enterStepStart settles s) := by
  have ended : ∀ u : State, Shuts u (tryEndStepStart u) := by
    intro u
    unfold tryEndStepStart
    split
    · exact shuts_enterWait u
    · exact id
  unfold enterStepStart
  split
  · exact id
  · exact fun shut => ended _ (shuts_arbitrate _ (shuts_handScripts _ _ shut))

theorem shuts_enterTake (t : TakeState) (p : Phase) (s : State) : Shuts s (enterTake t p s) := by
  rw [enterTake_eq]
  exact fun shut => shuts_queueReport _ _ _ shut

theorem shuts_takeRender (kind : RenderKind) (s : State) : Shuts s (takeRender kind s) := by
  unfold takeRender
  dsimp only
  split
  · exact id
  · exact id

theorem shuts_enterFinishing (s : State) : Shuts s (enterFinishing s) := by
  have asks : ∀ u : State, Shuts u (requestFinal u) := by
    intro u
    unfold requestFinal
    split
    · exact shuts_takeRender _ u
    · exact fun shut => shuts_enterTake _ _ _ (shuts_queueReport _ _ (openRender .final u) shut)
  unfold enterFinishing
  dsimp only
  split
  · exact fun shut => asks _ (shuts_enterTake _ _ s shut)
  · exact shuts_enterTake _ _ s

/-! #### The first three stages (R57, R102, R122, R126) -/

theorem closeTrail_openTrails (t : OpenTrail) (l : List OpenTrail) (s : State) :
    closeTrail t { s with trails.openTrails := l } = { closeTrail t s with trails.openTrails := l } := by
  by_cases small : t.extent < s.params.minExtent
  · rw [closeTrail_small small, closeTrail_small (by exact small)]
  · by_cases early : s.trails.counter ≤ 255
    · rw [closeTrail_numbered (Nat.not_lt.mp small) early, closeTrail_numbered (by exact Nat.not_lt.mp small) (by exact early)]
      rfl
    · rw [closeTrail_late (Nat.not_lt.mp small) (Nat.not_le.mp early),
        closeTrail_late (by exact Nat.not_lt.mp small) (by exact Nat.not_le.mp early)]
      rfl

theorem closeTrails_openTrails (l : List OpenTrail) (ts : List OpenTrail) : ∀ s : State,
    closeTrails ts { s with trails.openTrails := l } = { closeTrails ts s with trails.openTrails := l } := by
  induction ts with
  | nil => exact fun _ => rfl
  | cons t rest ih =>
    intro s
    exact (congrArg (closeTrails rest) (closeTrail_openTrails t l s)).trans (ih _)

/-- The open trails closed, oldest first (R122). -/
def trailsClosed (u : State) : State := closeTrails u.trails.openTrails u

/-- The detector behind the close of a light subframe (R122, R126). -/
def trailsRotated (u : State) : TrailDetector :=
  { (trailsClosed u).trails with
    openTrails := [], previous := (trailsClosed u).trails.current, current := { index := none, boxes := [] } }

theorem detected_trailsClosed (u : State) : Detected u (trailsClosed u) := detected_closeTrails _ u

/-- The rows that get a commit-only visit at the close: those not ingested (R57). -/
def unmetRows (u : State) (row : Nat) : Bool := decide (rowState u row ≠ .ingested)

theorem settleLight_eq (u : State) : settleLight u = { u with
    plane := (commitRows (unmetRows u) u).plane, trails := trailsRotated u, log.openRecord := (trailsClosed u).log.openRecord } := by
  have closes : closeAllTrails (commitRows (unmetRows u) u)
      = besides (commitRows (unmetRows u) u).plane u.cal.cursor u.link.rowMap { trailsClosed u with trails.openTrails := [] } := by
    have same := closeTrails_besides (commitRows (unmetRows u) u).plane u.cal.cursor u.link.rowMap u.trails.openTrails
      { u with trails.openTrails := [] }
    rw [closeTrails_openTrails [] u.trails.openTrails u] at same
    exact same
  have form := (detected_trailsClosed u).form
  show rotateVetoLists (closeAllTrails (commitRows (unmetRows u) u)) = _
  rw [closes]
  unfold trailsRotated
  generalize trailsClosed u = v at form ⊢
  have put := congrArg (fun w : State => rotateVetoLists (besides (commitRows (unmetRows u) u).plane u.cal.cursor u.link.rowMap
    { w with trails.openTrails := [] })) form
  exact put

/-- The state behind the first three stages: u is what ingest left of it, and r the record that the fourth stage closes. -/
structure SettledTo (s u : State) (q r : SubframeRecord) (plane : Memory Pixel) (trails : TrailDetector) : Prop where
  form : settled s = { u with plane := plane, trails := trails, log.openRecord := some r }
  record : RecordDetected q r
  dark : q.kind = .dark → r = q ∧ plane = u.plane ∧ trails = u.trails
  light : q.kind = .light → plane = (commitRows (unmetRows u) u).plane ∧ trails = trailsRotated u ∧ (trailsClosed u).log.openRecord = some r

theorem openIsLight_eq {s : State} {q : SubframeRecord} (open_ : s.log.openRecord = some q) : openIsLight s = decide (q.kind = .light) := by
  unfold openIsLight
  rw [open_]

/-- What ingest leaves before the close. -/
def ingestDone (s : State) : State := finishIngest s.fifo.entries.length s

theorem ingestFinished_ingestDone (s : State) : IngestFinished s (ingestDone s) := ingestFinished_finishIngest _ s (entriesLeft_le s)

theorem openIsLight_ingestDone (s : State) : openIsLight (ingestDone s) = openIsLight s :=
  openIsLight_of_ingestRest (ingestRest_of_ingestFinished (ingestFinished_ingestDone s))

theorem exists_settledTo {s : State} {q : SubframeRecord} (open_ : (ingestDone s).log.openRecord = some q) :
    ∃ r plane trails, SettledTo s (ingestDone s) q r plane trails := by
  have light := (openIsLight_ingestDone s).symm.trans (openIsLight_eq open_)
  cases kind : q.kind with
  | dark =>
    rw [kind] at light
    have stays : settled s = ingestDone s := if_neg (by rw [light]; exact Bool.false_ne_true)
    refine ⟨q, (ingestDone s).plane, (ingestDone s).trails, ?_, rfl, fun _ => ⟨rfl, rfl, rfl⟩, fun other => absurd (kind.symm.trans other) nofun⟩
    rw [stays, ← open_]
  | light =>
    rw [kind] at light
    have goes : settled s = settleLight (ingestDone s) := if_pos light
    obtain ⟨r, found, record⟩ := (detected_trailsClosed (ingestDone s)).record q open_
    refine ⟨r, _, _, ?_, record, fun other => absurd (kind.symm.trans other) nofun, fun _ => ⟨rfl, rfl, found⟩⟩
    rw [goes, settleLight_eq, found]

/-! #### The record closed (R13, R24, R57, R75) -/

/-- The samples lost, the rows still UNSEEN among them (R57). -/
def lostAtClose (u : State) (q : SubframeRecord) : Nat := q.lost + unseenRows u * u.settings.width

def outcomeAtClose (abandoned : Bool) (lost : Nat) (q : SubframeRecord) : SubframeOutcome :=
  if abandoned then .abandoned else if q.frameCounter = none then .missing else if lost = 0 then .integrated else .partialFrame

/-- The record closed (R24). -/
def closedAs (u : State) (r : SubframeRecord) : SubframeRecord :=
  { r with lost := lostAtClose u r, outcome := some (outcomeAtClose u.seq.closeAbandoned (lostAtClose u r) r) }

/-- The dark summaries with the record, where it is a contributing dark (R75). -/
def calWith (q' : SubframeRecord) (c : Calibration) : Calibration := if contributes q' then addDarkSummary q' c else c

/-- The record in the log, not yet reported. -/
def entered (q' : SubframeRecord) (plane : Memory Pixel) (trails : TrailDetector) (u : State) : State :=
  { u with
    plane := plane, trails := trails, cal := calWith q' u.cal, log := { closed := u.log.closed ++ [q'], openRecord := none },
    seq.closeAbandoned := false }

/-- The fourth stage done. -/
def closedState (q' : SubframeRecord) (plane : Memory Pixel) (trails : TrailDetector) (u : State) : State :=
  queueReport .subframeClosed q'.bytes (entered q' plane trails u)

theorem closeRecord_settled {s u : State} {q r : SubframeRecord} {plane : Memory Pixel} {trails : TrailDetector}
    (h : SettledTo s u q r plane trails) : closeRecord (settled s) = closedState (closedAs u r) plane trails u := by
  rw [h.form, closeRecord_of_some (r := r) rfl]
  rfl

theorem contributes_closedAs {u : State} {q : SubframeRecord} (kind : q.kind = .dark) :
    contributes (closedAs u q) = true ↔ u.seq.closeAbandoned = false ∧ q.frameCounter ≠ none := by
  unfold contributes closedAs outcomeAtClose
  dsimp only
  rw [kind]
  cases u.seq.closeAbandoned with
  | true => simp
  | false =>
    cases q.frameCounter with
    | none => simp
    | some k =>
      by_cases none_ : lostAtClose u q = 0
      · simp [none_]
      · simp [none_]

theorem calWith_dark {u : State} {q : SubframeRecord} (kind : q.kind = .dark) (c : Calibration) : calWith (closedAs u q) c =
    if u.seq.closeAbandoned = false ∧ q.frameCounter ≠ none then { c with
      darkCount := c.darkCount + 1, darkExposure := c.darkExposure + q.exposedUs.getD 0,
      darkTempTotal := c.darkTempTotal + q.temperature.getD 0,
      darkTempCount := c.darkTempCount + if q.temperature = none then 0 else 1 } else c := by
  have summary : addDarkSummary (closedAs u q) c = { c with
      darkCount := c.darkCount + 1, darkExposure := c.darkExposure + q.exposedUs.getD 0,
      darkTempTotal := c.darkTempTotal + q.temperature.getD 0,
      darkTempCount := c.darkTempCount + if q.temperature = none then 0 else 1 } := by
    unfold addDarkSummary
    rw [show (closedAs u q).temperature = q.temperature from rfl, show (closedAs u q).exposedUs = q.exposedUs from rfl]
    cases q.temperature <;> rfl
  rw [← summary]
  exact if_congr (contributes_closedAs kind) rfl rfl

theorem calWith_light {u : State} {q : SubframeRecord} (kind : q.kind = .light) (c : Calibration) : calWith (closedAs u q) c = c := by
  refine if_neg ?_
  unfold contributes closedAs
  dsimp only
  rw [kind]
  exact Bool.false_ne_true

/-! #### The commit-only visits and the closed record, in the obligation's words -/

theorem read_commitRows_beyond {u : State} (memory : MemoryWf u) (visit : Nat → Bool) (some_ : 0 < u.settings.width) {a : Nat}
    (beyond : u.settings.width * u.settings.height ≤ a) : Memory.read Pixel.cleared (commitRows visit u).plane a = readPixel u a := by
  have outside : ¬ a / u.settings.width < u.settings.height := by
    rw [Nat.div_lt_iff_lt_mul some_, Nat.mul_comm]
    exact Nat.not_lt.mpr beyond
  rw [read_commitRows memory]
  unfold commitRecord
  rw [decide_eq_false outside, Bool.false_and]
  exact if_neg Bool.false_ne_true

theorem commitOnly_peak {set : TakeSettings} {det : TrailDetector} {row column : Nat} {px : Pixel}
    (mode : (pixelPolicy set row column).mode ∈ [Mode.peak, .peakFade]) : commitOnly set det row column px = { px with
      pending := none, peak := settledPeak (isVetoed set det (pixelPolicy set row column) row column) px } :=
  (if_pos ((isPeak_iff _).mpr mode)).trans (commitPending_eq _ px)

theorem commitOnly_other {set : TakeSettings} {det : TrailDetector} {row column : Nat} {px : Pixel}
    (mode : (pixelPolicy set row column).mode ∉ [Mode.peak, .peakFade]) : commitOnly set det row column px = px :=
  if_neg (mt (isPeak_iff _).mp mode)

section

variable {s u : State} {q r : SubframeRecord} {plane : Memory Pixel} {trails : TrailDetector} (h : SettledTo s u q r plane trails)

include h

/-- The plane of a light subframe at its close (R57, R102). -/
theorem SettledTo.committed (kind : q.kind = .light) (memory : MemoryWf u) {row column : Nat} (inside : row < u.settings.height)
    (within : column < u.settings.width) :
    let policy := pixelPolicy u.settings row column
    let px := readPixel u (pixelAt u row column)
    (rowState u row ∈ [RowState.lost, .unseen] → policy.mode ∈ [Mode.peak, .peakFade] →
      Memory.read Pixel.cleared plane (pixelAt u row column) = { px with
        pending := none, peak := settledPeak (isVetoed u.settings u.trails policy row column) px })
    ∧ (rowState u row = .ingested ∨ policy.mode ∉ [Mode.peak, .peakFade] → Memory.read Pixel.cleared plane (pixelAt u row column) = px) := by
  intro policy px
  obtain ⟨same, -⟩ := h.light kind
  rw [same, read_commitRows_at memory _ inside within]
  refine ⟨fun unmet mode => ?_, fun stays => ?_⟩
  · have visited : unmetRows u row = true := decide_eq_true (by rintro done; rw [done] at unmet; exact absurd unmet (by decide))
    rw [if_pos visited]
    exact commitOnly_peak mode
  · rcases stays with done | mode
    · exact if_neg (by unfold unmetRows; rw [done]; decide)
    · rw [commitOnly_other mode]
      exact ite_self _

theorem SettledTo.beyond (kind : q.kind = .light) (memory : MemoryWf u) (some_ : 0 < u.settings.width) {a : Nat}
    (beyond : u.settings.width * u.settings.height ≤ a) : Memory.read Pixel.cleared plane a = readPixel u a := by
  obtain ⟨same, -⟩ := h.light kind
  rw [same]
  exact read_commitRows_beyond memory _ some_ beyond

/-- What the close leaves of the counts of the record. -/
theorem SettledTo.closed : let q' := closedAs u r
    q'.lost = lostAtClose u q ∧ q'.outcome = some (outcomeAtClose u.seq.closeAbandoned (lostAtClose u q) q)
      ∧ q'.index = q.index ∧ q'.kind = q.kind ∧ q'.admitted = q.admitted ∧ q'.rejected = q.rejected
      ∧ q'.saturated = q.saturated ∧ q'.excluded = q.excluded ∧ q'.exposedUs = q.exposedUs
      ∧ (q.kind = .dark → q' = { q with lost := lostAtClose u q, outcome := q'.outcome }) := by
  have m := fun {α : Type} (f : SubframeRecord → α) => congrArg f h.record
  have lost : lostAtClose u r = lostAtClose u q := congrArg (· + _) (m (·.lost))
  have outcome : outcomeAtClose u.seq.closeAbandoned (lostAtClose u r) r = outcomeAtClose u.seq.closeAbandoned (lostAtClose u q) q := by
    unfold outcomeAtClose
    rw [lost, m (·.frameCounter)]
  refine ⟨lost, congrArg some outcome, m (·.index), m (·.kind), m (·.admitted), m (·.rejected), m (·.saturated), m (·.excluded),
    m (·.exposedUs), fun dark => ?_⟩
  obtain ⟨rfl, -⟩ := h.dark dark
  rfl

/-- What the close leaves of the dark summaries (R75). -/
theorem SettledTo.cal (c : Calibration) : (q.kind = .light → calWith (closedAs u r) c = c)
    ∧ (q.kind = .dark → calWith (closedAs u r) c = if u.seq.closeAbandoned = false ∧ q.frameCounter ≠ none then { c with
        darkCount := c.darkCount + 1, darkExposure := c.darkExposure + q.exposedUs.getD 0,
        darkTempTotal := c.darkTempTotal + q.temperature.getD 0,
        darkTempCount := c.darkTempCount + if q.temperature = none then 0 else 1 } else c) := by
  have m := fun {α : Type} (f : SubframeRecord → α) => congrArg f h.record
  have kind : r.kind = q.kind := m (·.kind)
  refine ⟨fun light => calWith_light (kind.trans light) c, fun dark => ?_⟩
  obtain ⟨rfl, -⟩ := h.dark dark
  exact calWith_dark dark c

end

/-! #### What follows the close leaves what it has closed (R14, R15) -/

/-- What neither the next phase nor the next take state moves: the plane, the detector, the dark summaries, the closed records, the
lock of Link Out, the plan position and the auto-preview counter. -/
def closePart (x : State) : Memory Pixel × TrailDetector × Calibration × List SubframeRecord × Bool × Nat × Nat × Nat :=
  (x.plane, x.trails, x.cal, x.log.closed, x.out.locked, x.seq.step, x.seq.count, x.seq.autoCount)

/-- The event goes on from x to y: what the close has left stays, and reports come behind those queued. -/
structure GoesOn (x y : State) : Prop where
  part : closePart y = closePart x
  tells : Tells x y
  shuts : Shuts x y

theorem GoesOn.refl (x : State) : GoesOn x x := ⟨rfl, .refl x, id⟩

theorem GoesOn.trans {x y z : State} (h : GoesOn x y) (h' : GoesOn y z) : GoesOn x z :=
  ⟨h'.part.trans h.part, h.tells.trans h'.tells, h.shuts.trans h'.shuts⟩

/-- The last part first, from which the state between is read. -/
theorem GoesOn.after {x y z : State} (h : GoesOn y z) (part : closePart y = closePart x) (queued : queuedTraffic y = queuedTraffic x)
    (shuts : Shuts x y) : GoesOn x z := GoesOn.trans ⟨part, .of_eq queued, shuts⟩ h

theorem closePart_of_phaseRest {x y : State} (rest : phaseRest y = phaseRest x) (step : y.seq.step = x.seq.step)
    (count : y.seq.count = x.seq.count) (auto : y.seq.autoCount = x.seq.autoCount) : closePart y = closePart x := by
  have e := fun {α : Type} (f : State → α) => congrArg (a₁ := phaseRest y) (a₂ := phaseRest x) f rest
  unfold closePart
  rw [show y.plane = x.plane from e (·.plane), show y.trails = x.trails from e (·.trails), show y.cal = x.cal from e (·.cal),
    show y.log.closed = x.log.closed from e (·.log.closed), show y.out.locked = x.out.locked from e (·.out.locked), step, count, auto]

/-- A report and the close do not meet. -/
theorem closePart_queueReport (k : ReportKind) (p : List Byte) (x : State) : closePart (queueReport k p x) = closePart x := by
  rw [queueReport_frame]
  rfl

/-- The take state, its levels and its phase (R1, R16). -/
theorem enterTake_seq (t : TakeState) (p : Phase) (x : State) : (enterTake t p x).seq = { x.seq with
    takeState := t, phase := p, shutter := x.seq.shutter && t.keepsLevels, stepLevel := x.seq.stepLevel && t.keepsLevels } := by
  obtain ⟨lines, form, -⟩ := enterTake_form t p x
  rw [form, queueReport_frame]

/-- A change of take state leaves the bridge, the plane's holder and the render. -/
theorem enterTake_blocks (t : TakeState) (p : Phase) (x : State) : (enterTake t p x).bridge = x.bridge
    ∧ (enterTake t p x).render = x.render ∧ (enterTake t p x).arb = x.arb ∧ (enterTake t p x).out.locked = x.out.locked := by
  obtain ⟨lines, form, -⟩ := enterTake_form t p x
  rw [form, queueReport_frame]
  exact ⟨rfl, rfl, rfl, rfl⟩

theorem goesOn_enterTake (t : TakeState) (p : Phase) (x : State) : GoesOn x (enterTake t p x) := by
  have e := fun {α : Type} (f : Sequencer → α) => congrArg f (enterTake_seq t p x)
  exact ⟨closePart_of_phaseRest (phaseRest_enterTake t p x) (e (·.step)) (e (·.count)) (e (·.autoCount)), tells_enterTake t p x,
    shuts_enterTake t p x⟩

theorem goesOn_enterComplete (x : State) : GoesOn x (enterComplete x) :=
  (goesOn_enterTake .complete .none { x with seq.pausePending := false, seq.stopPending := false, seq.finishPending := false }).after rfl rfl id

theorem stepLevels_enterWait (x : State) : stepLevels (enterWait x) = stepLevels x := by
  unfold enterWait
  split
  · rfl
  · split
    · rfl
    · split
      · exact stepLevels_enterExpose { x with seq.phase := .wait, seq.gapTimer := none }
      · rfl

theorem goesOn_enterWait (x : State) : GoesOn x (enterWait x) := by
  have e := fun {α : Type} (f : Sequencer → α) => congrArg f (stepLevels_enterWait x)
  exact ⟨closePart_of_phaseRest (phaseRest_enterWait x) (e (·.step)) (e (·.count)) (e (·.autoCount)), tells_enterWait x, shuts_enterWait x⟩

theorem goesOn_enterStepStart (settles : Bool) (x : State) : GoesOn x (enterStepStart settles x) := by
  cases step : currentStep x with
  | none =>
    unfold enterStepStart
    rw [step]
    exact .refl x
  | some st =>
    have begun : stepLevels (enterStepStart settles x) = stepLevels (stepBegun st settles x) := by
      rw [enterStepStart_eq step, stepLevels_tryEndStepStart, stepLevels_of_busRest (busRest_arbitrate _),
        ← handScripts_eq, stepLevels_of_busRest (busRest_handScripts _ _)]
    have e := fun {α : Type} (f : Sequencer → α) => congrArg f begun
    exact ⟨closePart_of_phaseRest (phaseRest_enterStepStart settles x) (e (·.step)) (e (·.count)) (e (·.autoCount)),
      tells_enterStepStart settles x, shuts_enterStepStart settles x⟩

theorem goesOn_takeRender (kind : RenderKind) (x : State) : GoesOn x (takeRender kind x) := by
  refine ⟨?_, .of_eq ?_, shuts_takeRender kind x⟩
  · unfold takeRender
    dsimp only
    split <;> rfl
  · unfold takeRender
    dsimp only
    split <;> rfl

theorem goesOn_queueReport (k : ReportKind) (p : List Byte) (x : State) : GoesOn x (queueReport k p x) :=
  ⟨closePart_queueReport k p x, tells_queueReport k p x, shuts_queueReport k p x⟩

theorem goesOn_requestFinal (x : State) : GoesOn x (requestFinal x) := by
  unfold requestFinal
  split
  · exact goesOn_takeRender .final x
  · have told : GoesOn x (reportAbandoned .final .linkDown (openRender .final x)) :=
      (goesOn_queueReport .renderAbandoned _ (openRender .final x)).after rfl rfl id
    exact told.trans (goesOn_enterTake _ _ _)

theorem goesOn_enterFinishing (x : State) : GoesOn x (enterFinishing x) := by
  unfold enterFinishing
  dsimp only
  split
  · exact (goesOn_enterTake _ _ x).trans (goesOn_requestFinal _)
  · exact (goesOn_enterTake _ _ x).trans (GoesOn.after (.refl _) rfl rfl id)

/-! #### FINISHING at the close (R20) -/

theorem bridge_enterFinishing (x : State) : (enterFinishing x).bridge = x.bridge := by
  have asks : ∀ u : State, (requestFinal u).bridge = u.bridge := by
    intro u
    unfold requestFinal
    split
    · unfold takeRender
      dsimp only
      split <;> rfl
    · obtain ⟨bridge, -⟩ := enterTake_blocks .complete .none (reportAbandoned .final .linkDown (openRender .final u))
      rw [bridge, reportAbandoned, queueReport_frame]
      rfl
  obtain ⟨bridge, -⟩ := enterTake_blocks .finishing .none x
  unfold enterFinishing
  dsimp only
  split
  · rw [asks, bridge]
  · exact bridge

/-- FINISHING, or COMPLETE again where the FINAL request finds Link Out unlocked (R20, R134, R144). -/
theorem takeState_enterFinishing (x : State) : (enterFinishing x).seq.takeState
    = if x.out.locked = true ∨ x.render.state ≠ .idle then .finishing else .complete := by
  obtain ⟨-, render, -, locked⟩ := enterTake_blocks .finishing .none x
  have entered : (enterTake .finishing .none x).seq.takeState = .finishing := by rw [enterTake_seq]
  unfold enterFinishing
  dsimp only
  by_cases idle : x.render.state = .idle
  · rw [if_pos (by rw [render]; exact idle)]
    unfold requestFinal
    by_cases lock : x.out.locked = true
    · rw [if_pos (by rw [locked]; exact lock), if_pos (.inl lock)]
      unfold takeRender
      dsimp only
      split <;> exact entered
    · rw [if_neg (by rw [locked]; exact lock), if_neg (by rintro (h | h); exacts [lock h, h idle]), enterTake_seq]
  · rw [if_neg (by rw [render]; exact idle), if_pos (.inr idle)]
    exact entered

/-- A render that waits or runs is not touched by FINISHING: the FINAL request is held (R133). -/
theorem enterFinishing_held {x : State} (taken : x.render.state ≠ .idle) :
    enterFinishing x = { enterTake .finishing .none x with seq.finalHeld := true } := by
  obtain ⟨-, render, -⟩ := enterTake_blocks .finishing .none x
  exact if_neg (by rw [render]; exact taken)

/-! #### The plane released and the plan position advanced (R13, R14, R108) -/

/-- Nobody claims the plane. -/
def noClaim : Arbiter := { holder := .none, waiting := .none }

theorem releasePlane_noClaim {x : State} (waits : x.arb.waiting = .none) : releasePlane x = { x with arb := noClaim } := by
  rw [releasePlane_unclaimed waits]
  unfold noClaim
  rw [← waits]

/-- The plane released behind a subframe: to a render that waits (R108, R135, R140). -/
def planeReleased (c : State) : State := if c.render.state = .pending then grantRender c else { c with arb := noClaim }

/-- A render that waits given up, and the plane free (R13, R142, R143). -/
def claimDropped (c : State) : State :=
  if c.render.state = .pending then
    { reportAbandoned c.render.kind .abort { c with render.state := .idle, arb.waiting := .none } with arb := noClaim }
  else { c with arb := noClaim }

section

variable {c : State} (closing : (standOf c).Closing)

include closing

/-- The plane behind a subframe is claimed by a render that waits, or by nobody. -/
theorem claim_cases : c.render.state = .idle ∧ c.arb.waiting = .none ∨ c.render.state = .pending ∧ c.arb.waiting = .render := by
  rcases closing.claim with ⟨state, waits⟩ | ⟨state, waits, -⟩
  · exact .inl ⟨state, waits⟩
  · exact .inr ⟨state, waits⟩

theorem settleRelease_goes (abort : c.seq.abortPending = false) : settleRelease c = planeReleased c := by
  have goes : settleRelease c = releasePlane c :=
    congrArg releasePlane (if_neg (by rw [abort]; exact Bool.false_ne_true))
  rw [goes]
  unfold planeReleased
  rcases claim_cases closing with ⟨state, waits⟩ | ⟨state, waits⟩
  · rw [if_neg (by rw [state]; exact nofun), releasePlane_noClaim waits]
  · rw [if_pos state]
    unfold releasePlane
    rw [waits]

theorem settleRelease_aborts (abort : c.seq.abortPending = true) : settleRelease c = claimDropped c := by
  have unheld : c.seq.finalHeld = false := closing.finalHeld
  have goes : settleRelease c = releasePlane (abandonRender .abort c) := congrArg releasePlane (if_pos abort)
  rw [goes]
  unfold claimDropped
  rcases claim_cases closing with ⟨state, waits⟩ | ⟨state, waits⟩
  · have stays : abandonRender .abort c = c := by
      unfold abandonRender
      rw [state]
    rw [if_neg (by rw [state]; exact nofun), stays, releasePlane_noClaim waits]
  · have told : (reportAbandoned c.render.kind .abort { c with render.state := .idle, arb.waiting := .none }).seq.finalHeld = false
        ∧ (reportAbandoned c.render.kind .abort { c with render.state := .idle, arb.waiting := .none }).arb.waiting = .none := by
      rw [reportAbandoned, queueReport_frame]
      exact ⟨unheld, rfl⟩
    have drops : abandonRender .abort c = reportAbandoned c.render.kind .abort { c with render.state := .idle, arb.waiting := .none } := by
      unfold abandonRender
      rw [state]
      dsimp only
      unfold afterAbandonment
      rw [if_neg (by simp)]
      exact handHeldFinal_unheld told.1
    rw [if_pos state, drops, releasePlane_noClaim told.2]

end

/-- The plan position set. -/
def planAt (step count : Nat) (x : State) : State := { x with seq := { x.seq with step := step, count := count } }

/-- The step is done with this subframe. -/
def stepDone (st : PlanStep) (count : Nat) : Bool := decide (st.count ≤ count + 1)

def stepAfter (st : PlanStep) (q : Sequencer) : Nat := if stepDone st q.count then q.step + 1 else q.step

def countAfter (st : PlanStep) (q : Sequencer) : Nat := if stepDone st q.count then 0 else q.count + 1

theorem countAfter_zero (st : PlanStep) (q : Sequencer) : decide (countAfter st q = 0) = stepDone st q.count := by
  unfold countAfter
  cases stepDone st q.count <;> simp

theorem advancePlan_eq {x : State} {st : PlanStep} (here : x.tables.plan.seen[x.seq.step]? = some st) :
    advancePlan x = planAt (stepAfter st x.seq) (countAfter st x.seq) x := by
  have step : currentStep x = some st := here
  unfold advancePlan stepAfter countAfter stepDone
  rw [step]
  dsimp only
  by_cases done : st.count ≤ x.seq.count + 1
  · rw [if_pos done, decide_eq_true done, if_pos rfl, if_pos rfl]
    rfl
  · rw [if_neg done, decide_eq_false done, if_neg Bool.false_ne_true, if_neg Bool.false_ne_true]
    rfl

/-! #### What the release leaves -/

theorem planeReleased_kept (c : State) : (planeReleased c).seq = c.seq ∧ (planeReleased c).tables = c.tables
    ∧ (planeReleased c).bridge = c.bridge ∧ (planeReleased c).log = c.log ∧ (planeReleased c).now = c.now
    ∧ (planeReleased c).params = c.params := by
  unfold planeReleased
  split <;> exact ⟨rfl, rfl, rfl, rfl, rfl, rfl⟩

theorem claimDropped_kept (c : State) : (claimDropped c).seq = c.seq ∧ (claimDropped c).tables = c.tables
    ∧ (claimDropped c).bridge = c.bridge ∧ (c.render.state ≠ .active → (claimDropped c).render.state = .idle) := by
  unfold claimDropped
  by_cases waits : c.render.state = .pending
  · rw [if_pos waits, reportAbandoned, queueReport_frame]
    exact ⟨rfl, rfl, rfl, fun _ => rfl⟩
  · rw [if_neg waits]
    refine ⟨rfl, rfl, rfl, fun other => ?_⟩
    cases state : c.render.state with
    | idle => rfl
    | active => exact absurd state other
    | pending => exact absurd state waits

theorem goesOn_planeReleased (c : State) : GoesOn c (planeReleased c) := by
  unfold planeReleased
  split
  · exact GoesOn.after (.refl _) rfl rfl id
  · exact GoesOn.after (.refl _) rfl rfl id

theorem goesOn_claimDropped (c : State) : GoesOn c (claimDropped c) := by
  unfold claimDropped
  split
  · have told : GoesOn c (reportAbandoned c.render.kind .abort { c with render.state := .idle, arb.waiting := .none }) :=
      (goesOn_queueReport .renderAbandoned _ { c with render.state := .idle, arb.waiting := .none }).after rfl rfl id
    exact told.trans (GoesOn.after (.refl _) rfl rfl id)
  · exact GoesOn.after (.refl _) rfl rfl id

/-- The run does not meet the plane. -/
theorem runAlike_planeReleased (step count : Nat) (c : State) :
    RunAlike { c with seq.step := step } (planAt step count (planeReleased c)) := by
  unfold planeReleased
  split
  · exact .of_eq rfl
  · exact .of_eq rfl

/-! #### The first case of R14 that applies -/

/-- The plan position behind this subframe. -/
def advanced (st : PlanStep) (w : State) : State := planAt (stepAfter st w.seq) (countAfter st w.seq) w

/-- The plan is over, or a stop is pending (R14). -/
def PlanOver (st : PlanStep) (w : State) : Prop := w.tables.plan.seen.length ≤ stepAfter st w.seq ∨ w.seq.stopPending = true

theorem enterComplete_seq (x : State) : (enterComplete x).seq.takeState = .complete ∧ (enterComplete x).seq.stopPending = false
    ∧ (enterComplete x).seq.pausePending = false ∧ (enterComplete x).bridge = x.bridge ∧ (enterComplete x).render = x.render
    ∧ (enterComplete x).out.locked = x.out.locked := by
  obtain ⟨bridge, render, -, locked⟩ := enterTake_blocks .complete .none { x with
    seq.pausePending := false, seq.stopPending := false, seq.finishPending := false }
  unfold enterComplete
  rw [enterTake_seq]
  exact ⟨rfl, rfl, rfl, bridge, render, locked⟩

section

variable {w : State} {st : PlanStep} (here : w.tables.plan.seen[w.seq.step]? = some st)

include here

theorem decideNext_aborts (abort : w.seq.abortPending = true) : decideNext w = enterAborted (advanced st w) := by
  unfold decideNext
  dsimp only
  rw [advancePlan_eq here]
  exact if_pos abort

section

variable (runs : w.seq.abortPending = false)

include runs

theorem decideNext_unaborted : decideNext w =
    if decide (w.tables.plan.seen.length ≤ stepAfter st w.seq) || w.seq.stopPending then
      if w.seq.finishPending then enterFinishing (enterComplete (advanced st w)) else enterComplete (advanced st w)
    else if w.seq.pausePending then
      enterTake .paused .none { advanced st w with seq.pausePending := false, seq.notStarted := stepDone st w.seq.count }
    else if stepDone st w.seq.count then enterStepStart (shutterChanges (advanced st w)) (advanced st w)
    else enterWait (advanced st w) := by
  have moved : decide ((advanced st w).seq.count = 0) = stepDone st w.seq.count := countAfter_zero st w.seq
  unfold decideNext
  dsimp only
  rw [advancePlan_eq here]
  refine (if_neg (by rw [runs]; exact Bool.false_ne_true)).trans ?_
  rw [show planAt (stepAfter st w.seq) (countAfter st w.seq) w = advanced st w from rfl, moved]
  rfl

theorem decideNext_over (ended : PlanOver st w) : decideNext w
    = if w.seq.finishPending then enterFinishing (enterComplete (advanced st w)) else enterComplete (advanced st w) := by
  rw [decideNext_unaborted here runs, if_pos]
  rw [Bool.or_eq_true, decide_eq_true_iff]
  exact ended

theorem decideNext_stands (ended : ¬ PlanOver st w) : decideNext w =
    if w.seq.pausePending then
      enterTake .paused .none { advanced st w with seq.pausePending := false, seq.notStarted := stepDone st w.seq.count }
    else if stepDone st w.seq.count then enterStepStart (shutterChanges (advanced st w)) (advanced st w)
    else enterWait (advanced st w) := by
  rw [decideNext_unaborted here runs, if_neg]
  rw [Bool.or_eq_true, decide_eq_true_iff]
  exact ended

/-- No case but the FINAL render of an idle Render Unit meets the render and the plane. -/
theorem phaseRest_decideNext (held : w.seq.finishPending = true → w.render.state ≠ .idle) : phaseRest (decideNext w) = phaseRest w := by
  have same : phaseRest (advanced st w) = phaseRest w := rfl
  rw [decideNext_unaborted here runs]
  split
  · split
    · rename_i finish
      have taken : (enterComplete (advanced st w)).render.state ≠ .idle := by
        obtain ⟨-, render, -⟩ := enterTake_blocks .complete .none { advanced st w with
          seq.pausePending := false, seq.stopPending := false, seq.finishPending := false }
        rw [show (enterComplete (advanced st w)).render = (advanced st w).render from render]
        exact held finish
      rw [enterFinishing_held taken]
      exact (phaseRest_enterTake _ _ _).trans (phaseRest_enterComplete _)
    · exact phaseRest_enterComplete _
  · split
    · exact phaseRest_enterTake _ _ _
    · split
      · exact phaseRest_enterStepStart _ _
      · exact phaseRest_enterWait _

end

/-- The event goes on from the plan position, whichever case applies. -/
theorem goesOn_decideNext (dropped : w.seq.abortPending = true → w.render.state = .idle) : GoesOn (advanced st w) (decideNext w) := by
  cases abort : w.seq.abortPending with
  | true =>
    have idle : (advanced st w).render.state = .idle := dropped abort
    rw [decideNext_aborts here abort, enterAborted_eq (.inl idle), show renderDropped (advanced st w) = advanced st w from if_pos idle]
    exact (goesOn_enterTake .aborted .none { advanced st w with seq := abortCleared (advanced st w).seq }).after rfl rfl id
  | false =>
    rw [decideNext_unaborted here abort]
    split
    · split
      · exact (goesOn_enterComplete _).trans (goesOn_enterFinishing _)
      · exact goesOn_enterComplete _
    · split
      · exact (goesOn_enterTake .paused .none { advanced st w with seq.pausePending := false, seq.notStarted := stepDone st w.seq.count }).after
          rfl rfl id
      · split
        · exact goesOn_enterStepStart _ _
        · exact goesOn_enterWait _

/-- ABORTED (R21). -/
theorem next_aborted (abort : w.seq.abortPending = true) (idle : w.render.state = .idle) :
    (decideNext w).seq.takeState = .aborted ∧ (decideNext w).seq.planeValid = false ∧ (decideNext w).render.state = .idle
      ∧ (decideNext w).bridge = w.bridge := by
  obtain ⟨bridge, render, -⟩ := enterTake_blocks .aborted .none { advanced st w with seq := abortCleared (advanced st w).seq }
  rw [decideNext_aborts here abort, enterAborted_eq (s := advanced st w) (.inl idle),
    show renderDropped (advanced st w) = advanced st w from if_pos idle, enterTake_seq, render, bridge]
  exact ⟨rfl, rfl, idle, rfl⟩

section

variable (runs : w.seq.abortPending = false)

include runs

/-- COMPLETE, or on to FINISHING (R14, R20). -/
theorem next_complete (ended : PlanOver st w) (finish : w.seq.finishPending = false) :
    (decideNext w).seq.takeState = .complete ∧ (decideNext w).seq.stopPending = false ∧ (decideNext w).seq.pausePending = false := by
  obtain ⟨take, stop, pause, -⟩ := enterComplete_seq (advanced st w)
  rw [decideNext_over here runs ended, if_neg (by rw [finish]; exact Bool.false_ne_true)]
  exact ⟨take, stop, pause⟩

theorem next_finishing (ended : PlanOver st w) (finish : w.seq.finishPending = true) :
    (decideNext w).seq.takeState = if w.out.locked = true ∨ w.render.state ≠ .idle then .finishing else .complete := by
  obtain ⟨-, -, -, -, render, locked⟩ := enterComplete_seq (advanced st w)
  rw [decideNext_over here runs ended, if_pos finish, takeState_enterFinishing, render, locked]
  rfl

theorem next_paused (ended : ¬ PlanOver st w) (pause : w.seq.pausePending = true) :
    (decideNext w).seq.takeState = .paused ∧ (decideNext w).seq.pausePending = false
      ∧ (decideNext w).seq.notStarted = stepDone st w.seq.count := by
  rw [decideNext_stands here runs ended, if_pos pause, enterTake_seq]
  exact ⟨rfl, rfl, rfl⟩

/-- Where the take leaves RUNNING the bridge is as it was. -/
theorem next_bridge (stops : PlanOver st w ∨ w.seq.pausePending = true) : (decideNext w).bridge = w.bridge := by
  obtain ⟨-, -, -, bridge, -⟩ := enterComplete_seq (advanced st w)
  by_cases ended : PlanOver st w
  · rw [decideNext_over here runs ended]
    split
    · rw [bridge_enterFinishing, bridge]
      rfl
    · rw [bridge]
      rfl
  · rw [decideNext_stands here runs ended, if_pos (stops.resolve_left ended)]
    obtain ⟨paused, -⟩ := enterTake_blocks .paused .none { advanced st w with
      seq.pausePending := false, seq.notStarted := stepDone st w.seq.count }
    exact paused

theorem next_moves (ended : ¬ PlanOver st w) (pause : w.seq.pausePending = false) (moved : stepDone st w.seq.count = true) :
    decideNext w = enterStepStart (shutterChanges (advanced st w)) (advanced st w) := by
  rw [decideNext_stands here runs ended, if_neg (by rw [pause]; exact Bool.false_ne_true), if_pos moved]

theorem next_waits (ended : ¬ PlanOver st w) (pause : w.seq.pausePending = false) (moved : stepDone st w.seq.count = false) :
    decideNext w = enterWait (advanced st w) := by
  rw [decideNext_stands here runs ended, if_neg (by rw [pause]; exact Bool.false_ne_true), if_neg (by rw [moved]; exact Bool.false_ne_true)]

end

end

/-! #### The auto-preview beside what comes next (R15, R133, R134) -/

/-- y is x but for the auto-preview counter and a render that may have begun. -/
structure Previewed (x y : State) : Prop where
  seq : y.seq = { x.seq with autoCount := y.seq.autoCount }
  log : y.log = x.log
  tables : y.tables = x.tables
  blocks : y.plane = x.plane ∧ y.trails = x.trails ∧ y.cal = x.cal
  bus : SameBus x y

theorem SameBus.refl (x : State) : SameBus x x := ⟨rfl, rfl, rfl, rfl⟩

theorem Previewed.refl (x : State) : Previewed x x := ⟨rfl, rfl, rfl, ⟨rfl, rfl, rfl⟩, .refl x⟩

theorem previewed_counted (n : Nat) (x : State) : Previewed x { x with seq.autoCount := n } :=
  ⟨rfl, rfl, rfl, ⟨rfl, rfl, rfl⟩, ⟨rfl, rfl, rfl, rfl⟩⟩

theorem previewed_autoPreview (x : State) : Previewed x (autoPreview x) := by
  unfold autoPreview
  split
  · exact .refl x
  · split
    · dsimp only
      split
      · unfold takeRender
        dsimp only
        split <;> exact ⟨rfl, rfl, rfl, ⟨rfl, rfl, rfl⟩, ⟨rfl, rfl, rfl, rfl⟩⟩
      · exact previewed_counted 0 x
    · exact previewed_counted _ x

theorem Previewed.endEvent {x y : State} (h : Previewed x y) : Previewed (endEvent x) (endEvent y) := by
  obtain ⟨seq, log, -, -, -, -, cal, plane, -, trails, bridge, tables, -⟩ := endEvent_fields x
  obtain ⟨seq', log', -, -, -, -, cal', plane', -, trails', bridge', tables', -⟩ := endEvent_fields y
  obtain ⟨planes, trailss, cals⟩ := h.blocks
  refine ⟨?_, log'.trans (h.log.trans log.symm), tables'.trans (h.tables.trans tables.symm),
    ⟨plane'.trans (planes.trans plane.symm), trails'.trans (trailss.trans trails.symm), cal'.trans (cals.trans cal.symm)⟩,
    ⟨bridge'.trans (h.bus.bridge.trans bridge.symm), ?_, ?_, ?_⟩⟩
  · rw [seq', seq]
    exact h.seq
  · rw [seq', seq]
    exact h.bus.indices
  · rw [queuedTraffic_endEvent, queuedTraffic_endEvent]
    exact h.bus.queued
  · rw [port_endEvent, port_endEvent]
    exact h.bus.lost

section

variable {x y : State} (h : Previewed x y)

include h

theorem Previewed.reads : y.seq.phase = x.seq.phase ∧ y.seq.gapTimer = x.seq.gapTimer ∧ y.seq.exposureTimer = x.seq.exposureTimer
    ∧ y.seq.exposureNumber = x.seq.exposureNumber ∧ y.seq.exposeStart = x.seq.exposeStart ∧ y.seq.pollAt = x.seq.pollAt
    ∧ y.seq.pollDone = x.seq.pollDone ∧ y.seq.takeState = x.seq.takeState ∧ y.seq.step = x.seq.step := by
  have e := fun {α : Type} (f : Sequencer → α) => congrArg f h.seq
  exact ⟨e (·.phase), e (·.gapTimer), e (·.exposureTimer), e (·.exposureNumber), e (·.exposeStart), e (·.pollAt), e (·.pollDone),
    e (·.takeState), e (·.step)⟩

theorem Previewed.signalReady : signalReady y = signalReady x := by
  obtain ⟨phase, -, -, -, -, -, -, take, step⟩ := h.reads
  unfold Machine.signalReady awaitsTrigger currentStep
  rw [phase, take, step, h.tables]

theorem Previewed.waiting {st : PlanStep} {now number step : Nat} (w : Waiting st now number step x) : Waiting st now number step y := by
  obtain ⟨phase, gap, exposure, -⟩ := h.reads
  unfold Waiting at w ⊢
  rw [phase, gap, exposure, h.signalReady, h.log]
  exact w

theorem Previewed.sameRun {w : State} (same : SameRun w x) : SameRun w y := by
  obtain ⟨phase, gap, exposure, number, start, poll, done, -⟩ := h.reads
  exact ⟨same.bus.trans h.bus, phase.trans same.phase, gap.trans same.gapTimer, exposure.trans same.exposureTimer,
    ⟨number.trans same.exposure.1, start.trans same.exposure.2⟩, ⟨poll.trans same.poll.1, done.trans same.poll.2⟩⟩

theorem Previewed.stepScripted {st : PlanStep} {w v : State} (scripted : StepScripted st w v x) : StepScripted st w v y := by
  obtain ⟨phase, -⟩ := h.reads
  refine ⟨scripted.served, fun runs => phase.trans (scripted.stands runs), fun stands => ?_, fun gone => ?_, ?_⟩
  · exact (scripted.same (phase ▸ stands)).trans h.bus
  · obtain ⟨v', entered, same⟩ := scripted.leaves (phase ▸ gone)
    exact ⟨v', entered, h.sameRun same⟩
  · rw [h.bus.queued]
    exact scripted.queued

end

/-! #### The counter and the PREVIEW -/

theorem autoPreview_off {x : State} (off : x.params.autoPreview = 0) : autoPreview x = x := if_pos off

section

variable {x : State} (on : x.params.autoPreview ≠ 0)

include on

theorem autoPreview_counts (before : x.seq.autoCount + 1 ≠ x.params.autoPreview) :
    autoPreview x = { x with seq.autoCount := x.seq.autoCount + 1 } := (if_neg on).trans (if_neg before)

theorem autoPreview_mark (mark : x.seq.autoCount + 1 = x.params.autoPreview) : autoPreview x
    = if x.render.state = .idle ∧ x.out.locked = true then takeRender .preview { x with seq.autoCount := 0 }
      else { x with seq.autoCount := 0 } := (if_neg on).trans (if_pos mark)

theorem autoCount_mark (mark : x.seq.autoCount + 1 = x.params.autoPreview) : (autoPreview x).seq.autoCount = 0 := by
  rw [autoPreview_mark on mark]
  split
  · unfold takeRender
    dsimp only
    split <;> rfl
  · rfl

/-- The PREVIEW of an idle Render Unit on a free plane (R106, R134). -/
theorem render_mark (mark : x.seq.autoCount + 1 = x.params.autoPreview) (idle : x.render.state = .idle) (locked : x.out.locked = true)
    (free : x.arb.holder = .none) :
    (autoPreview x).render.state = .active ∧ (autoPreview x).render.kind = .preview ∧ (autoPreview x).render.frameId = x.render.nextId
      ∧ (autoPreview x).render.nextId = (x.render.nextId + 1) % 65536 := by
  rw [autoPreview_mark on mark, if_pos ⟨idle, locked⟩]
  unfold takeRender
  dsimp only
  rw [if_pos (by exact free)]
  exact ⟨rfl, rfl, rfl, rfl⟩

end

/-- A render in hand keeps the auto-preview from the render and the plane (R133). -/
theorem autoPreview_taken {x : State} (taken : x.render.state ≠ .idle) :
    (autoPreview x).render = x.render ∧ (autoPreview x).arb = x.arb ∧ renderTraffic (autoPreview x) = renderTraffic x := by
  unfold autoPreview
  split
  · exact ⟨rfl, rfl, rfl⟩
  · split
    · dsimp only
      rw [if_neg fun both => taken both.1]
      exact ⟨rfl, rfl, rfl⟩
    · exact ⟨rfl, rfl, rfl⟩

/-! #### The take goes on: within a step at WAIT, or at the next step's STEP_START (R7 to R9, R14) -/

theorem shutterChanges_eq {a : State} {st : PlanStep} (here : a.tables.plan.seen[a.seq.step]? = some st) :
    shutterChanges a = decide (a.seq.shutter ≠ decide (st.kind = .dark)) := by
  have step : currentStep a = some st := here
  unfold shutterChanges
  rw [step]

section

variable {a w : State} {st : PlanStep} (here : a.tables.plan.seen[a.seq.step]? = some st) (take : a.seq.takeState = .running) (alike : RunAlike w a)

include here take alike

/-- WAIT entered at the close, seen from any state in which the run stands the same. -/
theorem waits_outcome : let t := endEvent (enterWait a)
    Waiting st a.now (a.log.closed.length + 1) a.seq.step t ∧ t.seq.takeState = .running
      ∧ (∃ v, WaitEntered st w v ∧ SameRun v t)
      ∧ t.seq.shutter = a.seq.shutter ∧ t.seq.stepLevel = a.seq.stepLevel ∧ t.seq.notStarted = a.seq.notStarted := by
  intro t
  have ends : Ends (enterWait a) t := ends_endEvent _
  obtain ⟨waiting, running⟩ := waiting_of_enterWait here take ends
  have there : w.tables.plan.seen[w.seq.step]? = some st := by
    obtain ⟨-, tables, -, -, step, -⟩ := alike.reads
    rw [← tables, ← step]
    exact here
  obtain ⟨seq, -⟩ := fields_of_stillPart ends.still
  have e := fun {α : Type} (f : Sequencer → α) => congrArg f (stepLevels_enterWait a)
  refine ⟨waiting, running, ⟨_, waitEntered_enterWait there, alike.enterWait.sameRun ends⟩, ?_, ?_, ?_⟩
  · rw [seq]; exact e (·.shutter)
  · rw [seq]; exact e (·.stepLevel)
  · rw [seq]; exact e (·.notStarted)

/-- STEP_START entered at the close, likewise. -/
theorem moves_outcome : let t := endEvent (enterStepStart (shutterChanges a) a)
    let settles := a.seq.shutter ≠ decide (st.kind = .dark) ∧ a.params.shutterSettle ≠ 0
    t.seq.takeState = .running ∧ t.seq.shutter = decide (st.kind = .dark) ∧ t.seq.stepLevel = st.stepLevel ∧ t.seq.notStarted = false
      ∧ (t.seq.phase = .stepStart → t.seq.settleTimer = if settles then some (a.now + a.params.shutterSettle * 1000) else none)
      ∧ (settles → t.seq.phase = .stepStart)
      ∧ ∃ v, StepScripted st w v t
        ∧ (¬ settles → scriptsEnded v = true → Waiting st a.now (a.log.closed.length + 1) a.seq.step t) := by
  intro t settles
  have ends : Ends (enterStepStart (shutterChanges a) a) t := ends_endEvent _
  have begun : RunAlike { w with seq.phase := .stepStart } (stepBegun st (shutterChanges a) a) := by
    exact congrArg (a₁ := runView a) (a₂ := runView w) (fun x : State => { x with seq.phase := .stepStart }) alike
  obtain ⟨levels, held, waits⟩ := stepBegun_outcome here take ends
  have timer := settleTimer_begun (s := a) (st := st) (changes := a.seq.shutter ≠ decide (st.kind = .dark)) (shutterChanges_eq here)
  have e := fun {α : Type} (f : Sequencer → α) => congrArg f levels
  refine ⟨(e (·.takeState)).trans take, e (·.shutter), e (·.stepLevel), e (·.notStarted), fun _ => (e (·.settleTimer)).trans timer,
    fun settling => held (by rw [timer, if_pos settling]; exact nofun), _, stepScripted_of here begun ends, fun unsettled ended => ?_⟩
  exact waits _ (begun.scriptsPresented _).arbitrate (by rw [timer, if_neg unsettled]) ended

end

/-! #### The state that the close hands to what comes next -/

/-- The plane has been released behind the record q', which closes the subframe of s: w is what that leaves. -/
structure Released (s u : State) (q' : SubframeRecord) (plane : Memory Pixel) (trails : TrailDetector) (w : State) : Prop where
  seq : w.seq = { s.seq with closeAbandoned := false }
  tables : w.tables = s.tables
  log : w.log = { closed := s.log.closed ++ [q'], openRecord := none }
  rest : w.bridge = s.bridge ∧ w.out.locked = s.out.locked
  blocks : w.plane = plane ∧ w.trails = trails ∧ w.cal = calWith q' u.cal
  grown : GoesOn (closedState q' plane trails u) w
  dropped : s.seq.abortPending = true → w.render.state = .idle
  runs : s.seq.abortPending = false → w.now = s.now ∧ w.params = s.params
    ∧ ∀ step count, RunAlike (queueReport .subframeClosed q'.bytes { u with seq.step := step }) (planAt step count w)
  idle : s.seq.abortPending = false → s.render.state = .idle → w.render = s.render ∧ w.arb = noClaim
  granted : s.seq.abortPending = false → s.render.state = .pending →
    w.render = { s.render with
      state := .active, lights := lightsClosed w, row := 0, rowHanded := false, startBegun := false, linesSent := 0 }
    ∧ w.arb = { holder := .render, waiting := .none }
    ∧ renderTraffic w = renderTraffic s ++ [.frameStart s.render.kind s.render.frameId s.settings.width s.settings.height]

section

variable {s u : State} {q' : SubframeRecord} {plane : Memory Pixel} {trails : TrailDetector}

/-- The report of the close and the plan position do not meet. -/
theorem closedState_frame : closedState q' plane trails u = { entered q' plane trails u with
    out.queue := (closedState q' plane trails u).out.queue,
    port.lostReports := (closedState q' plane trails u).port.lostReports } := queueReport_frame _ _ _

theorem runAlike_closedState (step : Nat) : RunAlike (queueReport .subframeClosed q'.bytes { u with seq.step := step })
    { closedState q' plane trails u with seq.step := step } := by
  have masked : RunAlike { u with seq.step := step } { entered q' plane trails u with seq.step := step } := .of_eq rfl
  have told := masked.queueReport .subframeClosed q'.bytes
  have apart := queueReport_seq .subframeClosed q'.bytes (entered q' plane trails u) { (entered q' plane trails u).seq with step := step }
  have seq : (closedState q' plane trails u).seq = (entered q' plane trails u).seq := (queueReport_fields _ _ _).1
  have same : ({ closedState q' plane trails u with seq.step := step } : State)
      = { closedState q' plane trails u with seq := { (entered q' plane trails u).seq with step := step } } := by
    rw [← seq]
  rw [same]
  exact (congrArg (RunAlike (queueReport .subframeClosed q'.bytes { u with seq.step := step })) apart).mp told

end

/-- The close of the record leaves the plane claimed as it was. -/
theorem closing_closeRecord {s : State} (h : Coherent s) (phase : s.seq.phase = .settle) : (standOf (closeRecord (settled s))).Closing := by
  have rest := ingestRest_settled s
  have good : Coherent (settled s) := by
    rw [← coherent_ingestRest, rest, coherent_ingestRest]
    exact h
  obtain ⟨seq, -⟩ := fields_of_ingestRest rest
  rw [stand_closeRecord]
  exact good.stand.closing ((congrArg Sequencer.phase seq).trans phase)

theorem released_of {s : State} {q r : SubframeRecord} {plane : Memory Pixel} {trails : TrailDetector} (h : Coherent s)
    (phase : s.seq.phase = .settle) (stages : SettledTo s (ingestDone s) q r plane trails) :
    Released s (ingestDone s) (closedAs (ingestDone s) r) plane trails (settleRelease (closeRecord (settled s))) := by
  have closing := closing_closeRecord h phase
  have rest := ingestRest_of_ingestFinished (ingestFinished_ingestDone s)
  rw [closeRecord_settled stages] at closing ⊢
  generalize closedAs (ingestDone s) r = q' at closing ⊢
  generalize ingestDone s = u at closing rest ⊢
  obtain ⟨seq, -, bridge, out, -, render, tables, params, settings, -, -, now, -, -, closed, -⟩ := fields_of_ingestRest rest
  have frame := closedState_frame (q' := q') (plane := plane) (trails := trails) (u := u)
  have along := runAlike_closedState (q' := q') (plane := plane) (trails := trails) (u := u)
  generalize held : closedState q' plane trails u = c at closing frame along ⊢
  have e := fun {α : Type} (f : State → α) => congrArg f frame
  have o := fun {α : Type} (f : OutputScheduler → α) => congrArg f out
  have cseq : c.seq = { s.seq with closeAbandoned := false } := (e (·.seq)).trans (by rw [← seq]; rfl)
  have clog : c.log = { closed := s.log.closed ++ [q'], openRecord := none } := (e (·.log)).trans (by rw [← closed]; rfl)
  have ctables : c.tables = s.tables := (e (·.tables)).trans tables
  have cbridge : c.bridge = s.bridge := (e (·.bridge)).trans bridge
  have clocked : c.out.locked = s.out.locked := (e (·.out.locked)).trans (o (·.locked))
  have crender : c.render = s.render := (e (·.render)).trans render
  have blocks : c.plane = plane ∧ c.trails = trails ∧ c.cal = calWith q' u.cal := ⟨e (·.plane), e (·.trails), e (·.cal)⟩
  cases abort : s.seq.abortPending with
  | true =>
    rw [settleRelease_aborts closing (by rw [cseq]; exact abort)]
    obtain ⟨seq', tables', bridge', idle⟩ := claimDropped_kept c
    have grown := goesOn_claimDropped c
    have part := grown.part
    have log : (claimDropped c).log = c.log := by
      unfold claimDropped
      split
      · rw [reportAbandoned, queueReport_frame]
      · rfl
    have inactive : c.render.state ≠ .active := by
      rcases claim_cases closing with ⟨state, -⟩ | ⟨state, -⟩ <;> rw [state] <;> exact nofun
    have p := fun {α : Type} (f : _ → α) => congrArg f part
    exact {
      seq := seq'.trans cseq, tables := tables'.trans ctables, log := log.trans clog,
      rest := ⟨bridge'.trans cbridge, (p (·.2.2.2.2.1)).trans clocked⟩,
      blocks := ⟨(p (·.1)).trans blocks.1, (p (·.2.1)).trans blocks.2.1, (p (·.2.2.1)).trans blocks.2.2⟩,
      grown := held ▸ grown, dropped := fun _ => idle inactive,
      runs := fun other => absurd (abort.symm.trans other) nofun, idle := fun other => absurd (abort.symm.trans other) nofun,
      granted := fun other => absurd (abort.symm.trans other) nofun }
  | false =>
    rw [settleRelease_goes closing (by rw [cseq]; exact abort)]
    obtain ⟨seq', tables', bridge', log', now', params'⟩ := planeReleased_kept c
    have grown := goesOn_planeReleased c
    have p := fun {α : Type} (f : _ → α) => congrArg f grown.part
    have csettings : c.settings = s.settings := (e (·.settings)).trans settings
    have traffic : renderTraffic c = renderTraffic s := by
      unfold renderTraffic begunPackets
      rw [show c.out.sent = s.out.sent from (e (·.out.sent)).trans (o (·.sent)),
        show c.out.inProgress = s.out.inProgress from (e (·.out.inProgress)).trans (o (·.inProgress)),
        show c.out.renderQueue = s.out.renderQueue from (e (·.out.renderQueue)).trans (o (·.renderQueue))]
    exact {
      seq := seq'.trans cseq, tables := tables'.trans ctables, log := log'.trans clog,
      rest := ⟨bridge'.trans cbridge, (p (·.2.2.2.2.1)).trans clocked⟩,
      blocks := ⟨(p (·.1)).trans blocks.1, (p (·.2.1)).trans blocks.2.1, (p (·.2.2.1)).trans blocks.2.2⟩,
      grown := held ▸ grown, dropped := fun other => absurd (abort.symm.trans other) nofun,
      runs := fun _ => ⟨now'.trans ((e (·.now)).trans now), params'.trans ((e (·.params)).trans params),
        fun step count => (along step).trans (runAlike_planeReleased step count c)⟩,
      idle := fun _ idle => by
        have goes : planeReleased c = { c with arb := noClaim } := if_neg (by rw [crender, idle]; exact nofun)
        rw [goes]
        exact ⟨crender, rfl⟩
      granted := fun _ waits => by
        have goes : planeReleased c = grantRender c := if_pos (by rw [crender]; exact waits)
        rw [goes, ← traffic, ← crender, ← csettings]
        exact ⟨rfl, rfl, (List.append_assoc _ _ _).symm⟩ }

/-! #### What the close leaves for what comes next, and what comes of it -/

section

variable {s u w : State} {q' : SubframeRecord} {plane : Memory Pixel} {trails : TrailDetector} {st : PlanStep}
  (h : Released s u q' plane trails w) (here : s.tables.plan.seen[s.seq.step]? = some st)

include h

theorem Released.positions : stepAfter st w.seq = stepAfter st s.seq ∧ countAfter st w.seq = countAfter st s.seq
    ∧ stepDone st w.seq.count = stepDone st s.seq.count := by
  rw [h.seq]
  exact ⟨rfl, rfl, rfl⟩

theorem Released.flags : w.seq.abortPending = s.seq.abortPending ∧ w.seq.finishPending = s.seq.finishPending
    ∧ w.seq.stopPending = s.seq.stopPending ∧ w.seq.pausePending = s.seq.pausePending := by
  rw [h.seq]
  exact ⟨rfl, rfl, rfl, rfl⟩

theorem Released.planOver : PlanOver st w ↔ s.tables.plan.seen.length ≤ stepAfter st s.seq ∨ s.seq.stopPending = true := by
  obtain ⟨step, -⟩ := h.positions (st := st)
  obtain ⟨-, -, stop, -⟩ := h.flags
  unfold PlanOver
  rw [step, stop, h.tables]

/-- The state that the next phase begins from. -/
theorem Released.begins (runs : s.seq.abortPending = false) (take : s.seq.takeState = .running) {next : PlanStep} (there : s.tables.plan.seen[stepAfter st s.seq]? = some next) :
    (advanced st w).tables.plan.seen[(advanced st w).seq.step]? = some next ∧ (advanced st w).seq.takeState = .running
      ∧ (advanced st w).now = s.now ∧ (advanced st w).params = s.params ∧ (advanced st w).seq.step = stepAfter st s.seq
      ∧ (advanced st w).log.closed.length + 1 = s.log.closed.length + 2
      ∧ (advanced st w).seq.shutter = s.seq.shutter ∧ (advanced st w).seq.stepLevel = s.seq.stepLevel
      ∧ (advanced st w).seq.notStarted = s.seq.notStarted
      ∧ RunAlike (queueReport .subframeClosed q'.bytes { u with seq.step := stepAfter st s.seq }) (advanced st w) := by
  obtain ⟨step, -⟩ := h.positions (st := st)
  obtain ⟨now, params, alike⟩ := h.runs runs
  have place : (advanced st w).seq.step = stepAfter st s.seq := step
  have seq : ∀ {α : Type} (f : Sequencer → α), f w.seq = f { s.seq with closeAbandoned := false } := fun f => congrArg f h.seq
  refine ⟨?_, (seq (·.takeState)).trans take, now, params, place, ?_, seq (·.shutter), seq (·.stepLevel), seq (·.notStarted), ?_⟩
  · rw [place, show (advanced st w).tables = s.tables from h.tables]
    exact there
  · show w.log.closed.length + 1 = _
    rw [h.log]
    exact congrArg (· + 1) List.length_append
  · have same := alike (stepAfter st w.seq) (countAfter st w.seq)
    rw [step] at same
    unfold advanced
    rw [step]
    exact same

include here

theorem Released.stepHere : w.tables.plan.seen[w.seq.step]? = some st := by
  rw [h.tables, h.seq]
  exact here

theorem Released.goesOn : GoesOn (advanced st w) (decideNext w) :=
  goesOn_decideNext (h.stepHere here) fun abort => h.dropped (h.flags.1.symm.trans abort)

/-- What the next case of R14 leaves of the close. -/
theorem Released.kept : let y := decideNext w
    y.plane = plane ∧ y.trails = trails ∧ y.cal = calWith q' u.cal ∧ y.log.closed = s.log.closed ++ [q'] ∧ y.out.locked = s.out.locked
      ∧ y.seq.step = stepAfter st s.seq ∧ y.seq.count = countAfter st s.seq ∧ y.seq.autoCount = s.seq.autoCount := by
  intro y
  have p := fun {α : Type} (f : _ → α) => congrArg f (h.goesOn here).part
  obtain ⟨step, count, -⟩ := h.positions (st := st)
  obtain ⟨planes, trailss, cals⟩ := h.blocks
  obtain ⟨-, locked⟩ := h.rest
  have auto : w.seq.autoCount = s.seq.autoCount := by rw [h.seq]
  have closed : w.log.closed = s.log.closed ++ [q'] := by rw [h.log]
  exact ⟨(p (·.1)).trans planes, (p (·.2.1)).trans trailss, (p (·.2.2.1)).trans cals, (p (·.2.2.2.1)).trans closed,
    (p (·.2.2.2.2.1)).trans locked, (p (·.2.2.2.2.2.1)).trans step, (p (·.2.2.2.2.2.2.1)).trans count,
    (p (·.2.2.2.2.2.2.2)).trans auto⟩

theorem Released.tells : Tells (closedState q' plane trails u) (decideNext w) :=
  h.grown.tells.trans ((h.goesOn here).tells.after rfl)

theorem Released.shuts : Shuts (closedState q' plane trails u) (decideNext w) :=
  h.grown.shuts.trans (h.goesOn here).shuts

/-- The bridge stays as it was where the take leaves RUNNING. -/
theorem Released.bridge (stops : s.seq.abortPending = true ∨ (s.tables.plan.seen.length ≤ stepAfter st s.seq ∨ s.seq.stopPending = true)
    ∨ s.seq.pausePending = true) : (decideNext w).bridge = s.bridge := by
  obtain ⟨abort, -, -, pause⟩ := h.flags
  rw [← h.rest.1]
  cases aborts : s.seq.abortPending with
  | true =>
    obtain ⟨-, -, -, bridge⟩ := next_aborted (h.stepHere here) (abort.trans aborts) (h.dropped aborts)
    exact bridge
  | false =>
    refine next_bridge (h.stepHere here) (abort.trans aborts) ?_
    rcases stops with yes | ended | paused
    · exact absurd (aborts.symm.trans yes) nofun
    · exact .inl (h.planOver.mpr ended)
    · exact .inr (pause.trans paused)

section

variable (runs : s.seq.abortPending = false)

include runs

/-- A render that waited holds the plane behind the close; one that was idle is idle, the plane free, unless the take finishes. -/
theorem Released.render (held : s.seq.finishPending = true → w.render.state ≠ .idle) :
    (decideNext w).render = w.render ∧ (decideNext w).arb = w.arb ∧ renderTraffic (decideNext w) = renderTraffic w := by
  obtain ⟨abort, finish, -⟩ := h.flags
  have rest := phaseRest_decideNext (h.stepHere here) (abort.trans runs) fun yes => held (finish.symm.trans yes)
  have e := fun {α : Type} (f : State → α) => congrArg (a₁ := phaseRest (decideNext w)) (a₂ := phaseRest w) f rest
  exact ⟨e (·.render), e (·.arb), e Machine.renderTraffic⟩

variable (take : s.seq.takeState = .running) (ended : ¬ (s.tables.plan.seen.length ≤ stepAfter st s.seq ∨ s.seq.stopPending = true))
  (pause : s.seq.pausePending = false)

include take ended pause

theorem Released.running : (decideNext w).seq.takeState = .running := by
  obtain ⟨abort, -, -, paused⟩ := h.flags
  have was : (advanced st w).seq.takeState = .running := by
    show w.seq.takeState = .running
    rw [h.seq]
    exact take
  have stands := mt h.planOver.mp ended
  cases moved : stepDone st w.seq.count with
  | true =>
    rw [next_moves (h.stepHere here) (abort.trans runs) stands (paused.trans pause) moved, takeState_enterStepStart]
    exact was
  | false =>
    rw [next_waits (h.stepHere here) (abort.trans runs) stands (paused.trans pause) moved, takeState_enterWait]
    exact was

end

end

/-! #### SETTLE_END -/

section

variable {s u w t : State} {q' : SubframeRecord} {plane : Memory Pixel} {trails : TrailDetector} {st next : PlanStep}
  (h : Released s u q' plane trails w) (here : s.tables.plan.seen[s.seq.step]? = some st)
  (behind : Previewed (endEvent (decideNext w)) t) (runs : s.seq.abortPending = false) (take : s.seq.takeState = .running)
  (ended : ¬ (s.tables.plan.seen.length ≤ stepAfter st s.seq ∨ s.seq.stopPending = true)) (pause : s.seq.pausePending = false)
  (there : s.tables.plan.seen[stepAfter st s.seq]? = some next)

include h here behind runs take ended pause there

/-- The take goes on within its step (R8, R9, R14). -/
theorem Released.waits (same : u.seq = s.seq) (moved : stepDone st s.seq.count = false) :
    Waiting next s.now (s.log.closed.length + 2) (stepAfter st s.seq) t
      ∧ (∃ v, WaitEntered next (queueReport .subframeClosed q'.bytes u) v ∧ SameRun v t)
      ∧ t.seq.shutter = s.seq.shutter ∧ t.seq.stepLevel = s.seq.stepLevel ∧ t.seq.notStarted = s.seq.notStarted := by
  obtain ⟨abort, -, -, paused⟩ := h.flags
  obtain ⟨-, -, done⟩ := h.positions (st := st)
  obtain ⟨at_, running, now, -, step, number, shutter, level, started, alike⟩ := h.begins runs take there
  have place : ({ u with seq.step := stepAfter st s.seq } : State) = u := by
    unfold stepAfter
    rw [moved, if_neg Bool.false_ne_true, ← same]
  rw [place] at alike
  have goes := next_waits (h.stepHere here) (abort.trans runs) (mt h.planOver.mp ended) (paused.trans pause) (done.trans moved)
  obtain ⟨waiting, -, ⟨v, entered, run⟩, shut, lev, sta⟩ := waits_outcome at_ running alike
  rw [← goes] at waiting run shut lev sta
  rw [now, number, step] at waiting
  have e := fun {α : Type} (f : Sequencer → α) => congrArg f behind.seq
  exact ⟨behind.waiting waiting, ⟨v, entered, behind.sameRun run⟩, (e (·.shutter)).trans (shut.trans shutter),
    (e (·.stepLevel)).trans (lev.trans level), (e (·.notStarted)).trans (sta.trans started)⟩

/-- The take goes on at a new step (R7, R14). -/
theorem Released.moves (moved : stepDone st s.seq.count = true) :
    let settles := s.seq.shutter ≠ decide (next.kind = .dark) ∧ s.params.shutterSettle ≠ 0
    t.seq.shutter = decide (next.kind = .dark) ∧ t.seq.stepLevel = next.stepLevel ∧ t.seq.notStarted = false
      ∧ (t.seq.phase = .stepStart → t.seq.settleTimer = if settles then some (s.now + s.params.shutterSettle * 1000) else none)
      ∧ (settles → t.seq.phase = .stepStart)
      ∧ ∃ v, StepScripted next (queueReport .subframeClosed q'.bytes { u with seq.step := stepAfter st s.seq }) v t
        ∧ (¬ settles → scriptsEnded v = true → Waiting next s.now (s.log.closed.length + 2) (stepAfter st s.seq) t) := by
  obtain ⟨abort, -, -, paused⟩ := h.flags
  obtain ⟨-, -, done⟩ := h.positions (st := st)
  obtain ⟨at_, running, now, params, step, number, shutter, -, -, alike⟩ := h.begins runs take there
  have goes := next_moves (h.stepHere here) (abort.trans runs) (mt h.planOver.mp ended) (paused.trans pause) (done.trans moved)
  obtain ⟨-, shut, level, started, timer, held, v, scripted, waits⟩ := moves_outcome at_ running alike
  rw [← goes] at shut level started timer held scripted waits
  rw [shutter, params] at timer held waits
  rw [now] at timer waits
  rw [number, step] at waits
  have e := fun {α : Type} (f : Sequencer → α) => congrArg f behind.seq
  obtain ⟨phase, -⟩ := behind.reads
  exact ⟨(e (·.shutter)).trans shut, (e (·.stepLevel)).trans level, (e (·.notStarted)).trans started,
    fun stands => (e (·.settleTimer)).trans (timer (phase ▸ stands)), fun settling => phase.trans (held settling), v,
    behind.stepScripted scripted, fun unsettled over_ => behind.waiting (waits unsettled over_)⟩

end

/-- The report of the close stands first, or shuts the queue (R13, R166). -/
theorem closedState_told {s u : State} {q' : SubframeRecord} {plane : Memory Pixel} {trails : TrailDetector} (out : u.out = s.out)
    (port : u.port = s.port) (params : u.params = s.params) (enabled : s.params.reportMask.getLsbD 0 = true) :
    (s.out.locked = true ∧ s.out.queue.length < 16 →
      queuedTraffic (closedState q' plane trails u) = queuedTraffic s ++ [.report .subframeClosed s.port.lostReports q'.bytes])
    ∧ (¬ (s.out.locked = true ∧ s.out.queue.length < 16) → Shut (closedState q' plane trails u)) := by
  have traffic : queuedTraffic (entered q' plane trails u) = queuedTraffic s := by
    unfold queuedTraffic begunPackets
    rw [show (entered q' plane trails u).out = s.out from out]
  have asked : reportEnabled (entered q' plane trails u) .subframeClosed = true := by
    rw [← params] at enabled
    exact enabled
  rw [← out, ← port]
  refine ⟨fun room => ?_, fun full => shut_queueReport asked full⟩
  rw [← traffic]
  exact queuedTraffic_reported asked room.1 room.2

/-- What stands of the render at the end of the event. -/
theorem render_endEvent (z : State) : ({ (endEvent z).render with startBegun := false } : RenderUnit) = { z.render with startBegun := false } :=
  congrArg State.render (stillPart_endEvent z)

/-- The close asks for the auto-preview: a light subframe of a take that does not abort or finish here (R15). -/
def asksPreview (s : State) (q : SubframeRecord) : Bool := decide (q.kind = .light) && !s.seq.abortPending && !s.seq.finishPending

theorem asksPreview_iff {s : State} {q : SubframeRecord} : asksPreview s q = true ↔
    q.kind = .light ∧ s.seq.abortPending = false ∧ s.seq.finishPending = false := by
  unfold asksPreview
  rw [Bool.and_eq_true, Bool.and_eq_true, decide_eq_true_iff, Bool.not_eq_true', Bool.not_eq_true', and_assoc]

/-- The event's work behind the release of the plane (R14, R15). -/
def settledOn (counts : Bool) (w : State) : State := if counts then autoPreview (decideNext w) else decideNext w

theorem previewed_settledOn (counts : Bool) (w : State) : Previewed (endEvent (decideNext w)) (endEvent (settledOn counts w)) := by
  unfold settledOn
  split
  · exact (previewed_autoPreview _).endEvent
  · exact .refl _

/-- An aborted take asks for no PREVIEW. -/
theorem render_unasked {s w : State} {q : SubframeRecord} (aborts : s.seq.abortPending = true) :
    (endEvent (settledOn (asksPreview s q) w)).render.state = (decideNext w).render.state := by
  obtain ⟨-, -, -, -, -, -, -, -, -, -, -, -, -, -, -, -, -, -, state, -⟩ := endEvent_fields (settledOn (asksPreview s q) w)
  have unasked : settledOn (asksPreview s q) w = decideNext w :=
    if_neg fun asks => absurd (aborts.symm.trans (asksPreview_iff.mp asks).2.1) nofun
  rw [state, unasked]

theorem exec_settleEnd {s : State} {q : SubframeRecord} (phase : s.seq.phase = .settle) (holder : s.arb.holder = .ingest)
    (open_ : (ingestDone s).log.openRecord = some q) :
    exec .settleEnd s = .next (endEvent (settledOn (asksPreview s q) (settleRelease (closeRecord (settled s))))) := by
  have light : openIsLight s = decide (q.kind = .light) := (openIsLight_ingestDone s).symm.trans (openIsLight_eq open_)
  have goes : exec .settleEnd s = .next (endEvent (settleClose s)) := if_pos ⟨phase, holder⟩
  rw [goes, settleClose_eq, light]
  rfl

section

variable {s u w : State} {q' : SubframeRecord} {plane : Memory Pixel} {trails : TrailDetector} {st : PlanStep} {q : SubframeRecord}
  (h : Released s u q' plane trails w) (here : s.tables.plan.seen[s.seq.step]? = some st) (counts : Bool)

include h here

/-- The render that waited is ACTIVE behind the close (R108, R135, R140). -/
theorem Released.grantedRender (runs : s.seq.abortPending = false) (waits : s.render.state = .pending) : let t := endEvent (settledOn counts w)
    t.render.state = .active ∧ t.arb = { holder := .render, waiting := .none }
      ∧ t.render.kind = s.render.kind ∧ t.render.frameId = s.render.frameId ∧ t.render.nextId = s.render.nextId
      ∧ t.render.pedestal = s.render.pedestal ∧ t.render.lights = t.log.closed.countP (fun c => decide (c.kind = .light))
      ∧ t.render.row = 0 ∧ t.render.rowHanded = false ∧ t.render.linesSent = 0
      ∧ renderTraffic t = renderTraffic s ++ [.frameStart s.render.kind s.render.frameId s.settings.width s.settings.height] := by
  intro t
  obtain ⟨render, arb, traffic⟩ := h.granted runs waits
  have active : w.render.state ≠ .idle := by rw [render]; exact nofun
  obtain ⟨yrender, yarb, ytraffic⟩ := h.render here runs fun _ => active
  have kept : (settledOn counts w).render = w.render ∧ (settledOn counts w).arb = w.arb ∧ renderTraffic (settledOn counts w) = renderTraffic w := by
    unfold settledOn
    split
    · obtain ⟨r, a, f⟩ := autoPreview_taken (x := decideNext w) (by rw [yrender]; exact active)
      exact ⟨r.trans yrender, a.trans yarb, f.trans ytraffic⟩
    · exact ⟨yrender, yarb, ytraffic⟩
  obtain ⟨-, log, -, -, -, -, -, -, arb', -⟩ := endEvent_fields (settledOn counts w)
  have lights : lightsClosed w = t.log.closed.countP fun c => decide (c.kind = .light) := by
    have behind := previewed_settledOn counts w
    obtain ⟨-, log', -⟩ := endEvent_fields (decideNext w)
    obtain ⟨-, -, -, closed, -⟩ := h.kept here
    unfold lightsClosed
    rw [show t.log = (decideNext w).log from behind.log.trans log', closed, h.log]
  have still := (render_endEvent (settledOn counts w)).trans (congrArg (fun r : RenderUnit => { r with startBegun := false })
    (kept.1.trans render))
  have e := fun {α : Type} (f : RenderUnit → α) => congrArg f still
  exact ⟨e (·.state), arb'.trans (kept.2.1.trans arb), e (·.kind), e (·.frameId), e (·.nextId), e (·.pedestal), (e (·.lights)).trans lights,
    e (·.row), e (·.rowHanded), e (·.linesSent), (renderTraffic_endEvent _).trans (kept.2.2.trans traffic)⟩

/-- The auto-preview counter and its PREVIEW (R15, R133, R134). -/
theorem Released.preview : let t := endEvent (settledOn (asksPreview s q) w)
    let counted := q.kind = .light ∧ s.seq.abortPending = false ∧ s.seq.finishPending = false ∧ s.params.autoPreview ≠ 0
    (¬ counted → t.seq.autoCount = s.seq.autoCount)
      ∧ (counted → s.seq.autoCount + 1 ≠ s.params.autoPreview → t.seq.autoCount = s.seq.autoCount + 1)
      ∧ (counted → s.seq.autoCount + 1 = s.params.autoPreview → t.seq.autoCount = 0
        ∧ (s.out.locked = true → s.render.state = .idle → t.render.state = .active ∧ t.render.kind = .preview
          ∧ t.render.frameId = s.render.nextId ∧ t.render.nextId = (s.render.nextId + 1) % 65536)) := by
  intro t counted
  obtain ⟨-, -, -, -, locked, -, -, auto⟩ := h.kept here
  have seq : t.seq = (settledOn (asksPreview s q) w).seq := (endEvent_fields _).1
  have params : s.seq.abortPending = false → (decideNext w).params = s.params := fun runs =>
    (congrArg (a₁ := workRest (decideNext w)) (a₂ := workRest w) (·.params) (workRest_decideNext w)).trans (h.runs runs).2.1
  have asked : counted → settledOn (asksPreview s q) w = autoPreview (decideNext w) := fun ⟨light, runs, stays, _⟩ =>
    if_pos (asksPreview_iff.mpr ⟨light, runs, stays⟩)
  refine ⟨fun uncounted => ?_, fun yes before => ?_, fun yes mark => ?_⟩
  · rw [seq, ← auto]
    unfold settledOn
    split
    · rename_i asks
      obtain ⟨light, runs, stays⟩ := asksPreview_iff.mp asks
      rw [autoPreview_off]
      rw [params runs]
      by_contra on
      exact uncounted ⟨light, runs, stays, on⟩
    · rfl
  · have goes := asked yes
    obtain ⟨-, runs, -, on⟩ := yes
    rw [seq, goes, autoPreview_counts (by rw [params runs]; exact on) (by rw [params runs, auto]; exact before), auto]
  · have goes := asked yes
    obtain ⟨-, runs, stays, on⟩ := yes
    have on' : (decideNext w).params.autoPreview ≠ 0 := by rw [params runs]; exact on
    have mark' : (decideNext w).seq.autoCount + 1 = (decideNext w).params.autoPreview := by rw [params runs, auto]; exact mark
    refine ⟨by rw [seq, goes, autoCount_mark on' mark'], fun lock idle => ?_⟩
    obtain ⟨render, arb⟩ := h.idle runs idle
    obtain ⟨yrender, yarb, -⟩ := h.render here runs fun finish => absurd (stays.symm.trans finish) nofun
    have same : (decideNext w).render = s.render := yrender.trans render
    obtain ⟨state, kind, frame, nextId⟩ := render_mark on' mark' (by rw [same]; exact idle) (locked.trans lock) (by rw [yarb, arb]; rfl)
    have still := render_endEvent (settledOn (asksPreview s q) w)
    rw [goes] at still
    have e := fun {α : Type} (f : RenderUnit → α) => congrArg f still
    have shown : t.render = (endEvent (autoPreview (decideNext w))).render := congrArg (fun z => (endEvent z).render) goes
    rw [same] at frame nextId
    rw [shown]
    exact ⟨(e (·.state)).trans state, (e (·.kind)).trans kind, (e (·.frameId)).trans frame, (e (·.nextId)).trans nextId⟩

end

/-- Settles O52: SETTLE_END goes on from what ingest leaves (ingestDone) through the closed record (SettledTo, closedAs), the plane's
release (Released) and the first case of R14 (decideNext_aborts, decideNext_over, decideNext_stands) to the auto-preview, which what
comes next does not meet (Previewed). -/
theorem settleEndClosesSubframe : Obligations.SettleEndClosesSubframe := by
  unfold Obligations.SettleEndClosesSubframe
  refine ⟨fun s holder => if_pos holder, fun s st coherent memory wide phase here => ?_⟩
  have ingested := ingestFinished_ingestDone s
  have rest := ingestRest_of_ingestFinished ingested
  have wf : MemoryWf (ingestDone s) := memoryWf_of_ingestFinished ingested memory
  have holder : s.arb.holder = .ingest := coherent.ingest.mpr (.inr phase)
  have take : s.seq.takeState = .running := coherent.running_of_phase (by rw [phase]; exact nofun) |>.1
  have opened : (ingestDone s).log.openRecord ≠ none := by
    rw [(coherent_of_ingestFinished ingested coherent).openRecord, (fields_of_ingestRest rest).1]
    exact .inr (.inr (.inr phase))
  obtain ⟨q, open_⟩ := Option.ne_none_iff_exists'.mp opened
  obtain ⟨r, plane, trails, stages⟩ := exists_settledTo open_
  have h := released_of coherent phase stages
  have runs := exec_settleEnd phase holder open_
  have behind := previewed_settledOn (asksPreview s q) (settleRelease (closeRecord (settled s)))
  have granted := h.grantedRender here (asksPreview s q)
  have preview := h.preview here (q := q)
  have unasked : s.seq.abortPending = true →
      (endEvent (settledOn (asksPreview s q) (settleRelease (closeRecord (settled s))))).render.state
        = (decideNext (settleRelease (closeRecord (settled s)))).render.state := render_unasked
  obtain ⟨seq, -, -, out, port, -, -, params, settings, -⟩ := fields_of_ingestRest rest
  generalize settleRelease (closeRecord (settled s)) = w at h runs behind granted preview unasked
  generalize endEvent (settledOn (asksPreview s q) w) = t at runs behind granted preview unasked
  obtain ⟨planes, detector, cal, closed, locked, step, count, -⟩ := h.kept here
  obtain ⟨seq0, log0, -, -, -, -, cal0, plane0, -, trails0, bridge0, -⟩ := endEvent_fields (decideNext w)
  obtain ⟨abort, finish, stop, pauses⟩ := h.flags
  obtain ⟨planeT, trailsT, calT⟩ := behind.blocks
  have e := fun {α : Type} (f : Sequencer → α) => congrArg f (behind.seq.trans (by rw [seq0]))
  have read : ∀ a, readPixel t a = Memory.read Pixel.cleared plane a := fun a =>
    congrArg (fun m => Memory.read Pixel.cleared m a) (planeT.trans (plane0.trans planes))
  have cals : t.cal = calWith (closedAs (ingestDone s) r) (ingestDone s).cal := calT.trans (cal0.trans cal)
  have bridge : (decideNext w).bridge = s.bridge → t.bridge = s.bridge := fun same => behind.bus.bridge.trans (bridge0.trans same)
  have stepHere := h.stepHere here
  refine ⟨ingestDone s, q, t, closedAs (ingestDone s) r, ingested, open_, runs, (congrArg SubframeLog.closed (behind.log.trans log0)).trans closed,
    ?_, ⟨fun enabled room => ?_, fun enabled full => ?_⟩, fun light => ⟨fun row inside column within => ?_, fun a beyond => ?_⟩,
    fun light => ?_, fun dark => ?_, ?_, fun unaborted waits => granted unaborted waits, preview⟩
  · have record := stages.closed
    unfold lostAtClose outcomeAtClose unseenRows at record
    rw [seq, settings] at record
    exact record
  · obtain ⟨fits, -⟩ := closedState_told (q' := closedAs (ingestDone s) r) (plane := plane) (trails := trails) out port params enabled
    rw [← fits room]
    exact (h.tells here).trans (.of_eq (behind.bus.queued.trans (queuedTraffic_endEvent _)))
  · obtain ⟨-, shuts⟩ := closedState_told (q' := closedAs (ingestDone s) r) (plane := plane) (trails := trails) out port params enabled
    have shut := h.shuts here (shuts full)
    exact behind.bus.lost.trans ((congrArg ManagementPort.lostReports (port_endEvent _)).trans shut.2)
  · have place : pixelAt (ingestDone s) row column = pixelAt s row column := by
      unfold pixelAt
      rw [settings]
    have committed := stages.committed light wf (row := row) (column := column) (by rw [settings]; exact inside) (by rw [settings]; exact within)
    dsimp only at committed
    rw [place, settings, ← read] at committed
    exact committed
  · rw [read]
    exact stages.beyond light wf (by rw [settings]; exact wide) (by rw [settings]; exact beyond)
  · obtain ⟨-, rotated, found⟩ := stages.light light
    have detected := detected_trailsClosed (ingestDone s)
    exact ⟨cals.trans ((stages.cal _).1 light), trailsT.trans (trails0.trans (detector.trans rotated)), detected.index, detected.boxes,
      detected.queue, r, found, rfl⟩
  · obtain ⟨-, still, same⟩ := stages.dark dark
    refine ⟨trailsT.trans (trails0.trans (detector.trans same)), planeT.trans (plane0.trans (planes.trans still)), ?_⟩
    rw [cals, (stages.cal _).2 dark, seq]
  · refine ⟨(e (·.step)).trans step, (e (·.count)).trans count, fun stops => bridge (h.bridge here stops), fun aborts => ?_,
      fun unaborted ended finishes => ?_, fun unaborted ended finishes => ?_, fun unaborted ended paused => ?_, fun unaborted ended unpaused => ?_⟩
    · obtain ⟨aborted, invalid, idle, -⟩ := next_aborted stepHere (abort.trans aborts) (h.dropped aborts)
      exact ⟨(e (·.takeState)).trans aborted, (e (·.planeValid)).trans invalid, (unasked aborts).trans idle⟩
    · obtain ⟨complete, unstopped, unpaused⟩ := next_complete stepHere (abort.trans unaborted) (h.planOver.mpr ended) (finish.trans finishes)
      exact ⟨(e (·.takeState)).trans complete, (e (·.stopPending)).trans unstopped, (e (·.pausePending)).trans unpaused⟩
    · refine (e (·.takeState)).trans ((next_finishing stepHere (abort.trans unaborted) (h.planOver.mpr ended) (finish.trans finishes)).trans ?_)
      rw [h.rest.2]
      refine if_congr (or_congr Iff.rfl ?_) rfl rfl
      cases state : s.render.state with
      | idle => rw [(h.idle unaborted state).1, state]
      | pending =>
        rw [(h.granted unaborted state).1]
        exact ⟨fun _ => nofun, fun _ => nofun⟩
      | active => exact absurd (coherent.active.mp state) (by rw [holder]; exact nofun)
    · obtain ⟨paused', unpaused, unstarted⟩ := next_paused stepHere (abort.trans unaborted) (mt h.planOver.mp ended) (pauses.trans paused)
      obtain ⟨-, -, done⟩ := h.positions (st := st)
      exact ⟨(e (·.takeState)).trans paused', (e (·.pausePending)).trans unpaused, (e (·.notStarted)).trans (unstarted.trans done)⟩
    · have pause : s.seq.pausePending = false := unpaused
      refine ⟨(e (·.takeState)).trans (h.running here unaborted take ended pause), fun next there => ⟨fun moved => ?_, fun moved => ?_⟩⟩
      · exact h.waits here behind unaborted take ended pause there seq moved
      · exact h.moves here behind unaborted take ended pause there moved

end Sys2Proof.Machine
end
